-- ==== Sys2Proof/Word.lean ====
section
/-!
DEFINITION. The word types the engine's registers, addresses and rows are made of (00 R3, R4).
-/
namespace Sys2Proof

/-- One byte of a register, row, record, flit or block; bit 0 is the least significant bit (00 R3). -/
abbrev Byte := BitVec 8

/-- The bits of one FP32 value (02 R31). -/
abbrev F32 := BitVec 32

/-- One 32-bit register (15 R335). -/
abbrev Reg := BitVec 32

/-- One of the 16 contexts (12 R273). -/
abbrev CtxId := Fin 16

/-- One of the 16 DMA or gather channels (14, 09 R210). -/
abbrev ChanId := Fin 16

/-- One of the 80 core ports (06 R128). -/
abbrev PortId := Fin 80

/-- One of the 8 slices (00, levels of hierarchy). -/
abbrev SliceId := Fin 8

end Sys2Proof
end

