-- ==== Sys2Proof/Syntax.lean ====
section
/-!
DEFINITION. The commands of the block: one constructor of `Instr` per row of spec/opcode_table.json, in the
table's order. An operand is what the outside brings with that step: which context, channel, port, tile or stream
it concerns, the word written, the bytes that arrive, or a measurement of the silicon.
-/
namespace Sys2Proof

/-- The path on which an envelope reaches the security unit (16 R357). -/
inductive CritPath where
  /-- the envelope registers, presented by GO -/
  | setup
  /-- a CRIT descriptor on the ring of a context -/
  | ring (ctx : CtxId)
  deriving DecidableEq, Repr

/-- The ring registers of a context page (13 R291). -/
inductive RingReg where
  | sqBaseLo | sqBaseHi | cqBaseLo | cqBaseHi | dbLo | dbHi | ringSize | poll
  deriving DecidableEq, Repr

/-- The adaptation group registers of a context page (19 R396). -/
inductive GrpReg where
  | grp
  | peer (l : Fin 16)
  deriving DecidableEq, Repr

/-- The three bandwidth regulators of a context (12, table of regulators). -/
inductive RegKind where
  | memory | spore | feed
  deriving DecidableEq, Repr

/-- The beats a slice spent waiting while it streamed one token: measurements, not rules (01 R12, 19 R397). -/
structure Waits where
  stall : BitVec 32
  fill : BitVec 32
  swap : BitVec 32
  deriving DecidableEq, Repr

/-- The fuse input of the engine (15 R350). -/
structure FusePins where
  chipId : BitVec 16
  engineId : Bool
  sliceFused : BitVec 8
  corePresent : BitVec 80
  disabledMap : BitVec 8
  deriving DecidableEq, Repr

/-- One record of the sensor block (15 R347). -/
structure SensorRec where
  vddNde : BitVec 12
  vddNsram : BitVec 12
  temps : Vector (BitVec 10) 8
  deriving DecidableEq, Repr

/-- What the hard-wired self-test measured and found (17 R366, R367): the failing cases of each step as its
`NDE_ST_DETAIL` word, the first failing SRAM word of each slice, and each slice's beat rate in M beats/s. -/
structure SelfTestResult where
  details : Vector (BitVec 32) 11
  sram : Vector (BitVec 32) 8
  rates : Vector (BitVec 16) 8
  deriving DecidableEq, Repr

/-- A report on the status lane of a spore port (15 R345). -/
inductive LinkReport where
  | unreachable (chip : BitVec 16)
  | reachable (chip : BitVec 16)
  | portDown
  | portUp
  deriving DecidableEq, Repr

/-- How a host-bridge access ended (13 R317). -/
inductive HostOutcome where
  /-- it succeeded; a read brings its bytes -/
  | ok (data : List Byte)
  | busError
  /-- the bridge reports the address as permanently unreachable -/
  | unreachable
  deriving DecidableEq, Repr

/-- The two kinds of instruction store error (17 R376). -/
inductive EccKind where
  | single | double
  deriving DecidableEq, Repr

/-- Who sends a refused READ_REQ again (07 R175): a gather channel, or the EPOCH_WAIT of a context. -/
inductive Retrier where
  | chan (ch : ChanId)
  | wait (ctx : CtxId)
  deriving DecidableEq, Repr

/-- The commands. -/
inductive Instr where
  | tileRoute (ctx : CtxId)
  | tileCombine (ctx : CtxId)
  | tileReverse (ctx : CtxId)
  | xformCopy (ctx : CtxId)
  | gather (ctx : CtxId)
  | scatterAcc (ctx : CtxId)
  | transpose (ctx : CtxId)
  | expand (ctx : CtxId)
  | dmaCopy (ctx : CtxId)
  | dmaFill (ctx : CtxId)
  | dmaCompare (ctx : CtxId)
  | seqJoin (ctx : CtxId)
  | seqLeave (ctx : CtxId)
  | stepBuild (ctx : CtxId)
  | modelLoad (ctx : CtxId)
  | modelUnpin (ctx : CtxId)
  | modelPin (ctx : CtxId)
  | modelForget (ctx : CtxId)
  | fence (ctx : CtxId)
  | fenceRelease (ctx : CtxId)
  | epochWaitOwner (ctx : CtxId)
  | epochWaitWord (ctx : CtxId)
  | epochWaitPoll (ctx : CtxId)
  | tdescCreate (ctx : CtxId)
  | tdescDestroy (ctx : CtxId)
  | tdescFree (ctx : CtxId)
  | ctxCreate (path : CritPath)
  | ctxDestroy (path : CritPath)
  | ctxClass (path : CritPath)
  | ctxMode (path : CritPath)
  | ctxWindows (path : CritPath)
  | ctxRegulate (path : CritPath)
  | disabledMap (path : CritPath)
  | selftestReq (path : CritPath)
  | fwLoad (path : CritPath)
  | keyLoad (path : CritPath)
  | keyErase (path : CritPath)
  | alarmPolicy (path : CritPath)
  | keyStoreEraseDone
  | ctxEnable (ctx : CtxId) (word : Reg)
  | ctxDisable (ctx : CtxId) (word : Reg)
  | ctxReset (ctx : CtxId) (word : Reg)
  | clearAcct (ctx : CtxId) (word : Reg)
  | drainEnd (ctx : CtxId)
  | ringConfigWrite (ctx : CtxId) (reg : RingReg) (word : Reg)
  | ctxGroupWrite (ctx : CtxId) (reg : GrpReg) (word : Reg)
  | schedQuantumWrite (word : Reg)
  | tdcClear
  | clearEng
  | clearCtx (ctx : CtxId)
  | tableSnapshot (word : Reg)
  | spillPeerCfgWrite (n : Fin 32) (word : Reg)
  | corePortRestore (m : Fin 3) (word : Reg)
  | dmaChannelEnable (ch : ChanId) (word : Reg)
  | dmaChannelDisable (ch : ChanId) (word : Reg)
  | dmaAbort (ch : ChanId) (word : Reg)
  | dmaBurstIssue (ch : ChanId)
  | latchedPairRead (offset : BitVec 20)
  | registerWrite (offset : BitVec 20) (word : Reg) (enables : BitVec 4)
  | doorbellPoll (ctx : CtxId)
  | doorbellReadDone (ctx : CtxId) (word : Option (BitVec 64))
  | descriptorFetch (ctx : CtxId)
  | descriptorArrival (ctx : CtxId) (descs : Option (List (BitVec 512)))
  | schedPick
  | schedQuantumExpire
  | preemptLimitExpire
  | modeChangeApply (ctx : CtxId)
  | regulatorWindow (ctx : CtxId) (which : RegKind)
  | tileStageBegin
  | tokenPrenorm (tile : Fin 4) (token : BitVec 12)
  | tokenScore (tile : Fin 4) (token : BitVec 12) (waits : Waits)
  | weightSetLoad
  | tokenSelect (tile : Fin 4) (token : BitVec 12)
  | hotsetMissFetch (tile : Fin 4)
  | bucketing (tile : Fin 4)
  | courseStart (tile : Fin 4)
  | packetWrite (port : PortId)
  | packetSelect (port : PortId)
  | feedFlitGrant (ready : BitVec 80)
  | drainFlit (port : PortId) (tag : BitVec 128) (data : List Byte)
  | endOfPacketMark (port : PortId) (tag : BitVec 128)
  | coreTimeout (port : PortId)
  | tokenCombine (tile : Fin 4) (token : BitVec 12)
  | tileCommit
  | groupReduce (ctx : CtxId)
  | statTimeout (ctx : CtxId)
  | basolBlockSend (chip : BitVec 16) (engine : Bool)
  | basolBlockReceive (port : Fin 8) (block : List Byte)
  | spore (chip : BitVec 16) (engine : Bool)
  | result (chip : BitVec 16) (engine : Bool)
  | abandon (chip : BitVec 16) (engine : Bool)
  | statUp (chip : BitVec 16) (engine : Bool)
  | statDown (chip : BitVec 16) (engine : Bool)
  | readReq (chip : BitVec 16) (engine : Bool)
  | readData (chip : BitVec 16) (engine : Bool)
  | readRetryTimer (who : Retrier)
  | ack (port : Fin 8) (frame : BitVec 128)
  | nak (port : Fin 8) (frame : BitVec 128)
  | credit (port : Fin 8) (frame : BitVec 128)
  | refuse (port : Fin 8) (frame : BitVec 128)
  | ackTimeout (chip : BitVec 16) (engine : Bool)
  | lostTimeout (chip : BitVec 16) (engine : Bool)
  | streamEndTimeout (chip : BitVec 16) (engine : Bool)
  | sendStateRelease (chip : BitVec 16) (engine : Bool)
  | inboundStreamRelease (chip : BitVec 16) (engine : Bool)
  | creditRepeat (chip : BitVec 16) (engine : Bool)
  | linkStatusReport (port : Fin 8) (report : LinkReport)
  | memReadResponse (tag : BitVec 12) (data : List Byte)
  | memWriteResponse (tag : BitVec 12)
  | memErrorResponse (tag : BitVec 12)
  | beatWindowEnd (beats : Vector (BitVec 32) 8)
  | paceCredit (lost : BitVec 32)
  | currentGrant (grant : BitVec 8) (need : BitVec 8)
  | fillerLimitExpire
  | rampStep (draw : BitVec 8)
  | sensorRecord (rec : SensorRec)
  | sensorStale
  | timebaseStep (sample : BitVec 64)
  | tamperInput (ticks : Nat)
  | handshakeFault
  | resetAssert (ticks : Nat)
  | resetRelease (pins : FusePins)
  | powerOff
  | provisionSlotWrite (slot : Fin 8) (key : BitVec 256) (perm : BitVec 6) (floor : BitVec 64)
  | provisionSlotZero (slot : Fin 8)
  | dmAck
  | quiesceDone
  | selftestComplete (result : SelfTestResult)
  | instructionStoreError (kind : EccKind)
  | hostBridgeResponse (id : BitVec 16) (outcome : HostOutcome)
  | selftestKeyStoreStepEnd
  deriving DecidableEq, Repr

end Sys2Proof
end

