-- ==== Sys2Proof/Machine/State.lean ====
section
/-!
DEFINITION. The state of the engine as plain data, the reasons a step can stop, and the state right after reset.
Registers that only show other state (core queue counts, stream counts, ...) are computed where they are read
(Machine/RegFile.lean); everything the spec gives the machine to remember is a field here.
-/
namespace Sys2Proof.Machine

/-! ## Why a step stops -/

/-- No command of this block ends in a fault: every failure the spec names is a status, a context fault, a violation
or a lost peer, and each of those is a next state. -/
inductive Fault where
  /-- Raised by no meaning; it stands for an access beyond the 48-bit memory port (15 R337), which the window checks
  rule out. Safe. -/
  | beyondPort
  deriving DecidableEq, Repr

/-- Why a command has no meaning. -/
inductive Refusal where
  /-- Raised by `exec` itself for a row whose meaning is not written yet. Safe. -/
  | notModelled (mnemonic : String)
  /-- Raised by a meaning whose operand could not stand on its port (`Instr.wf` fails). Safe: the port has no such
  transfer. -/
  | illFormed (what : String)
  deriving DecidableEq, Repr

/-! ## Memory the engine meets -/

/-- Memory as the engine meets it at a port: the bytes that are not zero, by rising address (notes/assumptions/2.md).
Which accesses meet an error is the port's answer (notes/assumptions/3.md). -/
structure Memory where
  cells : List Host.Cell
  deriving DecidableEq, Repr

/-- Who waits for a memory request. -/
inductive MemOwner where
  /-- staging of token `t` of the tile of this context and epoch (01 R9 stage 1) -/
  | stage (ctx : CtxId) (epoch : BitVec 16) (t : Nat)
  /-- a result row of a slot (08 R181) -/
  | slot (ctx : CtxId) (epoch : BitVec 16) (index : Nat)
  /-- route log, position list header and record writes of a tile (08 R194) -/
  | tile (ctx : CtxId) (epoch : BitVec 16)
  /-- output row, position and gate gradients of a token (08 R185, R188, R197) -/
  | out (ctx : CtxId) (epoch : BitVec 16) (t : Nat)
  /-- the checks of the tile-path descriptor with this fetch count (13 R304) -/
  | check (ctx : CtxId) (c : BitVec 32)
  /-- what staging reads beside the rows: logs, positions, token mask, exit map (08 R187, R196, 05 R113) -/
  | prep (ctx : CtxId)
  /-- the hold record of a token (05 R116) -/
  | sel (ctx : CtxId) (epoch : BitVec 16) (t : Nat)
  /-- a weight set of a streamed route context (10 R248) -/
  | set (ctx : CtxId) (epoch : BitVec 16)
  /-- the terms of a token's combine (08 R192) -/
  | comb (ctx : CtxId) (epoch : BitVec 16) (t : Nat)
  /-- a mover's rows (09), written and read -/
  | mover (ch : ChanId)
  | moverRead (ch : ChanId)
  /-- the record and the block list of a TDESC_CREATE (09 R204, R211) -/
  | table (ctx : CtxId)
  /-- the header and the biases that MODEL_LOAD checks (05 R101, 10 R244) -/
  | model
  /-- the body of the envelope that the security unit handles (16 R356) -/
  | crit
  /-- the rows of a READ_REQ that is being answered (07 R175) -/
  | serve (n : Nat)
  /-- the bias state that an update changes (05 R122) -/
  | bias (ctx : CtxId)
  /-- exit map and work list writes (10 R239); `last` is the header -/
  | step (ctx : CtxId) (last : Bool)
  /-- a fetch of a route context into the store (10 R244, R247) -/
  | hot (dir : Nat)
  /-- what an abandoned tile's commit had written goes back to what it was (05 R119) -/
  | undo (ctx : CtxId)
  /-- the save record (12 R281, R282); `n` is its number, or that of the record cleared at a reset (R286) -/
  | saveWrite (ctx : CtxId) (n : BitVec 32)
  | saveRead (ctx : CtxId)
  /-- the word of an EPOCH_WAIT (13 R310) -/
  | wait (ctx : CtxId)
  /-- bytes of a DMA burst from offset `off` on (14 R321); `second` is COMPARE's second operand -/
  | dmaRead (ch : ChanId) (burst : Nat) (second : Bool) (off : Nat)
  | dmaWrite (ch : ChanId) (burst : Nat)
  /-- an access of a burst that an abort discarded (14 R327) -/
  | dmaDead (ch : ChanId)
  /-- nobody: its response is discarded -/
  | dead
  /-- bias state or statistics record (05 R122, R125) -/
  | stats (ctx : CtxId)
  deriving DecidableEq, Repr

/-- One request word of the memory port (15 R337). A write carries its bytes and, once issued, what its range held
before; a read carries none. `later` lists the ranges that requests issued after it write (15 R338). `rank` is its
place in 01 R24 (7 for accesses without a rank). -/
structure MemReq where
  tag : BitVec 12
  owner : MemOwner
  write : Bool
  addr : Nat
  len : Nat
  data : List Byte
  old : List Byte
  later : List (Nat × Nat)
  rank : Nat
  charge : Option CtxId
  deriving DecidableEq, Repr

/-- Why a host-bridge access was made. -/
inductive HostOwner where
  | record (ctx : CtxId)
  /-- a record left over at the reset of its context (12 R286) -/
  | lastRecord (ctx : CtxId)
  /-- a write of diagnosis record number `k` since power-on (17 R371) -/
  | diag (k : Nat)
  | dmaRead (ch : ChanId) (burst : Nat) (second : Bool) (off : Nat)
  | dmaWrite (ch : ChanId) (burst : Nat)
  | dmaDead (ch : ChanId)
  | dead
  deriving DecidableEq, Repr

/-- One access through the host bridge that has not returned (13 R317, 14 R323). -/
structure HostReq where
  id : BitVec 16
  owner : HostOwner
  write : Bool
  addr : Nat
  len : Nat
  data : List Byte
  deriving DecidableEq, Repr

/-! ## Descriptors and records -/

/-- The units that accept descriptors (13 R298). -/
inductive UnitId where
  | tilePath
  | gather (ch : ChanId)
  | dma (ch : ChanId)
  | table
  | stepBuilder
  | hotSet
  | walker
  | security
  deriving DecidableEq, Repr

/-- A descriptor that the ring walker holds or a unit has: its fetch count and its 64 bytes. -/
structure Job where
  c : BitVec 32
  raw : BitVec 512
  /-- it waits for a step boundary (10 R231, R233) -/
  boundary : Bool
  deriving DecidableEq, Repr

/-- A completion record before it is written (13 R314). -/
structure Rec where
  c : BitVec 32
  tag : BitVec 16
  opcode : BitVec 8
  status : BitVec 8
  v0 : BitVec 64
  v1 : BitVec 64
  v2 : BitVec 32
  unit : UnitId
  deriving DecidableEq, Repr

/-! ## Contexts -/

/-- 12 R275. -/
inductive CtxState where
  | free | idle | queued | running | preempting | draining | faulted
  deriving DecidableEq, Repr

/-- A memory window, from `base` up to, not including, `limit` (09 R202). -/
structure Window where
  base : BitVec 48
  limit : BitVec 48
  deriving DecidableEq, Repr

/-- A bandwidth regulator (12 R287, R288): window in µs, budget in 64-byte units, bytes used in window number
`winNo`, settings that wait (window, budget, tick from which they hold), oldest first, and whether a request is
held. -/
structure Regul where
  window : Nat
  budget : Nat
  used : Nat
  winNo : Nat
  next : List (Nat × Nat × Nat)
  held : Bool
  deriving DecidableEq, Repr

/-- One entry NDE_CTX_GRP_PEER_l (19 R396). -/
structure GrpPeer where
  chip : BitVec 16
  engine : Bool
  ctx : BitVec 4
  valid : Bool
  deriving DecidableEq, Repr

/-- A tensor descriptor (09 R201); `raw` is the low 16 bytes' flags, sizes are stored less one. -/
structure TDesc where
  fmt : Nat
  ndim : Nat
  wrap : Bool
  strict : Bool
  dist : Bool
  win : Nat
  fill : F32
  base : Nat
  sizes : List Nat
  strides : List Nat
  ownerBase : Nat
  blockDim : Nat
  blockLen : Nat
  selfOverlap : Bool
  /-- fetch count of the TDESC_DESTROY that waits to free it (09 R206) -/
  dying : Option (BitVec 32)
  deriving DecidableEq, Repr

/-- The progress of a tile-path descriptor (12 R281). -/
structure TpJob where
  c : BitVec 32
  raw : BitVec 512
  /-- the 128-byte combine block, read at fetch (13 R303) -/
  cblk : BitVec 1024
  /-- tokens N, or route logs -/
  count : Nat
  k : Nat
  /-- the checks of fetch have passed -/
  checked : Bool
  /-- next tile to stage: index and descriptor position -/
  nextTile : Nat
  nextPos : Nat
  /-- status 0 and 2 tokens of the tiles staged and filled so far, for the compact index (08 R187) -/
  compact : Nat
  /-- totals of the committed tiles -/
  committed : Nat
  committedPos : Nat
  written : Nat
  exited : Nat
  courses : Nat
  deferred : Bool
  preempted : Bool
  /-- Owner Table entries of the blocks it wrote to (09 R214) -/
  touched : List Nat
  deriving DecidableEq, Repr

/-- What one layer gathers over one context step (05 R120). -/
structure LayerStat where
  model : BitVec 16
  layer : BitVec 8
  counts : List Nat
  gates : List F32
  routed : Nat
  exited : Nat
  held : Nat
  invalid : Nat
  deriving DecidableEq, Repr

/-- Where a member stands in the reduction of one layer (05 R121). -/
inductive RedPhase where
  /-- it joins its children level by level; next level -/
  | up (level : Nat)
  /-- it has sent STAT_UP and waits for the totals -/
  | waitDown
  deriving DecidableEq, Repr

/-- One reduction in progress (05 R121), of the step that ended. -/
structure Reduction where
  stat : LayerStat
  step : BitVec 64
  phase : RedPhase
  /-- tick since which it waits for a STAT -/
  since : BitVec 64
  /-- its STAT_UP messages that came early -/
  arrived : List (Nat × LayerStat)
  deriving DecidableEq, Repr

/-- Why later descriptors of a context are held (13 R309 to R311, 10 R234). -/
inductive Hold where
  | fence
  /-- source 0: the tag of a remote block's request, which is sent again 1 µs after a RETRY at `retryAt` (07 R175) -/
  | epochOwner (tag : BitVec 16) (retryAt : Option (BitVec 64))
  | epochWord (reading : Bool) (lastRead : BitVec 64)
  | crit
  | step
  deriving DecidableEq, Repr

/-- A step boundary whose writes have not all returned (10 R239): the work list's header, where it goes, what the
STEP_BUILD's record will say, whether the header has been issued and whether a write failed. -/
structure StepRun where
  wl : Nat
  header : List Byte
  value1 : Nat
  headerOut : Bool
  failed : Bool
  deriving DecidableEq, Repr

/-- A ring read in progress (13 R292, R297): its descriptors, the address of the first, and whether it takes only their
8-byte headers (13 R300). -/
structure FetchRead where
  count : Nat
  addr : Nat
  headers : Bool
  deriving DecidableEq, Repr

/-- Totals of a layer whose update waits for the bias state to be read (05 R122), with its place among the updates of
every context (R124). -/
structure PendUpdate where
  no : Nat
  stat : LayerStat
  step : BitVec 64
  deriving DecidableEq, Repr

/-- One scheduling context (12 R273) with its page of registers. -/
structure Ctx where
  state : CtxState
  lc : Bool
  enabled : Bool
  enablePending : Bool
  resetPending : Bool
  destroyPending : Bool
  drainBusy : Bool
  faultStatus : BitVec 8
  det : Bool
  pace : Bool
  pendMode : Option (Bool × Bool)
  /-- the commands that complete when the mode change is applied: path, value0 and value2 -/
  modeWaiters : List (CritPath × BitVec 64 × BitVec 32)
  tdcSeen : Bool
  save : BitVec 48
  saves : BitVec 32
  /-- the save record in memory names a descriptor in progress (12 R281) -/
  saveValid : Bool
  /-- the save record has been read since the context entered RUNNING (12 R282) -/
  resumed : Bool
  /-- the record written in PREEMPTING, whose response ends that state (12 R275) -/
  leaving : Option (BitVec 32)
  windows : Vector Window 4
  regMem : Regul
  regSpore : Regul
  regFeed : Regul
  acct : Vector (BitVec 64) 8
  acctWrap : BitVec 8
  coreset : BitVec 80
  spillMask : BitVec 32
  step : BitVec 64
  epoch : BitVec 16
  /-- tick at which the last epoch began (07 R166) -/
  lastEpoch : Option (BitVec 64)
  grpRank : BitVec 16
  grpMembers : BitVec 16
  grpErr : Bool
  grpPeers : Vector GrpPeer 16
  sqBase : BitVec 64
  cqBase : BitVec 64
  db : BitVec 64
  sqLog2 : BitVec 5
  cqLog2 : BitVec 5
  pollMax : BitVec 9
  pollNow : BitVec 9
  /-- tick of the last doorbell poll -/
  lastPoll : Option (BitVec 64)
  dbReading : Bool
  cfgErr : Bool
  badDoorbell : Bool
  hostErr : Bool
  fetched : BitVec 32
  written : BitVec 32
  tail : BitVec 32
  head : BitVec 32
  /-- the outstanding ring read -/
  fetching : Option FetchRead
  /-- a ring read met a bus error; the next poll allows another (13 R317) -/
  fetchFailed : Bool
  /-- fetched and not yet dealt, in ring order -/
  walker : List Job
  hold : Option Hold
  /-- EPOCH_WAITs on remote blocks so far, which number their requests -/
  waitNo : BitVec 11
  /-- dealt and not completed, in fetch order, with the unit of each -/
  dealt : List (UnitId × Job)
  /-- tile-path descriptors that have failed or been aborted, and still wait for writes of their tiles (13 R309, R314) -/
  ending : List Rec
  /-- completed, in completion order, not yet in the queue -/
  recs : List Rec
  /-- the first of `recs` is being written -/
  recBusy : Bool
  /-- fetch counts of the descriptors that the drain in progress completed (12 R283 step 5) -/
  drainRecs : List (BitVec 32)
  joinSeq : BitVec 64
  /-- the boundary in progress -/
  building : Option StepRun
  tensors : List (Nat × TDesc)
  tp : List TpJob
  stats : List LayerStat
  reductions : List Reduction
  /-- totals that have come and are being applied, in order (05 R122) -/
  updates : List PendUpdate
  /-- a member was lost: the next TILE_ROUTE completes with PEER_LOST (05 R123) -/
  groupLost : Bool
  tele : Vector (BitVec 64) 34
  teleWrap : BitVec 34
  deriving DecidableEq, Repr

/-! ## Tile path -/

/-- 05 R111: what became of a token. -/
inductive TokStatus where
  | routed | exited | invalid | masked
  deriving DecidableEq, Repr

/-- A candidate of the sorter (05 R106). -/
structure Cand where
  key : F32
  z : F32
  q : F32
  e : Nat
  deriving DecidableEq, Repr

/-- The selection state a token carries from one logit tile to the next (05 R105). -/
structure SelState where
  m : F32
  s : F32
  cands : List Cand
  deriving DecidableEq, Repr

/-- One token of a tile in flight. -/
structure Tok where
  /-- original position P (08 R187) and sequence position p (10 R242) -/
  orig : Nat
  pos : Nat
  /-- the staged row (none until its reads have returned) -/
  row : Option (List Byte)
  /-- which slice scores it (03 R56, R57) -/
  slice : Option SliceId
  /-- router input, decoded to FP32 (03 R63), and the halt logit (03 R65) -/
  y : Option (List F32)
  nanInput : Bool
  halt : F32
  /-- weight sets streamed so far -/
  sets : Nat
  /-- partial logits of the logit tile in progress (03 R70) -/
  part : List F32
  /-- some logit seen was NaN or +∞; every logit seen was −∞ (05 R108) -/
  badLogit : Bool
  allNegInf : Bool
  sel : SelState
  /-- the choices that selection gave it, with gates, in rank order -/
  choices : List (Nat × F32)
  sketch : Option (BitVec 64)
  /-- its hold record as read (05 R116) -/
  holdRec : List Byte
  held : Bool
  status : Option TokStatus
  /-- number of status 0 and 2 tokens before it in the descriptor (08 R187) -/
  compact : Nat
  /-- it has a frame, and its terms are being read (08 R192) -/
  mixing : Bool
  combined : Bool
  deriving DecidableEq, Repr

/-- A Route Table entry is 16 bytes, held as one number (05 R109). -/
abbrev RtEntry := BitVec 128

/-- One Route Table bank with its two registers (05 R110, 19 R400). -/
structure Bank where
  entries : List (Nat × RtEntry)
  busy : Bool
  ctx : BitVec 4
  kMinus1 : BitVec 4
  tokens : BitVec 13
  epoch : BitVec 16
  deriving DecidableEq, Repr

/-- A unit of a core feed: a word of the item lane, or flit `f` of token `t`'s row (15 R340). -/
inductive FeedUnit where
  | item (w : BitVec 128)
  | flit (t : Nat) (f : Nat)
  deriving DecidableEq, Repr

/-- 06 R141, after WRITING. -/
inductive PktState where
  | committed | feeding | awaiting
  deriving DecidableEq, Repr

/-- A packet of a core work queue (06 R139): its header, its place in the queue, what is still to be fed, and the
choices whose results have not returned. -/
structure Packet where
  srcChip : BitVec 16
  ctx : BitVec 4
  lc : Bool
  spore : Bool
  engine : Bool
  course : BitVec 8
  epoch : BitVec 16
  items : Nat
  choices : Nat
  /-- Table SRAM offset of its item and choice list (06 R139) -/
  listPtr : BitVec 32
  seq : BitVec 16
  state : PktState
  feed : List FeedUnit
  returned : Nat
  rowFmt : Nat
  outFmt : Nat
  d : Nat
  lcomp : Bool
  /-- the token row of a spore, kept in the receive buffer (07 R160) -/
  row : List Byte
  /-- receive buffer places the spore holds -/
  places : Nat
  aborted : Bool
  /-- its home engine is lost: its results are discarded at the drain (07 R173) -/
  lost : Bool
  /-- tick of its last activity on the port (15 R343) -/
  since : BitVec 64
  /-- result slots of its choices -/
  slots : List Nat
  deriving DecidableEq, Repr

/-- A core work queue (06 R139 to R144) and the drain row in progress on its port (15 R341). -/
structure CoreQ where
  packets : List Packet
  lastCommit : BitVec 16
  lastTaken : BitVec 16
  drainTag : BitVec 128
  drainRow : List Byte
  deriving DecidableEq, Repr

/-- What a tile-path descriptor's tile is for. -/
inductive TileKind where
  | route | combine | reverse
  deriving DecidableEq, Repr

/-- A tile in flight (01 R10). -/
structure Tile where
  ctx : CtxId
  c : BitVec 32
  kind : TileKind
  i : Nat
  tau0 : Nat
  n : Nat
  k : Nat
  d : Nat
  epoch : BitVec 16
  model : BitVec 16
  layer : BitVec 8
  /-- bytes of the route context header (03 R53), or of the route log header -/
  hdr : List Byte
  toks : List Tok
  rowFmt : Nat
  /-- step counter its streams use (11 R269) -/
  step : BitVec 64
  replay : Bool
  bank : Option (Fin 2)
  halfHeld : Bool
  /-- byte of each slice's Token Stage at which its rows begin (02 R48, R50) -/
  stageAt : Nat
  adaptive : Bool
  sharesDealt : Bool
  /-- the route context was not resident when scoring began (10 R247) -/
  missed : Bool
  missTick : BitVec 64
  fetching : Bool
  /-- it holds the 256 units of the set buffers (10 R248); which ones -/
  bufs : Bool
  bufUnits : List Nat
  /-- what the set buffers and the cells hold of a streamed route context: the number of each set in the tile's walk and
  its bytes -/
  sets : List (Nat × List Byte)
  /-- tick of the first scoring beat of each slice -/
  scoreFrom : Vector (Option (BitVec 64)) 8
  streamed : Vector (BitVec 64) 8
  /-- tokens whose Route Table entries are written (05 R110) -/
  fillPos : Nat
  filled : Bool
  bucketed : Bool
  bucketTick : BitVec 64
  /-- core set positions read at bucketing (06 R128) -/
  cores : List PortId
  course : Nat
  /-- courses not yet started: their choices in Route Table order -/
  later : List (List Nat)
  coursesRun : Nat
  /-- packets dealt and not yet written, with their ports (06 R137, R140) -/
  writers : List (PortId × Packet)
  /-- one bit per bank entry (08 R181) -/
  fill : List Bool
  /-- spilled slots with the peer of each -/
  spilled : List (Nat × BitVec 16 × Bool)
  /-- the route log's body and header have been issued -/
  closed : Bool
  logged : Bool
  /-- entries of the log it replays (08 R196) -/
  log : List RtEntry
  /-- weight sets broadcast for it (03 R69) -/
  bcast : Nat
  /-- it is committing: its records are being written (05 R119) -/
  committing : Bool
  /-- what stood before where its records go, so that an abandoned tile leaves none of them (05 R119) -/
  undo : List (Nat × List Byte)
  /-- abandoned under R166, or committed with spores not acknowledged, and still holding its resources (01 R10) -/
  dead : Bool
  /-- it is `dead` because it has committed -/
  committed : Bool
  deriving DecidableEq, Repr

/-- A slice (19 R397, 11 R253) and its Frond segments (03 R69). -/
structure Slice where
  det : Bool
  pace : Bool
  ctx : BitVec 4
  suspect : Bool
  beats : BitVec 64
  /-- those of the beat window in progress that `beats` has counted -/
  seen : BitVec 64
  stream : BitVec 64
  stall : BitVec 64
  fill : BitVec 64
  swap : BitVec 64
  shareTokens : BitVec 13
  shareAdaptive : Bool
  rho : Nat
  beatWin : BitVec 32
  /-- weight sets in the cells: context key, logit tile, pass -/
  active : Option (BitVec 24 × Nat × Nat)
  shadow : Option (BitVec 24 × Nat × Nat)
  deriving DecidableEq, Repr

/-! ## Tables -/

/-- 10 R229. -/
inductive SeqState where
  | free | pending | active | leaving
  deriving DecidableEq, Repr

/-- An entry of the Sequence Table (10 R229). -/
structure Seq where
  state : SeqState
  ctx : CtxId
  exitEn : Bool
  holdLayers : Nat
  holdKmax : Nat
  deferAge : Nat
  uid : BitVec 32
  seed : BitVec 64
  tokens : Nat
  stepsTotal : Nat
  stepIndex : Nat
  joinSeq : BitVec 64
  resBase : Nat
  resBytes : Nat
  exitBase : Nat
  holdBase : Nat
  userBytes : Nat
  /-- fetch count of the SEQ_JOIN while it has not completed -/
  joinC : Option (BitVec 32)
  /-- fetch count of the SEQ_LEAVE that waits for the boundary -/
  leaveC : Option (BitVec 32)
  deriving DecidableEq, Repr

/-- An entry of the Owner Table (07 R174) with the descriptor that holds it (09 R211). -/
structure OwnerEntry where
  raw : BitVec 128
  ctx : CtxId
  index : Nat
  deriving DecidableEq, Repr

/-- An entry of the hot-set directory (10 R244), with what the Router Weight Store holds of it. -/
structure HotEntry where
  model : BitVec 16
  layer : BitVec 8
  image : Nat
  units : Nat
  /-- its unit list: the store units it holds (10 R245) -/
  unitList : List Nat
  streamed : Bool
  pinned : Bool
  resident : Bool
  stamp : BitVec 32
  /-- a MODEL_LOAD, a MODEL_PIN or a miss fetch is loading it, and whether a read of it has failed -/
  loading : Bool
  failed : Bool
  /-- the 256-byte header -/
  hdr : List Byte
  /-- the image bytes in the store; empty when not resident -/
  store : List Byte
  /-- the selection biases in the store (05 R100) -/
  bias : List F32
  /-- biases written by an update while it was being loaded (05 R122) -/
  adapted : Option (List F32)
  deriving DecidableEq, Repr

/-- A frame of a Mortar section (08 R191): its slice, its token and its bytes. -/
structure Frame where
  slice : SliceId
  ctx : CtxId
  epoch : BitVec 16
  tok : Nat
  bytes : Nat
  deriving DecidableEq, Repr

/-- Block places that a RESULT's blocks hold until its row is written to slot `index` (07 R160). -/
structure RowHold where
  ctx : CtxId
  epoch : BitVec 16
  index : Nat
  chip : BitVec 16
  engine : Bool
  places : Nat
  deriving DecidableEq, Repr

/-- Work of the hot-set manager (10 R244, R249). -/
structure HotJob where
  ctx : CtxId
  c : BitVec 32
  raw : BitVec 512
  /-- directory index once it loads -/
  dir : Option Nat
  evicted : Nat
  deriving DecidableEq, Repr

/-- A read of a remote block in progress (07 R175): the source row it brings. -/
structure RReq where
  tag : BitVec 16
  row : Nat
  entry : Nat
  off : Nat
  chip : BitVec 16
  engine : Bool
  /-- a RETRY came at this tick and it has not been sent again -/
  retryAt : Option (BitVec 64)
  deriving DecidableEq, Repr

/-- A mover descriptor in progress on a gather channel (09). -/
structure MoverRun where
  ctx : CtxId
  c : BitVec 32
  raw : BitVec 512
  /-- the context step when it began, or rng_step (11 R269, R271) -/
  step : BitVec 64
  /-- its index list and function vectors have been read -/
  loaded : Bool
  idx : List (BitVec 32)
  bias : List F32
  scale : List F32
  /-- destination rows visited, in the mover's order, and written -/
  row : Nat
  written : Nat
  oob : Nat
  /-- source rows held: row number, format as held, bytes -/
  rows : List (Nat × Nat × List Byte)
  reqs : List RReq
  /-- ticks waited on epochs, and since when it waits -/
  halo : Nat
  waiting : Option (BitVec 64)
  /-- own Owner Table entries written to (09 R214) -/
  touched : List Nat
  /-- how it ends other than by its last row -/
  failed : Option (BitVec 8)
  deriving DecidableEq, Repr

/-- A gather channel (09 R210): descriptors in order; the first is `run` once it has begun. `nextReq` numbers its
READ_REQs. -/
structure GatherChan where
  queue : List (CtxId × BitVec 32 × BitVec 512)
  run : Option MoverRun
  nextReq : Nat
  deriving DecidableEq, Repr

/-- A DMA register set (14 R318). -/
structure DmaSet where
  ctx : BitVec 4
  c : BitVec 32
  tag : BitVec 16
  op : BitVec 2
  srcFixed : Bool
  dstFixed : Bool
  srcHost : Bool
  dstHost : Bool
  src : BitVec 64
  dst : BitVec 64
  len : BitVec 48
  fill : BitVec 64
  deriving DecidableEq, Repr

/-- 14 R331. -/
inductive DmaState where
  | off | idle | busy | draining
  deriving DecidableEq, Repr

/-- A burst in flight (14 R321): data read from the source and, for COMPARE, from the second operand, and whether its
writes have been issued. -/
structure Burst where
  b : Nat
  src : List (Nat × List Byte)
  snd : List (Nat × List Byte)
  writing : Bool
  failed : Bool
  deriving DecidableEq, Repr

/-- A DMA channel (14). -/
structure DmaChan where
  enable : Bool
  shareM1 : BitVec 8
  state : DmaState
  enablePending : Bool
  active : DmaSet
  activeValid : Bool
  shadow : DmaSet
  shadowValid : Bool
  bursts : List Burst
  nextBurst : Nat
  /-- slot, by the port's slot count, before which no burst issues (14 R324) -/
  nextSlot : Nat
  progress : BitVec 48
  residue : BitVec 48
  lastStatus : BitVec 8
  lastCtx : BitVec 4
  busErr : Bool
  busErrors : BitVec 16
  aborts : BitVec 16
  bytes : BitVec 64
  /-- COMPARE so far: first differing offset and count -/
  firstDiff : Option Nat
  diffs : Nat
  aborting : Bool
  /-- lowest burst with a bus error -/
  badBurst : Option Nat
  deriving DecidableEq, Repr

/-! ## Spill fabric -/

/-- 07, NDE_SPILL_PEER_STAT.state. -/
inductive PeerState where
  | off | active | degraded | lost | refused
  deriving DecidableEq, Repr

/-- A spill set entry (07 R150). -/
structure Peer where
  /-- its configuration has been written since reset, so that it names an engine -/
  named : Bool
  chip : BitVec 16
  engine : Bool
  port : Fin 8
  linkFmt : BitVec 4
  enable : Bool
  state : PeerState
  cfgErr : Bool
  outstanding : Nat
  load : BitVec 16
  resends : BitVec 32
  deriving DecidableEq, Repr

/-- Whose message a Basol message is. -/
inductive MsgOwner where
  | spore (ctx : CtxId) (epoch : BitVec 16) (choices : Nat)
  | result
  /-- `drain`: sent for the drain in progress (12 R283) -/
  | abandon (ctx : CtxId) (drain : Bool)
  | stat (ctx : CtxId)
  | readReq (ch : ChanId) (ctx : CtxId)
  | epochReq (ctx : CtxId)
  | readData
  deriving DecidableEq, Repr

/-- A message to send (07 R157). -/
structure TxMsg where
  kind : BitVec 4
  owner : MsgOwner
  bytes : List Byte
  deriving DecidableEq, Repr

/-- A block sent and not acknowledged (07 R161). -/
structure TxBlk where
  seq : BitVec 32
  bytes : List Byte
  sends : Nat
  kind : BitVec 4
  owner : MsgOwner
  /-- ticks of its first and of its last sending -/
  born : BitVec 64
  sentAt : BitVec 64
  deriving DecidableEq, Repr

/-- A stream this engine sends (07 R155, R156, R160, R161). -/
structure TxStream where
  chip : BitVec 16
  engine : Bool
  port : Fin 8
  gen : BitVec 8
  next : BitVec 32
  general : Nat
  reserved : Nat
  /-- the message begun: what remains of it and its owner -/
  cur : Option (TxMsg × Nat)
  queue : List TxMsg
  unacked : List TxBlk
  /-- sequence numbers to send again, in order -/
  resend : List (BitVec 32)
  /-- tick of the last control frame, and since which no block is unacknowledged -/
  heardAt : BitVec 64
  idleSince : BitVec 64
  /-- CREDIT with credits 0 came and none above 0 since (18 R380) -/
  stopped : Bool
  /-- the stream has ended (degraded, lost, refused) -/
  ended : Bool
  deriving DecidableEq, Repr

/-- A message a receiver holds (07 R162). -/
structure RxMsg where
  kind : BitVec 4
  bytes : List Byte
  places : Nat
  deriving DecidableEq, Repr

/-- A stream this engine receives (07 R155, R160, R161). -/
structure RxStream where
  chip : BitVec 16
  engine : Bool
  gen : BitVec 8
  expect : BitVec 32
  port : Fin 8
  /-- blocks of the message partly received -/
  part : List Byte
  partKind : BitVec 4
  partBlocks : Nat
  visible : List RxMsg
  /-- false: it was silent for lost_timeout, and the next block's generation is taken as current (18 R381) -/
  known : Bool
  /-- unspent general and reserved credits the sender holds, as the receiver counts them (07 R162) -/
  general : Nat
  reserved : Nat
  /-- the block_seq a NAK was last sent for, and when -/
  nak : Option (BitVec 32 × BitVec 64)
  /-- tick of the last good block received on it, kept or discarded -/
  lastBlock : BitVec 64
  deriving DecidableEq, Repr

/-- A stream refused credits because 128 are held (18 R380). -/
structure RxWaiter where
  chip : BitVec 16
  engine : Bool
  gen : BitVec 8
  seq : BitVec 32
  port : Fin 8
  lastFrame : BitVec 64
  deriving DecidableEq, Repr

/-- An epoch floor (07 R166). -/
structure Floor where
  chip : BitVec 16
  engine : Bool
  ctx : BitVec 4
  floor : BitVec 16
  deriving DecidableEq, Repr

/-- A READ_REQ that waits for its block or is being answered (07 R175). -/
structure PendRead where
  chip : BitVec 16
  engine : Bool
  raw : BitVec 512
  deriving DecidableEq, Repr

/-! ## Security, self-test, power -/

/-- A key slot (16 R358). -/
structure KeySlot where
  valid : Bool
  key : BitVec 256
  perm : BitVec 6
  counter : BitVec 64
  kcv : BitVec 32
  deriving DecidableEq, Repr

/-- A provisioning write (16 R359): a slot written, or zeroed. -/
inductive ProvWrite where
  | write (slot : Fin 8) (key : BitVec 256) (perm : BitVec 6) (floor : BitVec 64)
  | zero (slot : Fin 8)
  deriving DecidableEq, Repr

/-- The security unit and its page (16). -/
structure Sec where
  env : Vector Reg 14
  /-- the envelope presented by GO and being handled -/
  presented : Option (BitVec 448)
  /-- the paths whose envelopes have reached the unit and wait, in order (16 R357) -/
  order : List CritPath
  /-- the path of the envelope whose body is being read -/
  reading : Option CritPath
  status : BitVec 8
  done : Bool
  policy : BitVec 2
  firstSource : BitVec 3
  alarm : Bool
  source : BitVec 3
  vcount : Vector (BitVec 16) 4
  accepted : BitVec 32
  /-- the key store must be zeroed (16 R363, R360) -/
  erasing : Bool
  deriving DecidableEq, Repr

/-- The self-test page (17). -/
structure SelfTest where
  step : BitVec 4
  passed : Bool
  safeCause : BitVec 8
  failSteps : BitVec 11
  suspect : BitVec 8
  tested : BitVec 8
  details : Vector Reg 11
  sram : Vector Reg 8
  rates : Vector (BitVec 16) 8
  time : BitVec 32
  diag : BitVec 64
  diagWritten : Bool
  diagErr : Bool
  /-- tick of the entry to SELFTEST; whether it came from OFF; whether step 10 has not ended -/
  entry : BitVec 64
  /-- tick from which its steps are timed -/
  stepFrom : BitVec 64
  fromOff : Bool
  keyStepPending : Bool
  /-- a sensor record was out of range during the self-test, and during its step 2 (17 R367) -/
  oor : Bool
  oorCal : Bool
  /-- a double-bit instruction store error came during the self-test (17 R376) -/
  eccHit : Bool
  seedAddr : BitVec 20
  /-- number of the latest diagnosis record, and the records whose writes have not all returned, with their number -/
  diagNo : Nat
  diagPending : List (Nat × Nat)
  deriving DecidableEq, Repr

/-- The control sequencer's firmware (17 R373 to R376). -/
structure Firmware where
  valid : Bool
  version : BitVec 32
  image : List Byte
  corrected : BitVec 16
  /-- failing check of the last FW_LOAD, as the diagnosis record shows it (17 R371) -/
  check : Nat
  deriving DecidableEq, Repr

/-- Sensor registers (15 R347). -/
structure Sensor where
  latest : SensorRec
  ndeOor : Bool
  nsramOor : Bool
  tempOor : Bool
  stale : Bool
  timebaseErr : Bool
  lastTick : BitVec 64
  /-- the gap of 10 µs has passed and no record has come since -/
  gap : Bool
  deriving DecidableEq, Repr

/-- Current-step registers (15 R349, 17 R377). -/
structure Power where
  req : BitVec 8
  grant : BitVec 8
  estimate : BitVec 8
  throttle : BitVec 32
  /-- tick since which the engine throttles -/
  throttledSince : Option (BitVec 64)
  need : BitVec 8
  /-- tick of the last operand of each unit (17 R377): the Frond cells, the sketch adders and the SFU lanes of each slice
  (03 R77) -/
  lastOperand : Vector (BitVec 64) 24
  /-- estimate at the start of the ramp and tick of its last step -/
  ramp : Option (BitVec 8 × BitVec 64)
  deriving DecidableEq, Repr

/-- The timing-dependent choice counter (11 R260). -/
structure Tdc where
  total : BitVec 48
  kinds : Vector (BitVec 32) 7
  saturated : Bool
  deriving DecidableEq, Repr

/-- Scheduler registers and its clocks (12 R277 to R279). -/
structure Sched where
  quantumBe : BitVec 16
  quantumLc : BitVec 16
  limit : BitVec 8
  limitInForce : BitVec 8
  lastLc : Option CtxId
  lastBe : Option CtxId
  runSince : BitVec 64
  preemptSince : BitVec 64
  shareAdapt : Bool
  /-- the contexts of each class whose ring was read last (13 R297) -/
  fetchLc : Option CtxId
  fetchBe : Option CtxId
  /-- a tile of the running context has scored since it entered RUNNING (03 R56, R57) -/
  scored : Bool
  deriving DecidableEq, Repr

/-- NDE_PORT_ERR (15). -/
structure PortErr where
  setup : Bool
  mem : Bool
  drainBad : Bool
  link : Bool
  deriving DecidableEq, Repr

/-- The table windows (19 R399). -/
structure TblWin where
  table : BitVec 2
  index : BitVec 17
  selErr : Bool
  data : Vector Reg 16
  deriving DecidableEq, Repr

/-- The spore page (07). -/
structure SporeCtl where
  rxEnable : Bool
  ackTimeout : BitVec 8
  lostTimeout : BitVec 7
  coreset : BitVec 80
  badRx : Vector (BitVec 32) 8
  portResends : Vector (BitVec 32) 8
  deriving DecidableEq, Repr

/-- 01 R26. READY and RUN are the one value `up`: which of the two is published follows from the contexts
(19 R390). -/
inductive EngState where
  | off | selftest | safe | up | locked
  deriving DecidableEq, Repr

/-- The disabled-map path to the fuse logic (15 R350). -/
structure DmPins where
  wr : Bool
  data : BitVec 8
  deriving DecidableEq, Repr

/-- What an accepted SELFTEST_REQ, DISABLED_MAP or FW_LOAD still has to do (17 R370). -/
inductive Quiesce where
  | none
  /-- waiting for dm_ack -/
  | map
  /-- draining -/
  | drain
  deriving DecidableEq, Repr

/-- What the engine has presented at its boundary, oldest first (notes/assumptions/6.md). -/
inductive Out where
  | item (port : PortId) (w : BitVec 128)
  | flit (port : PortId) (data : List Byte)
  /-- 64 bytes of a spore port's transmit lane with their sideband bits: destination chip, kind (a block's, else a
  frame's), first and last (15 R344) -/
  | transfer (port : Fin 8) (dst : BitVec 16) (block first last : Bool) (data : List Byte)
  deriving DecidableEq, Repr

/-- Set-up port: the data and the response of the last access (15 R335). -/
structure SetupPort where
  data : Reg
  error : Bool
  deriving DecidableEq, Repr

/-- The state of the engine. -/
structure State where
  pending : List Instr
  eng : EngState
  inReset : Bool
  tick : BitVec 64
  pins : FusePins
  fuse : FusePins
  dm : DmPins
  /-- the disabled map that the chip's fuse logic has taken since power-on and holds (15 R350) -/
  heldMap : Option (BitVec 8)
  quiesce : Quiesce
  latches : List (Nat × Reg)
  setup : SetupPort
  chip : Memory
  host : Memory
  memWait : List MemReq
  memOut : List MemReq
  /-- what reads have returned whose owner still waits for others -/
  got : List (MemOwner × Nat × List Byte)
  nextTag : BitVec 12
  /-- the DMA channel and the gather channel served last at the memory port (01 R24) -/
  dmaLast : ChanId
  moverLast : ChanId
  hostOut : List HostReq
  nextHost : BitVec 16
  outbox : List Out
  fresh : Nat
  ctxs : Vector Ctx 16
  sched : Sched
  tiles : List Tile
  /-- tokens ready for combine, in the order in which they became ready (08 R192): context, epoch, token -/
  ready : List (CtxId × BitVec 16 × Nat)
  /-- the frames of the Mortar sections that are taken (08 R191) -/
  frames : List Frame
  banks : Vector Bank 2
  slices : Vector Slice 8
  queues : Vector CoreQ 80
  coreFail : BitVec 80
  feedLast : PortId
  /-- port of the last drain flit taken (06 R147) -/
  drainLast : PortId
  /-- drain flits and end-of-packet marks that stand in their ports' drain lanes (15 R342) -/
  lanes : List (PortId × BitVec 128 × List Byte)
  coreTimeout : BitVec 16
  /-- spore packets waiting for a free queue entry (06 R140) -/
  sporeWriters : List (PortId × Packet)
  seqs : List (Nat × Seq)
  owner : List (Nat × OwnerEntry)
  dir : List (Nat × HotEntry)
  stamp : BitVec 32
  hotq : List HotJob
  gather : Vector GatherChan 16
  dma : Vector DmaChan 16
  peers : Vector Peer 32
  spore : SporeCtl
  tx : List TxStream
  txWait : List (BitVec 16 × Bool × TxMsg)
  /-- generation each destination's next stream begins with -/
  txGen : List (Nat × BitVec 8)
  rx : List RxStream
  /-- the generation and the next block of the inbound streams released (18 R380) -/
  rxPast : List (Nat × BitVec 8 × BitVec 32)
  rxWait : List RxWaiter
  floors : List Floor
  readPend : List PendRead
  /-- READ_REQs whose rows are being read, by number -/
  serving : List (Nat × PendRead)
  nextServe : Nat
  /-- received results whose rows are being written (07 R160) -/
  rowHolds : List RowHold
  /-- number of the next update of biases (05 R124) -/
  nextUpdate : Nat
  slots : Vector KeySlot 8
  provWait : List ProvWrite
  sec : Sec
  st : SelfTest
  fw : Firmware
  sensor : Sensor
  power : Power
  beatTick : BitVec 64
  /-- tick at which the beat window in progress began (01 R11) -/
  beatFrom : BitVec 64
  paceShort : BitVec 64
  tdc : Tdc
  tele : Vector (BitVec 64) 10
  teleWrap : BitVec 10
  portErr : PortErr
  tbl : TblWin
  deriving DecidableEq, Repr

/-! ## Reset -/

/-- A regulator of a context in FREE. -/
def regulReset : Regul := ⟨0, 0, 0, 0, [], false⟩

/-- A context after reset: FREE, every register at its reset column. -/
def ctxReset : Ctx where
  state := .free
  lc := false
  enabled := false
  enablePending := false
  resetPending := false
  destroyPending := false
  drainBusy := false
  faultStatus := 0
  det := false
  pace := false
  pendMode := none
  modeWaiters := []
  tdcSeen := false
  save := 0
  saves := 0
  saveValid := false
  resumed := false
  leaving := none
  windows := Vector.replicate 4 ⟨0, 0⟩
  regMem := regulReset
  regSpore := regulReset
  regFeed := regulReset
  acct := Vector.replicate 8 0
  acctWrap := 0
  coreset := 0
  spillMask := 0
  step := 0
  epoch := 0
  lastEpoch := none
  grpRank := 0
  grpMembers := 0
  grpErr := false
  grpPeers := Vector.replicate 16 ⟨0, false, 0, false⟩
  sqBase := 0
  cqBase := 0
  db := 0
  sqLog2 := 0
  cqLog2 := 0
  pollMax := 0x190
  pollNow := 1
  lastPoll := none
  dbReading := false
  cfgErr := false
  badDoorbell := false
  hostErr := false
  fetched := 0
  written := 0
  tail := 0
  head := 0
  fetching := none
  fetchFailed := false
  walker := []
  hold := none
  waitNo := 0
  dealt := []
  ending := []
  recs := []
  recBusy := false
  drainRecs := []
  joinSeq := 0
  building := none
  tensors := []
  tp := []
  stats := []
  reductions := []
  updates := []
  groupLost := false
  tele := Vector.replicate 34 0
  teleWrap := 0

/-- An empty bank (01 R28). -/
def bankReset : Bank := ⟨[], false, 0, 0, 0, 0⟩

/-- A slice after reset. -/
def sliceReset : Slice :=
  ⟨false, false, 0, false, 0, 0, 0, 0, 0, 0, 0, false, 0, 0, none, none⟩

/-- An empty queue: last_commit and last_taken read 0 (06 R141). -/
def coreQReset : CoreQ := ⟨[], 0, 0, 0, []⟩

/-- An empty DMA register set. -/
def dmaSetReset : DmaSet := ⟨0, 0, 0, 0, false, false, false, false, 0, 0, 0, 0⟩

/-- A DMA channel after reset: enabled, IDLE, the whole share (14, channel page). -/
def dmaReset : DmaChan :=
  ⟨true, 0xFF, .idle, false, dmaSetReset, false, dmaSetReset, false, [], 0, 0, 0, 0, 0, 0, false, 0, 0, 0, none, 0,
    false, none⟩

/-- A spill set entry after reset: OFF. -/
def peerReset : Peer := ⟨false, 0, false, 0, 0, false, .off, false, 0, 0, 0⟩

/-- A zeroed key slot (16 R360). -/
def keySlotReset : KeySlot := ⟨false, 0, 0, 0, 0⟩

/-- Pins before any release of reset names others (notes/assumptions/5.md). -/
def pinsReset : FusePins := ⟨0, false, 0, BitVec.allOnes 80, 0⟩

/-- No sensor record yet. -/
def sensorRecReset : SensorRec := ⟨0, 0, Vector.replicate 8 0⟩

/-- The machine right after reset: OFF, waiting for a sensor record with both rails in range (15 R351), with empty
tables, no context outside FREE and no firmware (01 R28), every register at the value its table gives. -/
def State.reset : State where
  pending := []
  eng := .off
  inReset := false
  tick := 0
  pins := pinsReset
  fuse := ⟨0, false, 0, 0, 0⟩
  dm := ⟨false, 0⟩
  heldMap := none
  quiesce := .none
  latches := []
  setup := ⟨0, false⟩
  chip := ⟨[]⟩
  host := ⟨[]⟩
  memWait := []
  memOut := []
  got := []
  nextTag := 0
  dmaLast := 15
  moverLast := 15
  hostOut := []
  nextHost := 0
  outbox := []
  fresh := 0
  ctxs := Vector.replicate 16 ctxReset
  sched := ⟨0, 0, 0x2B, 0x2B, none, none, 0, 0, true, none, none, false⟩
  tiles := []
  ready := []
  frames := []
  banks := Vector.replicate 2 bankReset
  slices := Vector.replicate 8 sliceReset
  queues := Vector.replicate 80 coreQReset
  coreFail := 0
  feedLast := 79
  drainLast := 79
  lanes := []
  coreTimeout := 0x03E8
  sporeWriters := []
  seqs := []
  owner := []
  dir := []
  stamp := 0
  hotq := []
  gather := Vector.replicate 16 ⟨[], none, 0⟩
  dma := Vector.replicate 16 dmaReset
  peers := Vector.replicate 32 peerReset
  spore := ⟨false, 0x14, 0x10, 0, Vector.replicate 8 0, Vector.replicate 8 0⟩
  tx := []
  txWait := []
  txGen := []
  rx := []
  rxPast := []
  rxWait := []
  floors := []
  readPend := []
  serving := []
  nextServe := 0
  rowHolds := []
  nextUpdate := 0
  slots := Vector.replicate 8 keySlotReset
  provWait := []
  sec := ⟨Vector.replicate 14 0, none, [], none, 0, false, 1, 0, false, 0, Vector.replicate 4 0, 0, false⟩
  st := ⟨0, false, 0, 0, 0, 0, Vector.replicate 11 0, Vector.replicate 8 0, Vector.replicate 8 0, 0, 0, false, false,
    0, 0, false, false, false, false, false, 0, 0, []⟩
  fw := ⟨false, 0, [], 0, 0⟩
  sensor := ⟨sensorRecReset, false, false, false, false, false, 0, false⟩
  power := ⟨0, 0, 0, 0, none, 0, Vector.replicate 24 0, none⟩
  beatTick := 0
  beatFrom := 0
  paceShort := 0
  tdc := ⟨0, Vector.replicate 7 0, false⟩
  tele := Vector.replicate 10 0
  teleWrap := 0
  portErr := ⟨false, false, false, false⟩
  tbl := ⟨0, 0, false, Vector.replicate 16 0⟩

end Sys2Proof.Machine
end

