-- ==== Sys2Proof/Machine/Bits.lean ====
section
/-!
DEFINITION. Bytes, fields and lists: little-endian values (00 R3), bit ranges written [msb:lsb], and the few list and
vector helpers the meanings share. Numbers taken out of a record are `Nat`.
-/
namespace Sys2Proof.Machine

/-- The little-endian value of a run of bytes (00 R3). -/
def leNat : List Byte → Nat
  | [] => 0
  | b :: bs => b.toNat + 256 * leNat bs

/-- The `k` little-endian bytes of a value (00 R3). -/
def leBytes : Nat → Nat → List Byte
  | 0, _ => []
  | k + 1, n => BitVec.ofNat 8 n :: leBytes k (n / 256)

/-- Bits [hi:lo] of a value. -/
def fld (n hi lo : Nat) : Nat := (n >>> lo) % 2 ^ (hi - lo + 1)

/-- Bit `i` of a value. -/
def bitAt (n i : Nat) : Bool := (n >>> i) % 2 == 1

/-- Bits [hi:lo] are all zero. -/
def zeroFld (n hi lo : Nat) : Bool := fld n hi lo == 0

/-- A Bool as a bit. -/
def b2n (b : Bool) : Nat := if b then 1 else 0

/-- `v` placed at bit `lo`. -/
def at' (lo v : Nat) : Nat := v <<< lo

/-- Quotient rounded up. -/
def ceilDiv (a b : Nat) : Nat := (a + b - 1) / b

/-- Rounded up to a multiple of `m`. -/
def roundUp (a m : Nat) : Nat := ceilDiv a m * m

/-- Bytes [off, off + len) of a run. -/
def slice (bs : List Byte) (off len : Nat) : List Byte := (bs.drop off).take len

/-- The little-endian value of `len` bytes at `off`. -/
def leAt (bs : List Byte) (off len : Nat) : Nat := leNat (slice bs off len)

/-- `n` zero bytes. -/
def zeros (n : Nat) : List Byte := List.replicate n 0

/-- A run padded with zeros to `n` bytes, or cut to it. -/
def padTo (bs : List Byte) (n : Nat) : List Byte := (bs ++ zeros (n - bs.length)).take n

/-- The run cut into pieces of `n` bytes; `fuel` bounds the number of pieces. -/
def chunksOf (n : Nat) : Nat → List Byte → List (List Byte)
  | 0, _ => []
  | fuel + 1, bs => if bs.isEmpty then [] else bs.take n :: chunksOf n fuel (bs.drop n)

/-- Pieces of `n` bytes. -/
def chunks (n : Nat) (bs : List Byte) : List (List Byte) := chunksOf n bs.length bs

/-- `f 0, f 1, …, f (n - 1)`. -/
def tabulate {α : Type} (n : Nat) (f : Nat → α) : List α := (List.range n).map f

/-- The list with `f` applied to the elements that meet `p`. -/
def updWhere {α : Type} (p : α → Bool) (f : α → α) (xs : List α) : List α :=
  xs.map fun x => if p x then f x else x

/-- The list with `f` applied to its first element that meets `p`. -/
def updFirst {α : Type} (p : α → Bool) (f : α → α) : List α → List α
  | [] => []
  | x :: xs => if p x then f x :: xs else x :: updFirst p f xs

/-- The list with `f` applied to element `i`. -/
def updAt {α : Type} (i : Nat) (f : α → α) : List α → List α
  | [] => []
  | x :: xs => match i with
    | 0 => f x :: xs
    | i + 1 => x :: updAt i f xs

/-- An association list kept by rising key: the entry of `k`. -/
def lookup {α : Type} (k : Nat) : List (Nat × α) → Option α
  | [] => none
  | (j, x) :: t => if j == k then some x else lookup k t

/-- The association list without key `k`. -/
def eraseKey {α : Type} (k : Nat) (m : List (Nat × α)) : List (Nat × α) := m.filter (·.1 != k)

/-- Key `k` set to `x`, keys rising. -/
def insertKey {α : Type} (k : Nat) (x : α) : List (Nat × α) → List (Nat × α)
  | [] => [(k, x)]
  | (j, y) :: t =>
    if k < j then (k, x) :: (j, y) :: t
    else if k == j then (k, x) :: t
    else (j, y) :: insertKey k x t

/-- `f` applied to the entry of `k`, if there is one. -/
def modKey {α : Type} (k : Nat) (f : α → α) (m : List (Nat × α)) : List (Nat × α) :=
  m.map fun (j, y) => if j == k then (j, f y) else (j, y)

/-- Insertion of `x` before the first element that `x` is strictly before, so that equals keep their order. -/
def insertBy {α : Type} (before : α → α → Bool) (x : α) : List α → List α
  | [] => [x]
  | y :: ys => if before x y then x :: y :: ys else y :: insertBy before x ys

/-- A stable sort. -/
def sortBy {α : Type} (before : α → α → Bool) (xs : List α) : List α :=
  xs.foldl (fun acc x => insertBy before x acc) []

/-- The first element that no other element is strictly before. -/
def firstMin {α : Type} (before : α → α → Bool) : List α → Option α
  | [] => none
  | x :: xs => some (xs.foldl (fun best y => if before y best then y else best) x)

/-- Every element paired with its index. -/
def indexed {α : Type} (xs : List α) : List (Nat × α) := (List.range xs.length).zip xs

/-- Sum of a list of numbers. -/
def sumNat (xs : List Nat) : Nat := xs.foldl (· + ·) 0

/-- A vector with `f` applied to component `i`. -/
def vmod {α : Type} {n : Nat} (v : Vector α n) (i : Fin n) (f : α → α) : Vector α n := v.set i (f v[i])

/-- A vector with `f` applied to every component. -/
def vmap {α β : Type} {n : Nat} (f : α → β) (v : Vector α n) : Vector β n :=
  ⟨(v.toList.map f).toArray, by simp⟩

/-- All the indices below `n`. -/
def fins (n : Nat) : List (Fin n) := List.finRange n

/-- Sets the component whose index is `i`, if there is one. -/
def vsetN {α : Type} {n : Nat} (v : Vector α n) (i : Nat) (x : α) : Vector α n :=
  if h : i < n then v.set i x else v

/-- The component whose index is `i`, or `d`. -/
def vgetN {α : Type} {n : Nat} (v : Vector α n) (i : Nat) (d : α) : α :=
  if h : i < n then v[i] else d

/-- A bit of a BitVec by number. -/
def bvBit {n : Nat} (b : BitVec n) (i : Nat) : Bool := bitAt b.toNat i

/-- A BitVec with bit `i` set to `x`. -/
def bvSetBit {n : Nat} (b : BitVec n) (i : Nat) (x : Bool) : BitVec n :=
  if x then b ||| BitVec.ofNat n (2 ^ i) else b &&& ~~~ BitVec.ofNat n (2 ^ i)

/-- Saturating increment of a count held in a BitVec. -/
def satInc {n : Nat} (b : BitVec n) : BitVec n := if b == BitVec.allOnes n then b else b + 1

/-- Number of one bits among the lowest `n`. -/
def popcountN (x : Nat) : Nat → Nat
  | 0 => 0
  | n + 1 => b2n (bitAt x n) + popcountN x n

/-- (a − b) modulo 2^w, on numbers below it. -/
def subMod (w a b : Nat) : Nat := (a + 2 ^ w - b % 2 ^ w) % 2 ^ w

end Sys2Proof.Machine
end

