-- ==== Sys2Proof/Machine/Crypto.lean ====
section
/-!
DEFINITION. Philox4x32-10 and its streams (11 R267 to R269), CRC-32C (07 R158), AES-256, CMAC and key unwrap (16 R355,
R358, R361). AES is FIPS 197, CMAC is NIST SP 800-38B and KW is NIST SP 800-38F, as the spec names them
(notes/assumptions/8.md).
-/
namespace Sys2Proof.Machine

/-! ## The counter-based generator -/

/-- One round of Philox4x32 on the words x0 to x3 under k0, k1 (11 R267). -/
def philoxRound (x : Nat × Nat × Nat × Nat) (k0 k1 : Nat) : Nat × Nat × Nat × Nat :=
  let p0 := 0xD2511F53 * x.1
  let p1 := 0xCD9E8D57 * x.2.2.1
  ((p1 >>> 32) ^^^ x.2.1 ^^^ k0, p1 % 2 ^ 32, (p0 >>> 32) ^^^ x.2.2.2 ^^^ k1, p0 % 2 ^ 32)

/-- The rounds: `n` more, with the key of the next. -/
def philoxRounds : Nat → Nat → Nat → Nat × Nat × Nat × Nat → Nat × Nat × Nat × Nat
  | 0, _, _, x => x
  | n + 1, k0, k1, x =>
    philoxRounds n ((k0 + 0x9E3779B9) % 2 ^ 32) ((k1 + 0xBB67AE85) % 2 ^ 32) (philoxRound x k0 k1)

/-- Philox4x32-10: 128-bit counter (word 0x00 lowest), two key words, 128 bits out (11 R267). -/
def philox (ctr k0 k1 : Nat) : Nat :=
  let r := philoxRounds 10 k0 k1 (fld ctr 31 0, fld ctr 63 32, fld ctr 95 64, fld ctr 127 96)
  r.1 + r.2.1 <<< 32 + r.2.2.1 <<< 64 + r.2.2.2 <<< 96

/-- 11 R268: a stream's 128 bits. The block's bits [27:20] take the place of the layer for stream 0x4. -/
def streamBlock (seed step pos uid layer code block : Nat) : Nat :=
  let top := if code == 4 then fld block 27 20 else layer % 256
  philox (pos % 2 ^ 32 + ((uid % 2 ^ 32) <<< 32) + ((step % 2 ^ 32) <<< 64)
      + ((block % 2 ^ 20 + (code <<< 20) + (top <<< 24)) <<< 96))
    (seed % 2 ^ 32) (fld seed 63 32 ^^^ fld step 63 32)

/-- 11 R268: block `b` of column `c` of the sketch stream. -/
def sketchBlock (key layer b c : Nat) : Nat :=
  philox (b + (c <<< 32) + (((0xF <<< 20) + ((layer % 256) <<< 24)) <<< 96)) (key % 2 ^ 32) (fld key 63 32)

/-- 02 R41: the 16 random bits of element `i` of a row, from the row's stream. -/
def roundBits (seed step pos uid layer code : Nat) (i : Nat) : Option Nat :=
  let b := streamBlock seed step pos uid layer code (i / 8)
  some (fld b (16 * (i % 8) + 15) (16 * (i % 8)))

/-! ## CRC-32C -/

/-- `n` shifts of the reflected CRC-32C register, the message's bits above it. -/
def crcShift : Nat → Nat → Nat
  | 0, c => c
  | n + 1, c => if c % 2 == 1 then crcShift n ((c >>> 1) ^^^ 0x82F63B78) else crcShift n (c >>> 1)

/-- CRC-32C of a run of bytes: polynomial 0x1EDC6F41 reflected, initial value and final inversion all ones. The bytes
enter as one number, bit 0 of the first byte first (PRESUMED, notes/assumptions/8.md). -/
def crc32c (bs : List Byte) : Nat := crcShift (8 * bs.length) (leNat bs ^^^ 0xFFFFFFFF) ^^^ 0xFFFFFFFF

/-! ## AES-256 -/

/-- The AES S-box (FIPS 197), values 0 to 63, byte i at bits [8i + 7:8i]. -/
def aesSbox0 : Nat :=
  0x75b227ebe28012079a059618c323c7041531d871f1e5a534ccf73f362693fdb7c072a49cafa2d4adf04759fa7dc982ca76abd7fe2b670130c56f6bf27b777c63
/-- The AES S-box (FIPS 197), values 64 to 127, byte i at bits [8i + 7:8i]. -/
def aesSbox1 : Nat :=
  0xd2f3ff1021dab6bcf5389d928f40a351a89f3c507f02f94585334d43fbaaefd0cf584c4a39becb6a5bb1fc20ed00d153842fe329b3d63b52a05a6e1b1a2c8309
/-- The AES S-box (FIPS 197), values 128 to 191, byte i at bits [8i + 7:8i]. -/
def aesSbox2 : Nat :=
  0x08ae7a65eaf4566ca94ed58d6d37c8e779e4959162acd3c25c2406490a3a32e0db0b5ede14b8ee4688902a22dc4f816073195d643d7ea7c41744975fec130ccd
/-- The AES S-box (FIPS 197), values 192 to 255, byte i at bits [8i + 7:8i]. -/
def aesSbox3 : Nat :=
  0x16bb54b00f2d99416842e6bf0d89a18cdf2855cee9871e9b948ed9691198f8e19e1dc186b95735610ef6034866b53e708a8bbd4b1f74dde8c6b4a61c2e2578ba
/-- The inverse AES S-box (FIPS 197), values 0 to 63, byte i at bits [8i + 7:8i]. -/
def aesInv0 : Nat :=
  0x25d18b6d49a25b76b224d92866a12e084ec3fa420b954cee3d23c2a632947b54cbe9dec444438e3487ff2f9b8239e37cfbd7f3819ea340bf38a53630d56a0952
/-- The inverse AES S-box (FIPS 197), values 64 to 127, byte i at bits [8i + 7:8i]. -/
def aesInv1 : Nat :=
  0x6b8a130103bdafc1020f3fca8f1e2cd00645b3b80558e4f70ad3bc8c00abd890849d8da75746155edab9edfd5048706c92b6655dcc5ca4d41698688664f6f872
/-- The inverse AES S-box (FIPS 197), values 128 to 191, byte i at bits [8i + 7:8i]. -/
def aesInv2 : Nat :=
  0xf45acd78fec0db9a2079d2c64b3e56fc1bbe18aa0e62b76f89c5291d711af1476edf751ce837f9e28535ade72274ac9673e6b4f0cecff297eadc674f4111913a
/-- The inverse AES S-box (FIPS 197), values 192 to 255, byte i at bits [8i + 7:8i]. -/
def aesInv3 : Nat :=
  0x7d0c2155631469e126d677ba7e042b17619953833cbbebc8b0f52aae4d3be0a0ef9cc9939f7ae52d0d4ab519a97f51605fec8027591012b131c7078833a8dd1f

/-- The S-box, byte i at bits [8i + 7:8i]. -/
def aesSbox : Nat := aesSbox0 + aesSbox1 <<< 512 + aesSbox2 <<< 1024 + aesSbox3 <<< 1536
/-- The inverse S-box, likewise. -/
def aesInvSbox : Nat := aesInv0 + aesInv1 <<< 512 + aesInv2 <<< 1024 + aesInv3 <<< 1536

/-- Each of the `n` lowest bytes of a number replaced by its entry of a table. -/
def subBytes (table : Nat) : Nat → Nat → Nat
  | 0, _ => 0
  | n + 1, x => (table >>> (8 * (x % 256))) % 256 + (subBytes table n (x / 256)) <<< 8

/-- One in each of 16 bytes. A block is a number here, its byte i at bits [8i + 7:8i]; a column is four bytes. -/
def ones16 : Nat := 0x01010101010101010101010101010101
/-- One in each of four columns. -/
def ones4 : Nat := 0x00000001000000010000000100000001

/-- Multiplication by x in GF(2^8), in every byte. -/
def xtimes (x : Nat) : Nat := ((x &&& 0x7F * ones16) <<< 1) ^^^ (((x >>> 7) &&& ones16) * 0x1B)

/-- Every column turned: its byte r is what its byte (r + n) mod 4 was, for n from 1 to 3. -/
def turnCols (n x : Nat) : Nat :=
  ((x >>> (8 * n)) &&& (2 ^ (32 - 8 * n) - 1) * ones4)
    ||| ((x <<< (32 - 8 * n)) &&& (2 ^ 32 - 2 ^ (32 - 8 * n)) * ones4)

/-- Row `r` of a block, turned by `n` columns. -/
def turnRow (r n x : Nat) : Nat :=
  let y := x &&& ((0xFF <<< (8 * r)) * ones4)
  (y >>> (32 * n)) ||| (y <<< (128 - 32 * n)) % 2 ^ 128

/-- ShiftRows: column c of row r comes from column c + r. -/
def shiftRows (x : Nat) : Nat := turnRow 0 0 x ||| turnRow 1 1 x ||| turnRow 2 2 x ||| turnRow 3 3 x
/-- InvShiftRows. -/
def invShiftRows (x : Nat) : Nat := turnRow 0 0 x ||| turnRow 1 3 x ||| turnRow 2 2 x ||| turnRow 3 1 x

/-- MixColumns: 2a + 3b + c + d for the bytes from each place down its column, which is 2 (a + b) + b + c + d. -/
def mixColumns (x : Nat) : Nat := xtimes (x ^^^ turnCols 1 x) ^^^ turnCols 1 x ^^^ turnCols 2 x ^^^ turnCols 3 x

/-- InvMixColumns: 14a + 11b + 13c + 9d is MixColumns of what has 4 (a + c) added to a. -/
def invMixColumns (x : Nat) : Nat := mixColumns (x ^^^ xtimes (xtimes (x ^^^ turnCols 2 x)))

/-- The AES-256 key schedule, word by word: the words so far, newest first, `n` more, `i` the next index. -/
def aesExpand : Nat → Nat → Nat → List Nat → List Nat
  | 0, _, _, ws => ws.reverse
  | n + 1, i, rcon, ws =>
    let prev := ws.headD 0
    let t :=
      if i % 8 == 0 then subBytes aesSbox 4 ((prev >>> 8) + (prev % 256) <<< 24) ^^^ rcon
      else if i % 8 == 4 then subBytes aesSbox 4 prev
      else prev
    aesExpand n (i + 1) (if i % 8 == 0 then xtimes rcon else rcon) ((ws.getD 7 0 ^^^ t) :: ws)

/-- `n` numbers of `w` bits cut from a number, lowest first. -/
def cutNat (w : Nat) : Nat → Nat → List Nat
  | 0, _ => []
  | n + 1, x => x % 2 ^ w :: cutNat w n (x >>> w)

/-- Numbers of `w` bits joined, the first lowest. -/
def joinNat (w : Nat) : List Nat → Nat
  | [] => 0
  | x :: xs => x + (joinNat w xs) <<< w

/-- The 15 round keys. A key is held as a number, byte 0 lowest. -/
def aesKeys (key : BitVec 256) : List Nat :=
  cutNat 128 15 (joinNat 32 (aesExpand 52 8 1 (cutNat 32 8 key.toNat).reverse))

/-- The middle rounds and the last of the cipher. -/
def aesRounds : List Nat → Nat → Nat
  | [], x => x
  | [k], x => shiftRows (subBytes aesSbox 16 x) ^^^ k
  | k :: ks, x => aesRounds ks (mixColumns (shiftRows (subBytes aesSbox 16 x)) ^^^ k)

/-- AES-256 encryption of one block under expanded keys (PRESUMED, notes/assumptions/8.md). -/
def aesEnc (ks : List Nat) (x : Nat) : Nat :=
  match ks with
  | [] => x
  | k :: ks => aesRounds ks (x ^^^ k)

/-- The inverse rounds, keys from the last to the first. -/
def aesInvRounds : List Nat → Nat → Nat
  | [], x => x
  | [k], x => subBytes aesInvSbox 16 (invShiftRows x) ^^^ k
  | k :: ks, x => aesInvRounds ks (invMixColumns (subBytes aesInvSbox 16 (invShiftRows x) ^^^ k))

/-- AES-256 decryption of one block under expanded keys. -/
def aesDec (ks : List Nat) (x : Nat) : Nat :=
  match ks.reverse with
  | [] => x
  | k :: ks => aesInvRounds ks (x ^^^ k)

/-- 16 R358: the key check value, the first four bytes of the encryption of the zero block. -/
def kcvOf (key : BitVec 256) : BitVec 32 := BitVec.ofNat 32 (aesEnc (aesKeys key) 0)

/-- The 16 bytes of a block in the other order. -/
def turnBytes (x : Nat) : Nat := leNat (leBytes 16 x).reverse

/-- CMAC subkey doubling (SP 800-38B): a shift in GF(2^128) of a block whose byte 0 is the highest. -/
def cmacDouble (x : Nat) : Nat :=
  if 2 ^ 127 ≤ x then (2 * x) % 2 ^ 128 ^^^ 0x87 else 2 * x

/-- CBC chaining over whole blocks, the last combined with the subkey. -/
def cmacChain (ks : List Nat) (k1 : Nat) : List Nat → Nat → Nat
  | [], acc => acc
  | [b], acc => aesEnc ks (acc ^^^ b ^^^ k1)
  | b :: bs, acc => cmacChain ks k1 bs (aesEnc ks (acc ^^^ b))

/-- AES-256-CMAC of a message of whole blocks, at least one (SP 800-38B; every message of R355 is whole blocks): the tag as
a number, byte 0 lowest (PRESUMED, notes/assumptions/8.md). -/
def cmac (key : BitVec 256) (msg : List Byte) : Nat :=
  let ks := aesKeys key
  cmacChain ks (turnBytes (cmacDouble (turnBytes (aesEnc ks 0)))) (cutNat 128 (msg.length / 16) (leNat msg)) 0

/-- The steps of KW unwrap (SP 800-38F): counter `t` from 6n down to 1, registers R1 to Rn of 8 bytes, `a` the check. -/
def kwSteps (ks : List Nat) (n : Nat) : Nat → Nat → List Nat → Nat × List Nat
  | 0, a, rs => (a, rs)
  | t + 1, a, rs =>
    let b := aesDec ks ((a ^^^ (t + 1) <<< 56) + (rs.getD (t % n) 0) <<< 64)
    kwSteps ks n t (b % 2 ^ 64) (rs.set (t % n) (b >>> 64))

/-- AES key unwrap of 40 bytes to a 256-bit key; none where the integrity check fails (16 R361)
(PRESUMED, notes/assumptions/8.md). -/
def kwUnwrap (kek : BitVec 256) (wrapped : List Byte) : Option (BitVec 256) :=
  let w := cutNat 64 5 (leNat wrapped)
  let r := kwSteps (aesKeys kek) 4 24 (w.headD 0) (w.drop 1)
  if r.1 == 0xA6A6A6A6A6A6A6A6 then some (BitVec.ofNat 256 (joinNat 64 r.2)) else none

end Sys2Proof.Machine
end

