-- ==== Sys2Proof/Config.lean ====
section
/-!
DEFINITION. The constants the silicon fixes (19 R389) and the values the spec leaves open: each of the latter is an
opaque constant without a body, so nothing can be proved from a number of ours (notes/assumptions/1.md).
-/
namespace Sys2Proof.Config

/-- 19 R389, NDE_ID.block: identifies an NDE set-up window. -/
def idBlock : BitVec 16 := 0x4E44
/-- 19 R389, NDE_ID.stepping. -/
def stepping : BitVec 8 := 0x01
/-- 19 R389, NDE_ARITH_REV: the arithmetic revision. -/
def arithRev : BitVec 32 := 0x00000001
/-- 19 R389, NDE_CAPS: 8 slices, 80 core ports, 16 contexts, 16 DMA channels, 16 gather channels, 8 spore ports. -/
def caps : BitVec 32 := 0x22108508

/-- FREE VALUE (04 R89, R401). A word of the seed table window of the arithmetic revision. -/
opaque seedWord : BitVec 20 → BitVec 32

/-- FREE VALUE (04 R89, R401). The node value of a seed table entry, as the words of the window give it: function code
of the core, segment, entry 0 to 256, of which the last is the node that the slope of entry 255 leads to. The word is an
xf value: sign, 12-bit exponent less 2,048, 34-bit significand in units of 2^(exponent − 33). The arguments begin with
the window's contents, which determine it; 04 does not say how they are laid out. -/
opaque seedNode : (BitVec 20 → BitVec 32) → Nat → Nat → Nat → BitVec 47

/-- FREE VALUE (04 R89, R401). The correction ratio of a segment at a reduced input, numerator and denominator as xf
words: the window's contents, core, segment, entry, and the fraction of the entry's interval as an xf value, significand
and exponent. 04 R89 says that a segment's Goldschmidt division refines the seed by it and does not say how it is
formed. -/
opaque seedRatio : (BitVec 20 → BitVec 32) → Nat → Nat → Nat → Nat → Int → BitVec 47 × BitVec 47

/-- FREE VALUE (04 R94, R401). The FP32 input x_min of a GELU function, by the window's contents and function code. -/
opaque seamMin : (BitVec 20 → BitVec 32) → Nat → F32

/-- FREE VALUE (15 R339, 14 R326, R351). A fresh bit: which slot of a failed write was written, whether a short reset
takes effect. The argument counts the draws. -/
opaque freeBit : Nat → Bool

/-- FREE VALUE (08 R198). core_quota (false) and min_share (true) of the bins of a TILE_REVERSE whose log names a route
context that the directory does not hold: the spec names no source for them. The argument is the key. -/
opaque revShare : Bool → Nat → Nat

/-- FREE VALUE (07 R176, 13 R310). What a READ_REQ of length 0 carries in link_fmt, src_fmt, row_elems and row_bytes,
which name no row: link_fmt in bits [3:0], src_fmt [7:4], row_elems [31:8], row_bytes [55:32]. The argument is the
Owner Table entry. -/
opaque emptyReq : Nat → BitVec 56

/-- FREE VALUE (09 R226, 07 R176). The need_epoch of a READ_REQ of a mover with need_en 0, which requires no epoch. The
argument is the Owner Table entry. -/
opaque openEpoch : Nat → BitVec 16

/-- FREE VALUE (15 R343, 07 R159). stream_gen (bits [39:32]) and block_seq (bits [31:0]) of the REFUSE frame for a spore
whose inbound stream is no longer held: the spec names no source for them. The argument is the home engine. -/
opaque goneStream : Nat → BitVec 40

/-- FREE VALUE (06 R139). The Table SRAM offset of a packet's item and choice list: the spec does not lay the lists out.
The arguments are the tile's bank (2: the receive buffer) and the list's first Route Table index or draw. -/
opaque listPtr : Nat → Nat → BitVec 32

/-- FREE VALUE (03 R57). The streaming rate of a slice whose streaming beats all fell in one tick: R57 divides by no
ticks. The argument is the beats. -/
opaque shortRho : Nat → Nat

/-- FREE VALUE (17 R366). The ticks that step 3 + i of a self-test takes, i from 0 to 6: the rule gives them in beats,
whose rate is the silicon's. The arguments are the tick of the entry to SELFTEST and i. -/
opaque stepTicks : BitVec 64 → Nat → BitVec 32

end Sys2Proof.Config
end

