-- ==== Sys2Proof/Machine/Float.lean ====
section
/-!
DEFINITION. Number formats, rounding and FP32 arithmetic (02, all rules; 00 R8). A finite value is held exactly as
sign, magnitude and power of two, so that every rounding is done once, from the exact value (02 R38).
-/
namespace Sys2Proof.Machine

/-- A value: NaN, infinity, or (−1)^s × m × 2^e. -/
inductive Val where
  | nan
  | inf (s : Bool)
  | fin (s : Bool) (m : Nat) (e : Int)
  deriving DecidableEq, Repr

/-- What becomes of a finite value beyond the largest, and of infinity (02 R43). -/
inductive Over where
  | inf | sat
  deriving DecidableEq, Repr

/-- An element encoding (02 R31): fraction bits, exponent bias, the largest finite code, the codes of infinity (when
there is one) and of the canonical NaN (when there is one), and the code bits without the sign. -/
structure Elem where
  frac : Nat
  bias : Nat
  top : Nat
  infCode : Option Nat
  nanCode : Option Nat
  signBit : Nat
  ovf : Over
  /-- exponent of the largest normal (02 R32) -/
  emax : Nat
  deriving DecidableEq, Repr

/-- 02 R31, FP32. -/
def elFp32 : Elem := ⟨23, 127, 0x7F7FFFFF, some 0x7F800000, some 0x7FC00000, 31, .inf, 127⟩
/-- 02 R31, FP16. -/
def elFp16 : Elem := ⟨10, 15, 0x7BFF, some 0x7C00, some 0x7E00, 15, .inf, 15⟩
/-- 02 R31, BF16. -/
def elBf16 : Elem := ⟨7, 127, 0x7F7F, some 0x7F80, some 0x7FC0, 15, .inf, 127⟩
/-- 02 R31, FP8 E4M3: no infinity, one NaN code, saturates (R43). -/
def elE4m3 : Elem := ⟨3, 7, 0x7E, none, some 0x7F, 7, .sat, 8⟩
/-- 02 R31, FP8 E5M2. -/
def elE5m2 : Elem := ⟨2, 15, 0x7B, some 0x7C, some 0x7E, 7, .inf, 15⟩
/-- 02 R43: E5M2 as an MX element, which saturates. -/
def elE5m2sat : Elem := { elE5m2 with ovf := .sat }
/-- 02 R31, E3M2. -/
def elE3m2 : Elem := ⟨2, 3, 0x1F, none, none, 5, .sat, 4⟩
/-- 02 R31, E2M3. -/
def elE2m3 : Elem := ⟨3, 1, 0x1F, none, none, 5, .sat, 2⟩
/-- 02 R31, E2M1. -/
def elE2m1 : Elem := ⟨1, 1, 0x7, none, none, 3, .sat, 2⟩

/-- A format: its element, and whether it is microscaled (02 R29). -/
structure Fmt where
  el : Elem
  mx : Bool
  deriving DecidableEq, Repr

/-- The format of a 4-bit code (02 R29); reserved codes have none. -/
def fmtOf : Nat → Option Fmt
  | 0 => some ⟨elFp32, false⟩
  | 1 => some ⟨elFp16, false⟩
  | 2 => some ⟨elBf16, false⟩
  | 3 => some ⟨elE4m3, false⟩
  | 4 => some ⟨elE5m2, false⟩
  | 5 => some ⟨elE4m3, true⟩
  | 6 => some ⟨elE5m2sat, true⟩
  | 7 => some ⟨elE3m2, true⟩
  | 8 => some ⟨elE2m3, true⟩
  | 9 => some ⟨elE2m1, true⟩
  | _ => none

/-- The value of an element code (02 R31). -/
def Elem.decode (el : Elem) (code : Nat) : Val :=
  let s := bitAt code el.signBit
  let a := code % 2 ^ el.signBit
  match el.infCode with
  | some i =>
    if a == i then .inf s else if i < a then .nan else fin' s a
  | none => if el.nanCode == some a then .nan else fin' s a
where
  fin' (s : Bool) (a : Nat) : Val :=
    let ex := a >>> el.frac
    let fr := a % 2 ^ el.frac
    if ex == 0 then .fin s fr (1 - (el.bias : Int) - el.frac)
    else .fin s (2 ^ el.frac + fr) ((ex : Int) - el.bias - el.frac)

/-- floor(log2) of m × 2^e for m not 0. -/
def log2v (m : Nat) (e : Int) : Int := (Nat.log2 m : Int) + e

/-- The magnitude code of m × 2^e (m not 0) rounded to an element, with unbounded exponent: to nearest even
(02 R38), or by 16 random bits (02 R40). -/
def Elem.round (el : Elem) (u : Option Nat) (m : Nat) (e : Int) : Nat :=
  let emin : Int := 1 - (el.bias : Int)
  let l := if log2v m e < emin then emin else log2v m e
  let q := l - (el.frac : Int)
  let k : Nat :=
    if q ≤ e then m <<< (e - q).toNat
    else
      let sh := (q - e).toNat
      let lo := m >>> sh
      let rem := m % 2 ^ sh
      match u with
      | none =>
        let half := 2 ^ (sh - 1)
        if half < rem || (rem == half && lo % 2 == 1) then lo + 1 else lo
      | some u => if 65536 ≤ ((rem <<< 16) >>> sh) + u then lo + 1 else lo
  (l + (el.bias : Int) - 1).toNat * 2 ^ el.frac + k

/-- A conversion's code, and whether it saturated or overflowed to infinity (02 R43, R44, R45). -/
def Elem.encode (el : Elem) (u : Option Nat) (v : Val) : Nat × Bool :=
  match v with
  | .nan => (el.nanCode.getD 0, false)
  | .inf s =>
    match el.ovf, el.infCode with
    | .inf, some i => (sgn s + i, false)
    | _, _ => (sgn s + el.top, true)
  | .fin s 0 _ => (sgn s, false)
  | .fin s m e =>
    let k := el.round u m e
    if el.top < k then
      match el.ovf, el.infCode with
      | .inf, some i => (sgn s + i, true)
      | _, _ => (sgn s + el.top, true)
    else (sgn s + k, false)
where
  sgn (s : Bool) : Nat := if s then 2 ^ el.signBit else 0

/-! ## FP32 (00 R8: each operation rounds once, to nearest even) -/

/-- The value of FP32 bits. -/
def f32v (x : F32) : Val := elFp32.decode x.toNat

/-- The FP32 bits nearest to a value; every NaN is the canonical one (02 R44). -/
def toF32 (v : Val) : F32 := BitVec.ofNat 32 (elFp32.encode none v).1

/-- 0x7FC0_0000 (02 R44). -/
def nanF : F32 := 0x7FC00000#32
/-- 1.0 -/
def oneF : F32 := 0x3F800000#32
/-- +0 -/
def zeroF : F32 := 0#32
/-- −∞ -/
def ninfF : F32 := 0xFF800000#32

/-- NaN, any encoding (02 R44). -/
def isNan (x : F32) : Bool := 0x7F800000 < x.toNat % 2 ^ 31
/-- ±infinity. -/
def isInf (x : F32) : Bool := x.toNat % 2 ^ 31 == 0x7F800000
/-- Neither NaN nor infinite. -/
def isFinite (x : F32) : Bool := x.toNat % 2 ^ 31 < 0x7F800000
/-- ±0 -/
def isZero (x : F32) : Bool := x.toNat % 2 ^ 31 == 0
/-- Sign bit. -/
def signF (x : F32) : Bool := bitAt x.toNat 31
/-- The sign turned. -/
def negF (x : F32) : F32 := if isNan x then nanF else x ^^^ 0x80000000#32

/-- (−1)^s × m × 2^e as a signed multiple of 2^q, for q not above e. -/
def scaled (s : Bool) (m : Nat) (e q : Int) : Int :=
  let a : Int := ((m <<< (e - q).toNat : Nat) : Int)
  if s then -a else a

/-- The exact sum of two finite values; an exact zero of two nonzero or differently signed terms is +0. -/
def addFin (s1 : Bool) (m1 : Nat) (e1 : Int) (s2 : Bool) (m2 : Nat) (e2 : Int) : Val :=
  if m1 == 0 && m2 == 0 then .fin (s1 && s2) 0 0
  else
    let q := if e1 < e2 then e1 else e2
    let t := scaled s1 m1 e1 q + scaled s2 m2 e2 q
    if t == 0 then .fin false 0 0 else .fin (t < 0) t.natAbs q

/-- Sum of two values, exact. -/
def addV : Val → Val → Val
  | .nan, _ => .nan
  | _, .nan => .nan
  | .inf a, .inf b => if a == b then .inf a else .nan
  | .inf a, .fin .. => .inf a
  | .fin .., .inf b => .inf b
  | .fin s1 m1 e1, .fin s2 m2 e2 => addFin s1 m1 e1 s2 m2 e2

/-- Product of two values, exact. -/
def mulV : Val → Val → Val
  | .nan, _ => .nan
  | _, .nan => .nan
  | .inf a, .inf b => .inf (a != b)
  | .inf a, .fin s m _ => if m == 0 then .nan else .inf (a != s)
  | .fin s m _, .inf b => if m == 0 then .nan else .inf (b != s)
  | .fin s1 m1 e1, .fin s2 m2 e2 => .fin (s1 != s2) (m1 * m2) (e1 + e2)

/-- a + b -/
def addF (a b : F32) : F32 := toF32 (addV (f32v a) (f32v b))
/-- a − b -/
def subF (a b : F32) : F32 := addF a (negF b)
/-- a × b -/
def mulF (a b : F32) : F32 := toF32 (mulV (f32v a) (f32v b))
/-- a × b + c, rounded once (03 R67). -/
def fmaF (a b c : F32) : F32 := toF32 (addV (mulV (f32v a) (f32v b)) (f32v c))

/-- n / d rounded once to FP32, for d not 0. -/
def ratF (n d : Nat) : F32 :=
  let m := (n <<< 80) / d
  let sticky := b2n ((n <<< 80) % d != 0)
  toF32 (.fin false (2 * m + sticky) (-81))

/-- A whole number as FP32. -/
def natF (n : Nat) : F32 := toF32 (.fin false n 0)

/-- An order-preserving key of a number that is not NaN: −0 and +0 have one key. -/
def ordKey (x : F32) : Int :=
  let a : Int := ((x.toNat % 2 ^ 31 : Nat) : Int)
  if signF x then -a else a

/-- a < b; false with a NaN. -/
def ltF (a b : F32) : Bool := !isNan a && !isNan b && ordKey a < ordKey b

/-! ## Rows (02 R35 to R37, R46) -/

/-- Bits of one element of a format, sign included. -/
def elemBits (f : Fmt) : Nat := f.el.signBit + 1

/-- Bytes of a packed block of 32 elements (02 R35). -/
def blockBytes (f : Fmt) : Nat := 1 + 4 * elemBits f

/-- Data bytes of `d` elements. -/
def dataBytes (d : Nat) (f : Fmt) : Nat :=
  if f.mx then ceilDiv d 32 * blockBytes f else d * (elemBits f / 8)

/-- 02 R46: row_bytes(d, f). -/
def rowBytesF (d : Nat) (f : Fmt) : Nat := roundUp (dataBytes d f) 64

/-- 02 R46, by format code. -/
def rowBytes (d code : Nat) : Nat :=
  match fmtOf code with
  | some f => rowBytesF d f
  | none => 0

/-- 02 R51: bytes of a row on the core feed, flits of 256 bytes. -/
def flitBytes (d code : Nat) : Nat := roundUp (rowBytes d code) 256

/-- Counts of R45. -/
structure ConvCount where
  sat : Nat
  nan : Nat
  deriving DecidableEq, Repr

/-- No event. -/
def ConvCount.zero : ConvCount := ⟨0, 0⟩

/-- Events of two conversions together. -/
def ConvCount.add (a b : ConvCount) : ConvCount := ⟨a.sat + b.sat, a.nan + b.nan⟩

/-- An element of an MX block times its scale, as FP32, and whether it overflows (02 R34). -/
def scaleElem (scale : Nat) : Val → F32 × Bool
  | .fin s m e =>
    let r := elFp32.encode none (.fin s m (e + (scale : Int) - 127))
    (BitVec.ofNat 32 r.1, r.2)
  | v => (toF32 v, false)

/-- One packed block decoded (02 R34 to R37). -/
def decodeBlock (f : Fmt) (bs : List Byte) : List (F32 × Bool) :=
  let scale := leAt bs 0 1
  let codes := leNat (bs.drop 1)
  let w := elemBits f
  tabulate 32 fun i =>
    if scale == 0xFF then (nanF, false)
    else scaleElem scale (f.el.decode ((codes >>> (w * i)) % 2 ^ w))

/-- A row of `d` elements decoded to FP32, with the overflows of R34 counted (02 R45). -/
def decodeRowF (d : Nat) (f : Fmt) (bs : List Byte) : List F32 × ConvCount :=
  if f.mx then
    let bb := blockBytes f
    let es := ((tabulate (ceilDiv d 32) fun n => decodeBlock f (slice bs (n * bb) bb)).flatten).take d
    (es.map (·.1), ⟨(es.filter (·.2)).length, 0⟩)
  else
    let w := elemBits f / 8
    (tabulate d fun i => toF32 (f.el.decode (leAt bs (w * i) w)), ConvCount.zero)

/-- 02 R32: the scale byte of 32 values. -/
def mxScale (el : Elem) (xs : List F32) : Nat :=
  if xs.any fun x => !isFinite x then 0xFF
  else
    let amax := xs.foldl (fun a x => if a < x.toNat % 2 ^ 31 then x.toNat % 2 ^ 31 else a) 0
    match f32v (BitVec.ofNat 32 amax) with
    | .fin _ 0 _ => 0
    | .fin _ m e =>
      let x := log2v m e - (el.emax : Int)
      ((if x < -127 then -127 else x) + 127).toNat
    | _ => 0xFF

/-- One element of a plain or scaled conversion: its code and events (DEDUCED, notes/assumptions/24.md). -/
def castElem (el : Elem) (u : Option Nat) (v : Val) : Nat × ConvCount :=
  let r := el.encode u v
  (r.1, ⟨b2n r.2, b2n (v == .nan)⟩)

/-- A block of 32 values encoded (02 R32, R33, R35 to R37); `us i` are the random bits of element i. -/
def encodeBlock (f : Fmt) (us : Nat → Option Nat) (xs : List F32) : List Byte × ConvCount :=
  let ys := xs ++ List.replicate (32 - xs.length) zeroF
  let scale := mxScale f.el ys
  let w := elemBits f
  if scale == 0xFF then (0xFF#8 :: zeros (4 * w), ⟨0, 32⟩)
  else
    let es := (indexed ys).map fun (i, x) =>
      match f32v x with
      | .fin s m e => castElem f.el (us i) (.fin s m (e - ((scale : Int) - 127)))
      | v => castElem f.el (us i) v
    let codes := (indexed es).foldl (fun acc (i, c) => acc + c.1 <<< (w * i)) 0
    (BitVec.ofNat 8 scale :: leBytes (4 * w) codes, es.foldl (fun a c => a.add c.2) ConvCount.zero)

/-- Blocks of 32 values. -/
def blocks32 : Nat → List F32 → List (List F32)
  | 0, _ => []
  | n + 1, xs => xs.take 32 :: blocks32 n (xs.drop 32)

/-- A row encoded and padded with zeros to row_bytes (02 R35, R38, R40, R46). -/
def encodeRowF (f : Fmt) (us : Nat → Option Nat) (xs : List F32) : List Byte × ConvCount :=
  let d := xs.length
  if f.mx then
    let bs := (indexed (blocks32 (ceilDiv d 32) xs)).map fun (n, b) => encodeBlock f (fun i => us (32 * n + i)) b
    (padTo (bs.map (·.1)).flatten (rowBytesF d f), bs.foldl (fun a c => a.add c.2) ConvCount.zero)
  else
    let es := (indexed xs).map fun (i, x) => castElem f.el (us i) (f32v x)
    (padTo (es.map fun c => leBytes (elemBits f / 8) c.1).flatten (rowBytesF d f),
      es.foldl (fun a c => a.add c.2) ConvCount.zero)

/-- Rounding to nearest even for every element. -/
def rne : Nat → Option Nat := fun _ => none

/-- `decodeRowF` by format code. -/
def decodeRow (d code : Nat) (bs : List Byte) : List F32 × ConvCount :=
  match fmtOf code with
  | some f => decodeRowF d f bs
  | none => (List.replicate d nanF, ConvCount.zero)

/-- `encodeRowF` by format code. -/
def encodeRow (code : Nat) (us : Nat → Option Nat) (xs : List F32) : List Byte × ConvCount :=
  match fmtOf code with
  | some f => encodeRowF f us xs
  | none => ([], ConvCount.zero)

/-- A plain value rounded to a format and widened again: the router input's cast (03 R63). -/
def castPlain (f : Fmt) (x : F32) : F32 × ConvCount :=
  let r := castElem f.el none (f32v x)
  (toF32 (f.el.decode r.1), r.2)

/-- The format code names a microscaled format (02 R29). -/
def isMx (code : Nat) : Bool := (fmtOf code).any (·.mx)

/-- The data bytes of a row and zeros up to row_bytes: padding is written zero, whatever was read there (02 R35, R46). -/
def cleanRow (d code : Nat) (bs : List Byte) : List Byte :=
  padTo (bs.take (((fmtOf code).map (dataBytes d)).getD 0)) (rowBytes d code)

/-- A row of format `src` in format `dst`: unchanged where the two are one, else decoded and cast. -/
def convertRow (d src dst : Nat) (bs : List Byte) : List Byte × ConvCount :=
  if src == dst then (bs, ConvCount.zero)
  else
    let x := decodeRow d src bs
    let y := encodeRow dst rne x.1
    (y.1, x.2.add y.2)

/-- 02 R42: a row encoded for the link. A source in exactly that format is sent unchanged; link format 0 is no
compression. -/
def linkEncode (d src link : Nat) (bs : List Byte) : List Byte × ConvCount :=
  if link == 0 then (bs, ConvCount.zero) else convertRow d src link bs

end Sys2Proof.Machine
end

