-- ==== Sys2Proof/Machine/Exact.lean ====
section
/-!
DEFINITION. The exact functions of 04 R85 in fixed point, and the bounds of R93 measured against them. A fixed-point
value is a whole number of 2^−600, which leaves more than 400 bits below every bound; a result whose distance from the
computed value comes within 2^−400 of its bound is taken as outside it.
-/
namespace Sys2Proof.Machine

/-- 1 in fixed point. -/
def fxOne : Nat := 2 ^ 600

/-- A finite value in fixed point; exact from 2^−600 up. -/
def fxOf : Val → Int
  | .fin s m e => if -600 ≤ e then scaled s m e (-600)
    else if s then -((m >>> (-600 - e).toNat : Nat) : Int) else ((m >>> (-600 - e).toNat : Nat) : Int)
  | _ => 0

/-- A fixed-point number as a value. -/
def fxVal (x : Int) : Val := .fin (x < 0) x.natAbs (-600)

/-- Whole square root by bits, from bit `n` down. -/
def isqrtFrom (x : Nat) : Nat → Nat → Nat
  | 0, r => r
  | n + 1, r => isqrtFrom x n (if (r + 2 ^ n) * (r + 2 ^ n) ≤ x then r + 2 ^ n else r)

/-- The square root of a fixed-point number. -/
def fxSqrt (x : Nat) : Nat := isqrtFrom (x * fxOne) 1000 0

/-- The terms y^n / n! from number `n` on, added to `sum`. -/
def expTerms (y : Nat) : Nat → Nat → Nat → Nat → Nat
  | 0, _, _, sum => sum
  | k + 1, n, t, sum => let t1 := t * y / (n * fxOne); expTerms y k (n + 1) t1 (sum + t1)

/-- Squared `n` times. -/
def fxSquare : Nat → Nat → Nat
  | 0, x => x
  | n + 1, x => fxSquare n (x * x / fxOne)

/-- e^x of a fixed-point x. -/
def fxExp (x : Int) : Nat :=
  let r := fxSquare 12 (expTerms (x.natAbs / 4096) 80 1 fxOne fxOne)
  if x < 0 then fxOne * fxOne / r else r

/-- ln 2, the sum of 1 / (k × 2^k). -/
def fxLn2 : Nat := sumNat (tabulate 600 fun k => fxOne / ((k + 1) * 2 ^ (k + 1)))

/-- log2 e. -/
def fxLog2e : Nat := fxOne * fxOne / fxLn2

/-- The arctangent of 1/n, n at least 5. -/
def fxAtan (n : Nat) : Int :=
  (tabulate 300 fun k =>
    let t : Int := ((fxOne / ((2 * k + 1) * n ^ (2 * k + 1)) : Nat) : Int)
    if k % 2 == 0 then t else -t).foldl (· + ·) 0

/-- π by Machin's formula. -/
def fxPi : Nat := (16 * fxAtan 5 - 4 * fxAtan 239).toNat

/-- √(k/π). -/
def fxRootOverPi (k : Nat) : Nat := fxSqrt (k * fxOne * fxOne / fxPi)

/-- The terms (−1)^n w^n / (n! (2n + 1)) from number `n` on; `t` is the power term before. -/
def erfTerms (w : Nat) : Nat → Nat → Nat → Int → Int
  | 0, _, _, sum => sum
  | k + 1, n, t, sum =>
    let t1 := t * w / (n * fxOne)
    let q : Int := ((t1 / (2 * n + 1) : Nat) : Int)
    erfTerms w k (n + 1) t1 (if n % 2 == 0 then sum + q else sum - q)

/-- erf(a·√h) for h = 1/`half` (1 or 2). -/
def fxErf (half : Nat) (a : Int) : Int :=
  let w := a.natAbs * a.natAbs / fxOne / half
  a * fxRootOverPi (4 / half) / (fxOne : Int) * erfTerms w 640 1 fxOne fxOne / (fxOne : Int)

/-- σ(u). -/
def fxSigmoid (u : Int) : Nat :=
  let e := fxExp u
  e * fxOne / (e + fxOne)

/-- n/d in fixed point. -/
def fxRat (n : Int) (d : Nat) : Int := n * fxOne / d

/-- The product of two fixed-point numbers. -/
def fxMul (a b : Int) : Int := a * b / fxOne

/-- 04 R85: the exact function of a fixed-point a, for the inputs that R95 gives no fixed result. -/
def fxFn (fn : Nat) (a : Int) : Int :=
  match fn with
  | 0 => a
  | 1 => fxExp a
  | 2 => fxExp (fxMul a fxLn2)
  | 3 => (fxOne * fxOne : Int) / a
  | 4 => isqrtFrom (fxOne * fxOne * fxOne / a.toNat) 1000 0
  | 5 => fxSqrt a.toNat
  | 6 => fxSigmoid a
  | 7 => 2 * fxSigmoid (2 * a) - fxOne
  | 8 => fxErf 1 a
  | 9 => fxMul a ((fxOne : Int) + fxErf 2 a) / 2
  | 10 => fxMul a (fxSigmoid (fxMul (2 * fxRootOverPi 2) (a + fxMul (fxRat 44715 1000000) (fxMul a (fxMul a a)))))
  | _ => fxMul a (fxSigmoid (fxMul (fxRat 1702 1000) a))

/-- The exact result as a value. -/
def exactFn (fn : Nat) (a : Val) : Val := fxVal (fxFn fn (fxOf a))

/-- 04, Accuracy: the unit in the last place of FP32 at the exact result. -/
def fxUlp (r : Int) : Nat :=
  let k := Nat.log2 r.natAbs
  2 ^ ((if k < 600 - 126 then 600 - 126 else k) - 23)

/-- 04 R93: the bound on the distance from the exact result `r` at `a`; none where the table has no row. `u n d` is
n/d ulp, `rel n` is n/2 × 2^−12 of the result. No FP32 number lies within 2^−12 of erf at the smallest subnormals: Swift
erf below 2^−12 has the floor of 2^−149 that the other rows of subnormal results have
(DESIGN CHOICE, notes/assumptions/45.md). -/
def fxBound (fn : Nat) (swift : Bool) (a r : Int) : Option Nat :=
  let u := fun n d => fxUlp r * n / d
  let rel := fun n => r.natAbs * n / 8192
  let tiny := 2 ^ 451
  let row := fun (n d w : Nat) => some (if swift then rel w else u n d)
  let low := fun (w : Nat) => some (if swift then max (rel w) tiny else u 1 1)
  let at' := fun (n : Int) d => fxRat n d ≤ a
  let mag := a.natAbs
  match fn with
  | 0 => some 0
  | 1 => if at' 8872 100 then none else if at' (-8734) 100 then row 80 100 3 else low 3
  | 2 => if at' (-126) 1 then row 55 100 2 else low 2
  | 3 => if mag ≤ 2 ^ 726 then row 51 100 2 else low 2
  | 4 => row 51 100 2
  | 5 => row 51 100 2
  | 6 => if at' (-8733) 100 then row 90 100 3 else some (if swift then 2 ^ 474 else u 1 1)
  | 7 => if mag < 2 ^ 588 then some (if swift then r.natAbs / 8192 else u 1 2)
    else if mag < 2 ^ 600 then row 90 100 3 else row 90 100 2
  | 8 => if mag < 2 ^ 588 then (if swift then low 2 else row 55 100 2) else row 90 100 3
  | _ => low 4

/-- c3 of gelu_sig, 0x3FD9DB23 (04 R90), in fixed point. -/
def fxC3 : Int := 14277411 * 2 ^ 577

/-- The function that R93 measures against: that of R85, but for gelu_sig in Precise mode, whose sequence by R90 has c3 in
place of 1.702 and so cannot keep within an ulp of the formula for large negative a: it is measured against the formula
with c3 (DESIGN CHOICE, notes/assumptions/45.md). -/
def boundFn (fn : Nat) (swift : Bool) (a : Int) : Int :=
  if fn == 11 && !swift then fxMul a (fxSigmoid (fxMul fxC3 a)) else fxFn fn a

/-- 04 R93: a result lies within its bound. -/
def withinBound (fn : Nat) (swift : Bool) (a : Val) (v : F32) : Bool :=
  let x := fxOf a
  let r := boundFn fn swift x
  match fxBound fn swift x r with
  | none => !isNan v
  | some b => isFinite v && (fxOf (f32v v) - r).natAbs + 2 ^ 200 ≤ b

end Sys2Proof.Machine
end

