-- ==== Sys2Proof/Machine/Sfu.lean ====
section
/-!
DEFINITION. The function path of an SFU lane (04). The special values of R95 are fixed; every other result is that of
the sequences of R89 to R91 on seed tables, correction ratios and minima that are free values of the seed table window
(notes/assumptions/1.md), which R92 and R93 bind.
-/
namespace Sys2Proof.Machine

/-- 04 R85: codes 0xC to 0xF are reserved. -/
def fnReserved (fn : Nat) : Bool := 12 ≤ fn

/-- Round m × 2^e to `bits` significant bits, nearest even. -/
def roundSig (bits m : Nat) (e : Int) : Nat × Int :=
  let have' := Nat.log2 m + 1
  if have' ≤ bits then (m, e)
  else
    let sh := have' - bits
    let lo := m >>> sh
    let rem := m % 2 ^ sh
    let half := 2 ^ (sh - 1)
    (if half < rem || (rem == half && lo % 2 == 1) then lo + 1 else lo, e + sh)

/-- 04 R89: rounding to xf, a 34-bit significand. -/
def xf : Val → Val
  | .fin s m e => let r := roundSig 34 m e; .fin s r.1 r.2
  | v => v

/-- An xf word of the seed tables. -/
def xfWord (w : BitVec 47) : Val :=
  .fin (bitAt w.toNat 46) (w.toNat % 2 ^ 34) ((fld w.toNat 45 34 : Int) - 2048 - 33)

/-- xf addition. -/
def xadd (a b : Val) : Val := xf (addV a b)
/-- xf multiplication. -/
def xmul (a b : Val) : Val := xf (mulV a b)
/-- The sign turned. -/
def vneg : Val → Val
  | .fin s m e => .fin (!s) m e
  | .inf s => .inf (!s)
  | .nan => .nan
/-- A value times 2^k. -/
def vshift (k : Int) : Val → Val
  | .fin s m e => .fin s m (e + k)
  | v => v
/-- The value 1. -/
def oneV : Val := .fin false 1 0

/-- A seed table node (04 R89). -/
def node (core seg i : Nat) : Val := xfWord (Config.seedNode Config.seedWord core seg i)

/-- 04 R89: the seed of a reduced input: the node of its entry plus its fraction `t` of the interval times the slope,
which leads from that node to the next exactly. -/
def seedAt (core seg i : Nat) (t : Val) : Val :=
  xadd (node core seg i) (xmul t (addV (node core seg (i + 1)) (vneg (node core seg i))))

/-- 13 significant bits (04 R91). -/
def sig13 : Val → Val
  | .fin s m e => let r := roundSig 13 m e; .fin s r.1 r.2
  | v => v

/-- a ≤ b of two finite values. -/
def leV : Val → Val → Bool
  | .fin s m e, .fin t n f =>
    let q := if e < f then e else f
    scaled s m e q ≤ scaled t n f q
  | _, _ => false

/-- The larger of two finite values. -/
def maxV (a b : Val) : Val := if leV a b then b else a
/-- The smaller of two finite values. -/
def minV (a b : Val) : Val := if leV a b then a else b

/-- The exponent of a nonzero finite value. -/
def ilogbV : Val → Int
  | .fin _ m e => log2v m e
  | _ => 0

/-- The largest whole number not above a finite value. -/
def floorV : Val → Int
  | .fin s m e => scaled s m e (if e < 0 then e else 0) / (2 ^ (-e).toNat : Nat)
  | _ => 0

/-- A whole number as a value. -/
def intV (n : Int) : Val := .fin (n < 0) n.natAbs 0

/-! ## Cores (04 R89) -/

/-- A significand m / 2^p in [1, 2) as entry and fraction of the seed tables: its top eight fraction bits, and the rest
times 256. -/
def sigSeed (core seg m p : Nat) : Val :=
  seedAt core seg ((m - 2 ^ p) >>> (p - 8)) (.fin false ((m - 2 ^ p) % 2 ^ (p - 8)) (8 - (p : Int)))

/-- A magnitude's significand over 2^64, in [1, 2); values of the lane have fewer bits. -/
def sigOf (m : Nat) : Nat := if Nat.log2 m ≤ 64 then m <<< (64 - Nat.log2 m) else m >>> (Nat.log2 m - 64)

/-- 04 R89, `sfu_rcp`: the reciprocal of m × 2^e, m not 0, with `n` Newton–Raphson iterations, and the factor 2^−k to be
applied. -/
def rcpNewton (n : Nat) (m : Nat) (e : Int) : Val × Int :=
  let mv : Val := .fin false (sigOf m) (-64)
  let step := fun y => xadd y (xmul y (xadd oneV (vneg (xmul mv y))))
  ((List.range n).foldl (fun y _ => step y) (sigSeed 3 0 (sigOf m) 64), -log2v m e)

/-- Precise mode performs two iterations and Swift mode one (04 R89). -/
def rounds (swift : Bool) : Nat := if swift then 1 else 2

/-- The reciprocal core of a nonzero finite value, without final rounding or clamp (04 R90). -/
def rcpCore (swift : Bool) : Val → Val
  | .fin s m e =>
    let r := rcpNewton (rounds swift) m e
    match vshift r.2 r.1 with
    | .fin t n f => .fin (t != s) n f
    | v => v
  | v => v

/-- The evaluated value of sfu_rcp for a positive m × 2^e, Swift rounding and seam clamp with it. -/
def rcpSeq (swift : Bool) (m : Nat) (e : Int) : Val :=
  let r := rcpNewton (rounds swift) m e
  vshift r.2 (if swift then minV (maxV (sig13 r.1) (.fin false 1 (-1))) oneV else r.1)

/-- 04 R89: rsqrt of m × 2^e, before the final rounding: segments [1, 2) and [2, 4) by the parity of the exponent. -/
def rsqrtCore (swift : Bool) (m : Nat) (e : Int) : Val :=
  let k := log2v m e
  let odd := k % 2 != 0
  let mv : Val := .fin false (sigOf m) (if odd then -63 else -64)
  let step := fun y => xadd y (xmul (vshift (-1) y) (xadd oneV (vneg (xmul mv (xmul y y)))))
  vshift (-((if odd then k - 1 else k) / 2))
    ((List.range (rounds swift)).foldl (fun y _ => step y) (sigSeed 4 (b2n odd) (sigOf m) 64))

/-- Goldschmidt division of n by d: both are multiplied by 2 − d. -/
def goldschmidt : Nat → Val → Val → Val
  | 0, n, _ => n
  | k + 1, n, d => let f := xadd (intV 2) (vneg d); goldschmidt k (xmul n f) (xmul d f)

/-- 04 R89: a segment refined by the Goldschmidt division of its correction ratio, at entry `i` and fraction `t` of the
interval. -/
def goldCore (swift : Bool) (core seg i : Nat) (t : Val) : Val :=
  let r := match t with
    | .fin _ m e => Config.seedRatio Config.seedWord core seg i m e
    | _ => Config.seedRatio Config.seedWord core seg i 0 0
  xmul (seedAt core seg i t) (goldschmidt (rounds swift) (xfWord r.1) (xfWord r.2))

/-- A core at a position in [0, 1) of its segment, in fixed point: the entry of its top eight bits, and the rest of the
entry's interval rounded to xf, as R89 rounds every intermediate value; R89 writes the fraction out for reciprocal alone,
where it is exact (DESIGN CHOICE, notes/assumptions/45.md). -/
def coreAt (swift : Bool) (core seg : Nat) (u : Int) : Val :=
  let i := u * 256 / fxOne
  goldCore swift core seg (i.toNat % 256) (xf (fxVal (u * 256 - i * fxOne)))

/-- A core over a significand in [1, 2). -/
def octaveCore (swift : Bool) (core seg m : Nat) : Val :=
  coreAt swift core seg (((sigOf m - 2 ^ 64) <<< 536 : Nat) : Int)

/-- A core over the interval [lo, hi), in fixed point. -/
def linearCore (swift : Bool) (core seg : Nat) (lo hi a : Int) : Val :=
  coreAt swift core seg ((a - lo) * fxOne / (hi - lo))

/-- 2^x for an exact x: n = ⌊x⌋, and the core of the fraction times 2^n. The first component is n. -/
def exp2Core (swift : Bool) (x : Val) : Int × Val :=
  let n := floorV x
  (n, vshift n (coreAt swift 2 0 (fxOf (addV x (vneg (intV n))))))

/-- 04 R89: a × log2 e as the sum of two xf values. -/
def timesLog2e : Val → Val
  | .fin s m e =>
    let p : Val := .fin s (m * fxLog2e) (e - 600)
    let hi := xf p
    addV hi (xf (addV p (vneg hi)))
  | v => v

/-- The exp core: a × log2 e, then as exp2. -/
def expCore (swift : Bool) (a : Val) : Int × Val := exp2Core swift (timesLog2e a)

/-! ## Sequences and segments (04 R90, R94)

Each gives the segment of its input, as the numbers whose change is a seam, and the evaluated value in xf. -/

/-- The least k for which a positive value lies at or below 2^k. -/
def ceilLog2V : Val → Int
  | .fin _ m e => if m == 2 ^ Nat.log2 m then log2v m e else log2v m e + 1
  | _ => 0

/-- The segment of Swift sigmoid at `a`, whose 1 + e^−a is `d` (R94): as a rises, −a × log2 e reaches a whole number, 0
apart, when it falls to it, and d reaches 2^k likewise, for k = 1 at a = 0. -/
def sigmoidSeg (a d : Val) : List Int :=
  let n := -floorV (timesLog2e a)
  [if n ≤ 0 then -n else 1 - n, if leV (intV 0) a then -1 else -(max 2 (ceilLog2V d))]

/-- sigmoid. The Precise seams "−a reaching n ln 2", n from 1, are those of the side a ≥ 0, where exp(−a) changes its n,
at a = n ln 2: read to the letter they would name the side a < 0, whose seams the next words of R94 give
(DESIGN CHOICE, notes/assumptions/45.md). -/
def sigmoidSeq (swift : Bool) (a : Val) : List Int × Val :=
  if swift then
    let d := xadd oneV (expCore true (vneg a)).2
    (sigmoidSeg a d, rcpCore true d)
  else if leV (intV 0) a then
    ([0, floorV (timesLog2e a)], rcpCore false (xadd oneV (expCore false (vneg a)).2))
  else
    let e := expCore false a
    ([-1, e.1], xmul e.2 (rcpCore false (xadd oneV e.2)))

/-- tanh, for a positive a. -/
def tanhSeq (swift : Bool) (m : Nat) (e : Int) : List Int × Val :=
  let k := log2v m e
  if k < -12 then ([-1], .fin false m e)
  else if k < 0 then ([0, k], vshift k (octaveCore swift 7 (k + 12).toNat m))
  else
    let x := expCore swift (.fin false m (e + 1))
    let d := xadd x.2 oneV
    ([1, x.1, ilogbV d], xadd oneV (vneg (vshift 1 (rcpCore swift d))))

/-- The segment of a fixed-point a among the intervals that the ends cut. -/
def cutAt (ends : List Int) (a : Int) : Nat := (ends.filter fun x => x ≤ a).length

/-- erf, for a positive a. -/
def erfSeq (swift : Bool) (m : Nat) (e : Int) : List Int × Val :=
  let k := log2v m e
  if k < -12 then ([0], xmul (.fin false m e) (xf (fxVal (fxRootOverPi 4))))
  else if k < 0 then ([1, k], vshift k (octaveCore swift 8 (k + 12).toNat m))
  else
    let a := fxOf (.fin false m e)
    let ends := [fxRat 1 1, fxRat 2 1, fxRat 3 1, fxRat 393 100]
    let j := cutAt ends a
    ([2, j], xadd oneV (vneg (linearCore swift 12 j (ends.getD (j - 1) 0) (ends.getD j 0) a)))

/-- x_min of a GELU function: near −0.75 (04 R94). -/
def xMin (fn : Nat) : Val :=
  let v := f32v (Config.seamMin Config.seedWord fn)
  if leV (fxVal (fxRat (-7525) 10000)) v && leV v (fxVal (fxRat (-7505) 10000)) then v
  else f32v (toF32 (fxVal (fxRat (if fn == 11 then -7512 else -7518) 10000)))

/-- The side of x_min on which a lies: the GELU functions fall before it and rise from it. -/
def minSide (fn : Nat) (a : Val) : Int := if leV (xMin fn) a then 1 else 0

/-- gelu_erf: a times the Φ core; x_min splits the segment [−1, 0). -/
def geluErfSeq (swift : Bool) (a : Val) : List Int × Val :=
  let ends := [fxRat (-144) 10, fxRat (-8) 1, fxRat (-4) 1, fxRat (-2) 1, fxRat (-1) 1, fxOf (xMin 9), 0, fxRat 1 1,
    fxRat 2 1, fxRat 542 100]
  let j := cutAt ends (fxOf a)
  ([j], xmul a (linearCore swift 9 j (ends.getD (j - 1) 0) (ends.getD j 0) (fxOf a)))

/-- gelu_tanh: a × sigmoid(a × (c1 + c2 × a²)). -/
def geluTanhSeq (swift : Bool) (a : Val) : List Int × Val :=
  let c1 := xf (fxVal (2 * fxRootOverPi 2))
  let c2 := xf (fxVal (fxMul (fxRat 44715 1000000) (2 * fxRootOverPi 2)))
  let g := sigmoidSeq swift (xmul a (xadd c1 (xmul c2 (xmul a a))))
  (minSide 10 a :: g.1, xmul a g.2)

/-- gelu_sig: a × sigmoid(c3 × a). -/
def geluSigSeq (swift : Bool) (a : Val) : List Int × Val :=
  let g := sigmoidSeq swift (xmul (f32v 0x3FD9DB23) a)
  (minSide 11 a :: g.1, xmul a g.2)

/-- The function is odd and evaluated by its magnitude: reciprocal, tanh and erf. -/
def oddFn (fn : Nat) : Bool := fn == 3 || fn == 7 || fn == 8

/-- The segment and the evaluated value of a function at (−1)^s × m × 2^e, which is positive for an odd function. -/
def evalSeq (fn : Nat) (swift : Bool) (s : Bool) (m : Nat) (e : Int) : List Int × Val :=
  let a := Val.fin s m e
  match fn with
  | 1 => let r := expCore swift a; ([r.1], r.2)
  | 2 => let r := exp2Core swift a; ([r.1], r.2)
  | 3 => ([log2v m e], rcpSeq swift m e)
  | 4 => ([log2v m e], rsqrtCore swift m e)
  | 5 => ([log2v m e], xmul a (rsqrtCore swift m e))
  | 6 => sigmoidSeq swift a
  | 7 => tanhSeq swift m e
  | 8 => erfSeq swift m e
  | 9 => geluErfSeq swift a
  | 10 => geluTanhSeq swift a
  | 11 => geluSigSeq swift a
  | _ => ([], a)

/-- a < n / d for a finite value. -/
def ltRat (a : Val) (n : Int) (d : Nat) : Bool :=
  match a with
  | .fin s m e => scaled s m e (if e < 0 then e else 0) * d < n * 2 ^ (if e < 0 then (-e).toNat else 0)
  | _ => false

/-- a ≤ n / d for a finite value. -/
def leRat (a : Val) (n : Int) (d : Nat) : Bool :=
  match a with
  | .fin s m e => scaled s m e (if e < 0 then e else 0) * d ≤ n * 2 ^ (if e < 0 then (-e).toNat else 0)
  | _ => false

/-- 2^k as FP32. -/
def pow2F (k : Int) : F32 := toF32 (.fin false 1 k)

/-- The exponent of a magnitude that is a power of two. -/
def isPow2 (m : Nat) (e : Int) : Option Int := if m == 2 ^ Nat.log2 m then some (log2v m e) else none

/-- A whole value, if it is one. -/
def isInt (s : Bool) (m : Nat) (e : Int) : Option Int :=
  let a : Option Nat := if 0 ≤ e then some (m <<< e.toNat)
    else if m % 2 ^ (-e).toNat == 0 then some (m >>> (-e).toNat) else none
  a.map fun n => if s then -(n : Int) else n

/-- +∞ -/
def pinfF : F32 := 0x7F800000#32

/-- 04 R95 for a finite nonzero input: the fixed result of the range it lies in, where it lies in one. The thresholds are
the decimals as written, not the FP32 numbers nearest to them: 0x42B17218, nearest to 88.72284 and below it, lies outside
exp's range (DESIGN CHOICE, notes/assumptions/45.md). -/
def fixedRange (fn : Nat) (swift : Bool) (a : F32) (s : Bool) (m : Nat) (e : Int) : Option F32 :=
  let v := Val.fin s m e
  let mag := Val.fin false m e
  match fn with
  | 0 => some a
  | 1 =>
    if leRat v (-1039721) 10000 then some zeroF else if !ltRat v 8872284 100000 then some pinfF else none
  | 2 => if leRat v (-150) 1 then some zeroF else if !ltRat v 128 1 then some pinfF else none
  | 3 => if leV mag (.fin false 1 (-128)) then some (if s then ninfF else pinfF) else none
  | 4 => if s then some nanF else none
  | 5 => if s then some nanF else none
  | 6 =>
    if !ltRat v 1734 100 then some oneF
    else if swift then if leRat v (-8872) 100 then some zeroF else none
    else if leRat v (-10398) 100 then some zeroF else none
  | 7 =>
    if !ltRat mag 91 10 then some (if s then negF oneF else oneF)
    else if !swift && ltRat mag 1 4096 then some a else none
  | 8 => if !ltRat mag 393 100 then some (if s then negF oneF else oneF) else none
  | 9 => gelu v 542 100 (-144) 10
  | 10 => gelu v 507 100 (-108) 10
  | 11 => gelu v 1019 100 (-636) 10
  | _ => none
where
  gelu (v : Val) (hn : Int) (hd : Nat) (ln : Int) (ld : Nat) : Option F32 :=
    if !ltRat v hn hd then some a else if leRat v ln ld then some (negF zeroF) else none

/-- 04 R95: the inputs inside a segment whose results are exact. -/
def exactPoint (fn : Nat) (s : Bool) (m : Nat) (e : Int) : Option F32 :=
  match fn with
  | 2 => (isInt s m e).map pow2F
  | 3 => (isPow2 m e).map fun k => if s then negF (pow2F (-k)) else pow2F (-k)
  | 4 => (isPow2 m e).bind fun k => if k % 2 == 0 then some (pow2F (-(k / 2))) else none
  | 5 => (isPow2 m e).bind fun k => if k % 2 == 0 then some (pow2F (k / 2)) else none
  | _ => none

/-- 04 R95 for a finite nonzero input: the fixed result, where there is one. -/
def fixedFin (fn : Nat) (swift : Bool) (a : F32) (s : Bool) (m : Nat) (e : Int) : Option F32 :=
  (fixedRange fn swift a s m e).orElse fun _ => exactPoint fn s m e

/-- 04 R95 for ±0 (sign `s`). -/
def fixedZero (fn : Nat) (s : Bool) : F32 :=
  match fn with
  | 1 => oneF
  | 2 => oneF
  | 3 => if s then ninfF else pinfF
  | 4 => if s then ninfF else pinfF
  | 6 => pow2F (-1)
  | _ => if s then negF zeroF else zeroF

/-- 04 R95 for ±∞ (sign `s`). -/
def fixedInf (fn : Nat) (s : Bool) : F32 :=
  match fn with
  | 0 => if s then ninfF else pinfF
  | 1 => if s then zeroF else pinfF
  | 2 => if s then zeroF else pinfF
  | 3 => if s then negF zeroF else zeroF
  | 4 => if s then nanF else zeroF
  | 5 => if s then nanF else pinfF
  | 6 => if s then zeroF else oneF
  | 7 => if s then negF oneF else oneF
  | 8 => if s then negF oneF else oneF
  | _ => if s then negF zeroF else pinfF

/-! ## The order of the inputs -/

/-- The place of an FP32 number among all of them, by rising value. -/
def placeOf (a : F32) : Nat := if signF a then 2 ^ 32 - 1 - a.toNat else 2 ^ 31 + a.toNat

/-- The FP32 number at a place. -/
def atPlace (n : Nat) : F32 := BitVec.ofNat 32 (if n < 2 ^ 31 then 2 ^ 32 - 1 - n else n - 2 ^ 31)

/-- ±0 is an input of a segment, whose result alone is fixed: of the one that begins there where R94 lists 0 as a seam, for
exp, exp2, sigmoid and the GELU functions. -/
def zeroSeam (fn : Nat) : Bool := fn == 1 || fn == 2 || fn == 6 || 9 ≤ fn

/-- The segment of an input: none for NaN, infinity and the ranges of R95; an input inside a segment whose result alone
is fixed belongs to it. -/
def segmentOf (fn : Nat) (swift : Bool) (a : F32) : Option (List Int) :=
  match f32v a with
  | .fin s 0 e => if zeroSeam fn then some (evalSeq fn swift s 0 e).1 else none
  | .fin s m e =>
    if (fixedRange fn swift a s m e).isSome || (oddFn fn && s) then none else some (evalSeq fn swift s m e).1
  | _ => none

/-- The first place from `lo` on, below `lo + 2^n`, at which `p` holds, for a `p` that stays true. -/
def firstFrom (p : Nat → Bool) : Nat → Nat → Nat
  | 0, lo => lo
  | n + 1, lo => if p (lo + 2 ^ n - 1) then firstFrom p n lo else firstFrom p n (lo + 2 ^ n)

/-- The first input of the segment that holds place `n`. -/
def segmentStart (fn : Nat) (swift : Bool) (n : Nat) : Nat :=
  let k := segmentOf fn swift (atPlace n)
  firstFrom (fun i => n ≤ i || segmentOf fn swift (atPlace i) == k) 32 0

/-- The first input after the segment that holds place `n`. -/
def segmentEnd (fn : Nat) (swift : Bool) (n : Nat) : Nat :=
  let k := segmentOf fn swift (atPlace n)
  firstFrom (fun i => n < i && segmentOf fn swift (atPlace i) != k) 32 0

/-- 04 R91: the Swift seam value at an input. -/
def seamValue (fn : Nat) (n : Nat) : Val := sig13 (exactFn fn (f32v (atPlace n)))

/-- The function falls through the segment of a. -/
def falling (fn : Nat) (a : Val) : Bool := fn == 3 || fn == 4 || (9 ≤ fn && minSide fn a == 0)

/-- The end of a segment is a seam: an input of another segment, or the upper end that 04 R94 lists for erf and the GELU
functions. -/
def seamEnd (fn : Nat) (swift : Bool) (n : Nat) : Bool := (segmentOf fn swift (atPlace n)).isSome || 8 ≤ fn

/-- 04 R91: the Swift value of the input at place `n`, whose evaluated value is `v`: 13 bits, held at the seams; a seam
input has its seam value. -/
def swiftValue (fn : Nat) (n : Nat) (v : Val) : Val :=
  let lo := segmentStart fn true n
  let hi := segmentEnd fn true n
  if n == lo then seamValue fn lo
  else
    let down := falling fn (f32v (atPlace n))
    let v1 := if down then minV (sig13 v) (seamValue fn lo) else maxV (sig13 v) (seamValue fn lo)
    if !seamEnd fn true hi then v1
    else if down then maxV v1 (seamValue fn hi) else minV v1 (seamValue fn hi)

/-- The largest number of 13 significant bits in FP32. -/
def max13 : Val := .fin false 8191 115

/-- A value's FP32 number. A Swift value that its 13 bits carry to 2^128, where the exact result rounds to a finite number,
stays at the largest of 13 bits: there the sequences of R89 and R91 would give +∞, outside the bound of R93, just above
2^−128 for reciprocal and just below 128 for exp2 (DESIGN CHOICE, notes/assumptions/45.md). -/
def roundFn (fn : Nat) (swift : Bool) (a : F32) (v : Val) : F32 :=
  let r := toF32 v
  if swift && r == pinfF && isFinite (toF32 (exactFn fn (f32v a))) then toF32 max13 else r

/-- The result of the sequences of R89 to R91 on the contents of the seed tables, for an input that R95 leaves. -/
def seqResult (fn : Nat) (swift : Bool) (a : F32) : F32 :=
  match f32v a with
  | .fin s m e =>
    let v := (evalSeq fn swift s m e).2
    roundFn fn swift a (if swift then swiftValue fn (placeOf a) v else v)
  | _ => nanF

/-- The exact function rounded: what a table without error would give. -/
def roundedResult (fn : Nat) (swift : Bool) (a : F32) : F32 :=
  roundFn fn swift a ((if swift then sig13 else id) (exactFn fn (f32v a)))

/-- The result at an input, those of R95 included, by the contents of the tables. -/
def tableResult (fn : Nat) (swift : Bool) (a : F32) : F32 :=
  match f32v a with
  | .nan => nanF
  | .inf s => fixedInf fn s
  | .fin s 0 _ => fixedZero fn s
  | .fin s m e => (fixedFin fn swift a s m e).getD (seqResult fn swift a)

/-- 04 R92: the results at place `n` and at its upper neighbour stand in the order of the function, but for one ulp in
Precise mode where the neighbour is a seam: the first input of a segment. -/
def inOrder (fn : Nat) (swift : Bool) (n : Nat) : Bool :=
  let x := tableResult fn swift (atPlace n)
  let y := tableResult fn swift (atPlace (n + 1))
  let k := segmentOf fn swift (atPlace (n + 1))
  let slack : Int := if swift || k.isNone || segmentOf fn swift (atPlace n) == k then 0 else 1
  isNan x || isNan y
    || (if falling fn (f32v (atPlace n)) then ordKey y ≤ ordKey x + slack else ordKey x ≤ ordKey y + slack)

/-- 04 R93 at an input that R95 leaves. -/
def boundOk (fn : Nat) (swift : Bool) (a : F32) : Bool :=
  match f32v a with
  | .fin _ 0 _ => true
  | .fin s m e => (fixedFin fn swift a s m e).isSome || withinBound fn swift (f32v a) (seqResult fn swift a)
  | _ => true

/-- 04 R92, R93 at the input of one place and its upper neighbour, where either lies in a segment; an odd function is
evaluated by its magnitude. -/
def placeOk (fn : Nat) (swift : Bool) (n : Nat) : Bool :=
  let here := (segmentOf fn swift (atPlace n)).isSome
  let next := (segmentOf fn swift (atPlace (n + 1))).isSome
  (!here || boundOk fn swift (atPlace n)) && (!(here || next) || inOrder fn swift n)

/-- The contents of the tables keep R92 and R93 for a function and mode at every FP32 input. -/
def contentsOk (fn : Nat) (swift : Bool) : Bool := (List.range (2 ^ 32)).all (placeOk fn swift)

/-- A function of R85 at a finite nonzero input that R95 leaves: by the sequences and the tables. The contents are free
values that R92 and R93 bind; contents that broke them would not be the revision's, and the exact function rounded
stands for them (DESIGN CHOICE, notes/assumptions/1.md). Where the spec conflicts with itself, so that no contents could
keep every rule, the definitions above say which rule gives way (notes/assumptions/45.md). -/
def coreEval (fn : Nat) (swift : Bool) (a : F32) : F32 :=
  if contentsOk fn swift then seqResult fn swift a else roundedResult fn swift a

/-- The evaluation of a function at `a` (04 R86, `eval`). -/
def sfuEval (fn : Nat) (swift : Bool) (a : F32) : F32 :=
  match f32v a with
  | .nan => nanF
  | .inf s => fixedInf fn s
  | .fin s 0 _ => fixedZero fn s
  | .fin s m e =>
    match fixedFin fn swift a s m e with
    | some r => r
    | none => if oddFn fn && s then negF (coreEval fn swift (negF a)) else coreEval fn swift a

/-- 04 R86: the fused form. -/
def sfuOp (fn : Nat) (swift : Bool) (bias scale : Option F32) (x : F32) : F32 :=
  let a := match bias with | some b => addF x b | none => x
  let v := sfuEval fn swift a
  match scale with | some k => mulF v k | none => v

/-- 04 R96: the result is NaN and no operand is. -/
def sfuDomain (bias scale : Option F32) (x r : F32) : Bool :=
  isNan r && !isNan x && !(bias.any isNan) && !(scale.any isNan)

end Sys2Proof.Machine
end

