-- ==== Sys2Proof/Machine/Scoring.lean ====
section
/-!
DEFINITION. What a slice computes for one token, as functions of values: the route context header and its checks
(03 R52 to R54, 05 R100, R101, 06 R126, R127), pre-norm (03 R59 to R64), halt column (R65), Frond sums (R66, R67),
sketch (R79, R80), keys, softmax, top-k and gates (05 R102 to R107), the hold test (05 R116).
-/
namespace Sys2Proof.Machine

/-! ## Records as numbers -/

/-- Bits [hi:lo] of the word at byte offset `off` of a record held as a number. -/
def rf (n off hi lo : Nat) : Nat := fld n (8 * off + hi) (8 * off + lo)

/-- One bit of the word at byte offset `off`. -/
def rb (n off i : Nat) : Bool := bitAt n (8 * off + i)

/-- The bits of a record that its table lists, as a mask. -/
def usedMask (used : List (Nat × Nat × Nat)) : Nat :=
  used.foldl (fun m (off, hi, lo) => m ||| ((2 ^ (hi - lo + 1) - 1) <<< (8 * off + lo))) 0

/-- Every bit the table does not list is zero (00 R5). -/
def reservedZero (n : Nat) (used : List (Nat × Nat × Nat)) : Bool := n &&& usedMask used == n

/-- Fields put together: (offset, lowest bit, value). -/
def pack (fs : List (Nat × Nat × Nat)) : Nat := fs.foldl (fun n (off, lo, v) => n + v <<< (8 * off + lo)) 0

/-! ## The route context header -/

/-- Fields of the header: 03 R53, 05 R100, 06 R126. -/
def hdrFields : List (Nat × Nat × Nat) :=
  [(0, 23, 0), (4, 5, 0), (4, 17, 8), (4, 31, 20), (8, 31, 0), (0xC, 31, 0), (0x10, 31, 0), (0x14, 31, 0),
   (0x20, 9, 0), (0x24, 31, 0), (0x28, 31, 0), (0x2C, 31, 0), (0x30, 31, 0), (0x34, 31, 0), (0x38, 6, 0),
   (0x38, 15, 8), (0x40, 31, 0), (0x44, 31, 0), (0x48, 31, 0), (0x4C, 31, 0), (0x60, 1, 0), (0x60, 31, 16),
   (0x64, 31, 0), (0x68, 31, 0)]

/-- model_id -/
def hModel (h : Nat) : Nat := rf h 0 15 0
/-- layer -/
def hLayer (h : Nat) : Nat := rf h 0 23 16
/-- d, from d_units with 0 standing for 64 -/
def hD (h : Nat) : Nat := 256 * (if rf h 4 5 0 == 0 then 64 else rf h 4 5 0)
/-- E -/
def hE (h : Nat) : Nat := rf h 4 17 8 + 1
/-- weight_fmt -/
def hWfmt (h : Nat) : Nat := rf h 4 23 20
/-- input_fmt -/
def hIfmt (h : Nat) : Nat := rf h 4 27 24
/-- norm -/
def hNorm (h : Nat) : Nat := rf h 4 29 28
/-- halt_en -/
def hHalt (h : Nat) : Bool := rb h 4 30
/-- hold_en -/
def hHold (h : Nat) : Bool := rb h 4 31
/-- epsilon -/
def hEps (h : Nat) : F32 := BitVec.ofNat 32 (rf h 8 31 0)
/-- halt_bias -/
def hHaltBias (h : Nat) : F32 := BitVec.ofNat 32 (rf h 0xC 31 0)
/-- sketch_key -/
def hSketchKey (h : Nat) : Nat := rf h 0x10 63 0
/-- k -/
def hK (h : Nat) : Nat := rf h 0x20 3 0 + 1
/-- gate_mode -/
def hGateMode (h : Nat) : Nat := rf h 0x20 5 4
/-- sel_bias_en -/
def hSelBias (h : Nat) : Bool := rb h 0x20 6
/-- adapt_en -/
def hAdapt (h : Nat) : Bool := rb h 0x20 7
/-- stats_en -/
def hStats (h : Nat) : Bool := rb h 0x20 8
/-- noise_en -/
def hNoise (h : Nat) : Bool := rb h 0x20 9
/-- gate_scale -/
def hGateScale (h : Nat) : F32 := BitVec.ofNat 32 (rf h 0x24 31 0)
/-- halt_threshold -/
def hHaltThr (h : Nat) : F32 := BitVec.ofNat 32 (rf h 0x28 31 0)
/-- noise_std -/
def hNoiseStd (h : Nat) : F32 := BitVec.ofNat 32 (rf h 0x2C 31 0)
/-- adapt_rate -/
def hAdaptRate (h : Nat) : F32 := BitVec.ofNat 32 (rf h 0x30 31 0)
/-- adapt_clamp -/
def hAdaptClamp (h : Nat) : F32 := BitVec.ofNat 32 (rf h 0x34 31 0)
/-- hold_threshold -/
def hHoldThr (h : Nat) : Nat := rf h 0x38 6 0
/-- hold_max_age -/
def hHoldAge (h : Nat) : Nat := rf h 0x38 15 8
/-- bias state address -/
def hBiasAddr (h : Nat) : Nat := rf h 0x40 63 0
/-- statistics address -/
def hStatsAddr (h : Nat) : Nat := rf h 0x48 63 0
/-- cap_mode -/
def hCapMode (h : Nat) : Nat := rf h 0x60 1 0
/-- min_share G -/
def hMinShare (h : Nat) : Nat := rf h 0x60 31 16
/-- core_quota Q -/
def hQuota (h : Nat) : Nat := rf h 0x64 15 0
/-- spill_quota -/
def hSpillQuota (h : Nat) : Nat := rf h 0x64 31 16
/-- cap_factor -/
def hCapFactor (h : Nat) : Nat := rf h 0x68 15 0
/-- course_deadline -/
def hDeadline (h : Nat) : Nat := rf h 0x68 31 16

/-- Bytes of one router weight. -/
def hWBytes (h : Nat) : Nat := if hWfmt h == 2 then 2 else 1
/-- Where section 3, the halt column, begins (03 R52). -/
def imgHalt (h : Nat) : Nat := roundUp (256 + 4 * hE h) 64
/-- Where section 4, the weight rows, begins. -/
def imgRows (h : Nat) : Nat := roundUp (imgHalt h + hD h * hWBytes h) 64
/-- Length of section 4. -/
def imgWeights (h : Nat) : Nat := hE h * hD h * hWBytes h
/-- Image bytes (03 R52). -/
def imgBytes (h : Nat) : Nat := imgRows h + imgWeights h
/-- A route context whose weight section exceeds 4 MiB is streamed (10 R245). -/
def imgStreamed (h : Nat) : Bool := 4194304 < imgWeights h
/-- Bytes the store holds: all, or all but the weight rows (10 R245). -/
def imgHeld (h : Nat) : Nat := if imgStreamed h then imgRows h else imgBytes h
/-- Units of 16 KiB that the store gives it (10 R245). -/
def imgUnits (h : Nat) : Nat := ceilDiv (imgHeld h + (if hSelBias h then 4 * hE h else 0)) 16384
/-- L, logit tiles (01 R19). -/
def hL (h : Nat) : Nat := ceilDiv (hE h) 256
/-- P, passes (03 R67). -/
def hP (h : Nat) : Nat := ceilDiv (hD h) 4096

/-- A positive normal FP32 value. -/
def posNormal (x : F32) : Bool := !signF x && 2 ^ 23 ≤ x.toNat && isFinite x

/-- MODEL_LOAD completes with BAD_OPCODE for none of the reasons of 03 R54, 05 R101 (the biases apart) and 06 R127. -/
def hdrOk (h : Nat) : Bool :=
  let fmtOk := fun c => c == 2 || c == 3 || c == 4
  let capMode := hCapMode h
  reservedZero h hdrFields
  && 8 ≤ hE h && hNorm h != 3 && (hNorm h == 0 || posNormal (hEps h)) && !(hHold h && hE h < 128)
  && fmtOk (hWfmt h) && fmtOk (hIfmt h)
  && hK h ≤ hE h && posNormal (hGateScale h) && !(hHalt h && isNan (hHaltThr h))
  && (!hNoise h || (isFinite (hNoiseStd h) && (!signF (hNoiseStd h) || isZero (hNoiseStd h))))
  && !(hNoise h && hHold h) && !(hAdapt h && !hSelBias h)
  && (!hAdapt h || (posNormal (hAdaptRate h) && posNormal (hAdaptClamp h)))
  && !(hHold h && (64 < hHoldThr h || hHoldAge h == 0))
  && capMode != 3 && 16 ≤ hQuota h && 1 ≤ hMinShare h && hMinShare h ≤ 4096
  && (capMode == 1) == (hSpillQuota h != 0)
  && (capMode != 2 || hCapFactor h != 0)
  && (capMode == 2 || (hCapFactor h == 0 && hDeadline h == 0))

/-- A bias state or statistics address in use that is not 64-byte aligned (05 R101). -/
def hdrMisaligned (h : Nat) : Bool :=
  (hSelBias h && hBiasAddr h % 64 != 0) || (hStats h && hStatsAddr h % 64 != 0)

/-- `n` FP32 values of a run of bytes. -/
def f32s (n : Nat) (bs : List Byte) : List F32 :=
  ((chunks 4 (bs.take (4 * n))).map fun b => BitVec.ofNat 32 (leNat b))

/-- Router weights decoded to FP32. -/
def weights (h : Nat) (n : Nat) (bs : List Byte) : List F32 := (decodeRow n (hWfmt h) bs).1

/-- Logit bias of expert `e`, from the image (03 R52). -/
def logitBias (img : List Byte) (e : Nat) : F32 := BitVec.ofNat 32 (leAt img (256 + 4 * e) 4)

/-- Where in the image the weights of expert `e` in pass `q` lie. -/
def weightAt (h e q : Nat) : Nat := imgRows h + (e * hD h + 4096 * q) * hWBytes h

/-- Elements of pass `q` (03 R66). -/
def passLen (h q : Nat) : Nat := if q + 1 == hP h then hD h - 4096 * q else 4096

/-! ## Pre-norm -/

/-- Rows of `n` elements. -/
def rowsOf (n : Nat) : Nat → List F32 → List (List F32)
  | 0, _ => []
  | k + 1, xs => xs.take n :: rowsOf n k (xs.drop n)

/-- Rows of 128 elements, one for each lane (03 R59). -/
def laneRows (xs : List F32) : List (List F32) := rowsOf 128 (xs.length / 128) xs

/-- Neighbours joined pairwise, the lower first. -/
def pairUp {α : Type} (f : α → α → α) : List α → List α
  | a :: b :: t => f a b :: pairUp f t
  | t => t

/-- The seven-level tree over 128 values as a + b (03 R61, R65). -/
def treeSum (xs : List F32) : F32 :=
  let up := pairUp addF
  (up (up (up (up (up (up (up xs))))))).headD zeroF

/-- 03 R60, LayerNorm: (mean, m2) after element number `n`. -/
def laneLn (n : Nat) (st : F32 × F32) (x : F32) : F32 × F32 :=
  let delta := subF x st.1
  (addF st.1 (mulF delta (ratF 1 n)), addF st.2 (mulF (mulF delta delta) (ratF (n - 1) n)))

/-- 03 R60, RMSNorm: running mean of squares. -/
def laneRms (n : Nat) (ms x : F32) : F32 :=
  addF ms (mulF (subF (mulF x x) ms) (ratF 1 n))

/-- The 128 lane states after every row. -/
def lanePass {σ : Type} (f : Nat → σ → F32 → σ) : Nat → List σ → List (List F32) → List σ
  | _, st, [] => st
  | n, st, r :: rs => lanePass f (n + 1) (List.zipWith (f (n + 1)) st r) rs

/-- 03 R61, LayerNorm: the merge of two states of `n` elements each. -/
def mergeLn (n : Nat) (a b : F32 × F32) : F32 × F32 :=
  let delta := subF b.1 a.1
  (addF a.1 (mulF delta (pow2F (-1))), addF (addF a.2 b.2) (mulF (mulF delta delta) (ratF n 2)))

/-- 03 R61, RMSNorm. -/
def mergeRms (a b : F32) : F32 := addF a (mulF (subF b a) (pow2F (-1)))

/-- `k` levels of merging from states of `n` elements. -/
def mergeUp {σ : Type} (f : Nat → σ → σ → σ) : Nat → Nat → List σ → List σ
  | 0, _, st => st
  | k + 1, n, st => mergeUp f k (2 * n) (pairUp (f n) st)

/-- max(x, +0); NaN stays (03 R62). -/
def clamp0 (x : F32) : F32 := if isNan x || ltF zeroF x then x else zeroF

/-- What the pre-norm gives: the router input as FP32, its conversion events, SFU domain events. -/
structure Prenorm where
  y : List F32
  cnt : ConvCount
  dom : Nat
  deriving DecidableEq, Repr

/-- 03 R59 to R64 on a token's row of format `fmt`. -/
def prenorm (h fmt : Nat) (row : List Byte) : Prenorm :=
  let d := hD h
  let dec := decodeRow d fmt row
  let xs := dec.1
  let castAll := fun (ys : List F32) (dom : Nat) =>
    match fmtOf (hIfmt h) with
    | some f =>
      let cs := ys.map (castPlain f)
      Prenorm.mk (cs.map (·.1)) (cs.foldl (fun a c => a.add c.2) dec.2) dom
    | none => Prenorm.mk ys dec.2 dom
  if hNorm h == 0 then castAll xs 0
  else if xs.any fun x => !isFinite x then castAll (List.replicate d nanF) 0
  else
    let n := d / 128
    let mean := fun st : List (F32 × F32) => (st.headD (nanF, nanF)).1
    let ln := mergeUp mergeLn 7 n (lanePass laneLn 0 (List.replicate 128 (zeroF, zeroF)) (laneRows xs))
    let ms := mergeUp (fun _ => mergeRms) 7 n (lanePass laneRms 0 (List.replicate 128 zeroF) (laneRows xs))
    let q := if hNorm h == 1 then clamp0 (mulF (ln.headD (nanF, nanF)).2 (ratF 1 d)) else clamp0 (ms.headD nanF)
    let r := sfuOp 4 false (some (hEps h)) none q
    let ys := if hNorm h == 1 then xs.map fun x => mulF (subF x (mean ln)) r else xs.map fun x => mulF x r
    castAll ys (b2n (sfuDomain (some (hEps h)) none q r))

/-- 03 R65: the halt logit. -/
def haltLogit (h : Nat) (img : List Byte) (y : List F32) : F32 :=
  let hw := weights h (hD h) (slice img (imgHalt h) (hD h * hWBytes h))
  let rows := List.zip (laneRows y) (laneRows hw)
  let lanes := rows.foldl (fun acc (ys, ws) => List.zipWith (fun a yw => fmaF yw.1 yw.2 a) acc (List.zip ys ws))
    (List.replicate 128 zeroF)
  addF (treeSum lanes) (hHaltBias h)

/-! ## Fronds and sketch -/

/-- Partial sums of the 32 rows added from row 0 down (03 R67). -/
def columnSum : List F32 → F32
  | [] => zeroF
  | p :: ps => ps.foldl addF p

/-- 03 R67: one pass of one expert: 32 cells, each a chain of fused multiply-adds, then down the column. -/
def passSum (y w : List F32) : F32 :=
  let n := y.length / 32
  let rows := List.zip (rowsOf 32 n y) (rowsOf 32 n w)
  columnSum (rows.foldl (fun acc (ys, ws) => List.zipWith (fun a yw => fmaF yw.1 yw.2 a) acc (List.zip ys ws))
    (List.replicate 32 zeroF))

/-- 03 R66: experts of logit tile `l`. -/
def tileExperts (h l : Nat) : Nat := min 256 (hE h - 256 * l)

/-- 03 R70: the sums of set (l, q), added to the partial logits of the passes before. `row e q` gives the weights. -/
def streamSet (h l q : Nat) (row : Nat → List F32) (y part : List F32) : List F32 :=
  let yq := (y.drop (4096 * q)).take (passLen h q)
  tabulate (tileExperts h l) fun i =>
    let s := passSum yq (row (256 * l + i))
    if q == 0 then s else addF (part.getD i zeroF) s

/-- 03 R80: one column of the sketch. -/
def sketchCol (h c : Nat) (y : List F32) : F32 :=
  let signed := fun (blk i : Nat) (x : F32) => if bitAt blk i then negF x else x
  let beat := fun (acc : List F32) (br : Nat × List F32) =>
    let blk := sketchBlock (hSketchKey h) (hLayer h) br.1 c
    let t := rowsOf 32 4 ((indexed br.2).map fun (i, x) => signed blk i x)
    let ab := List.zipWith addF (t.getD 0 []) (t.getD 1 [])
    let cd := List.zipWith addF (t.getD 2 []) (t.getD 3 [])
    List.zipWith addF acc (List.zipWith addF ab cd)
  columnSum ((indexed (laneRows y)).foldl beat (List.replicate 32 zeroF))

/-- 03 R79: the 64-bit sketch. -/
def sketchOf (h : Nat) (y : List F32) : BitVec 64 :=
  BitVec.ofNat 64 (sumNat (tabulate 64 fun c => if ltF zeroF (sketchCol h c y) then 2 ^ c else 0))

/-! ## Selection -/

/-- 05 R103: the training noise of expert `e`. -/
def noiseOf (std : F32) (seed step pos uid layer e : Nat) : F32 :=
  let w := fld (streamBlock seed step pos uid layer 1 (e / 4)) (32 * (e % 4) + 31) (32 * (e % 4))
  let m := w >>> 9
  let two := 2 * m + 1
  let diff : Val := if 2 ^ 23 ≤ two then .fin false (two - 2 ^ 23) (-23) else .fin true (2 ^ 23 - two) (-23)
  mulF std (toF32 diff)

/-- 05 R106: key a of expert ea ranks before key b of expert eb. -/
def better (a b : Cand) : Bool := ltF b.key a.key || (!ltF a.key b.key && a.e < b.e)

/-- 05 R106: a candidate offered to a list of at most `k`. -/
def topkInsert (k : Nat) (x : Cand) (xs : List Cand) : List Cand := (insertBy better x xs).take k

/-- exp(x + bias) in Precise mode and its domain event (05 R104). -/
def expOf (x bias : F32) : F32 × Nat :=
  let r := sfuOp 1 false (some bias) none x
  (r, b2n (sfuDomain (some bias) none x r))

/-- The largest of a list of logits, NaN aside. -/
def maxF : List F32 → F32
  | [] => ninfF
  | x :: xs => xs.foldl (fun m z => if ltF m z || isNan m then z else m) x

/-- Lane sums joined in the tree: lane i mod 128 adds in ascending i (05 R105). -/
def laneSums (qs : List F32) : F32 :=
  let rows := rowsOf 128 (ceilDiv qs.length 128) qs
  treeSum (rows.foldl (fun acc r =>
    List.zipWith addF acc (r ++ List.replicate (128 - r.length) zeroF)) (List.replicate 128 zeroF))

/-- One logit tile of a token through selection (05 R105, R106): logits z and keys, and domain events. A lane that
holds no expert of a short last row adds +0 to its sum, which changes no sum of R105 (its terms are at least +0). -/
def selectTile (mode k l : Nat) (st : SelState) (zs keys : List F32) : SelState × Nat :=
  let zk := indexed (List.zip zs keys)
  if mode == 0 then
    let m := maxF zs
    let raise := l != 0 && ltF st.m m
    let c := expOf st.m (negF m)
    let base : SelState :=
      if l == 0 then ⟨m, zeroF, []⟩
      else if raise then ⟨m, mulF st.s c.1, st.cands.map fun x => { x with q := mulF x.q c.1 }⟩
      else st
    let es := zs.map fun z => if z == ninfF then (zeroF, 0) else expOf z (negF base.m)
    let t := laneSums (es.map (·.1))
    let s := if l == 0 then t else addF base.s t
    let cands := zk.foldl (fun acc (i, z, key) =>
      topkInsert k ⟨key, z, (es.getD i (zeroF, 0)).1, 256 * l + i⟩ acc) base.cands
    (⟨base.m, s, cands⟩, sumNat (es.map (·.2)) + (if raise then c.2 else 0))
  else
    (⟨st.m, st.s, zk.foldl (fun acc (i, z, key) => topkInsert k ⟨key, z, zeroF, 256 * l + i⟩ acc) st.cands⟩, 0)

/-- 05 R104: the gates of the candidates in rank order, after gate_scale, and domain events. With one candidate mode 3
gives exactly gate_scale. -/
def gatesOf (mode : Nat) (scale : F32) (st : SelState) : List F32 × Nat :=
  let rcp := fun x => sfuOp 3 false none none x
  let gs : List F32 × Nat :=
    match mode with
    | 0 => (st.cands.map fun c => mulF c.q (rcp st.s), 0)
    | 1 =>
      let m := maxF (st.cands.map (·.z))
      let qs := st.cands.map fun c => if c.z == ninfF then (zeroF, 0) else expOf c.z (negF m)
      let sum := (qs.map (·.1)).foldl addF zeroF
      (qs.map fun q => mulF q.1 (rcp sum), sumNat (qs.map (·.2)))
    | 2 => (st.cands.map fun c => sfuEval 6 false c.z, 0)
    | _ =>
      let ss := st.cands.map fun c => sfuEval 6 false c.z
      let sum := ss.foldl addF zeroF
      (if isZero sum then ss.map fun _ => zeroF
        else if st.cands.length == 1 then [oneF] else ss.map fun s => mulF s (rcp sum), 0)
  let cut := List.zipWith (fun g (c : Cand) => if c.z == ninfF then zeroF else g) gs.1 st.cands
  (cut.map fun g => mulF g scale, gs.2)

/-! ## Hold records (05 R115 to R117) -/

/-- A hold record's length. -/
def holdLen (k : Nat) : Nat := 16 + 8 * k

/-- 05 R116: the record holds a token whose router input is not NaN. -/
def holds (h : Nat) (sketch : BitVec 64) (rec : List Byte) : Bool :=
  let r := leNat rec
  rb r 0xC 0 && rf r 8 15 0 == hModel h && (rf r 8 20 16 == hK h || rb r 0xC 1)
  && rf r 8 31 24 < hHoldAge h
  && popcountN (sketch.toNat ^^^ rf r 0 63 0) 64 ≤ hHoldThr h

/-- The stored outcome is an exit. -/
def holdExited (rec : List Byte) : Bool := rb (leNat rec) 0xC 1

/-- Stored choices, expert and gate by rank. -/
def holdChoices (k : Nat) (rec : List Byte) : List (Nat × F32) :=
  let r := leNat rec
  tabulate k fun j => (rf r (0x14 + 8 * j) 9 0, BitVec.ofNat 32 (rf r (0x10 + 8 * j) 31 0))

/-- A record as read, its reserved fields zero (00 R5). -/
def holdFields (k : Nat) (rec : List Byte) : Nat :=
  let r := leNat rec
  pack ([(0, 0, rf r 0 63 0), (8, 0, rf r 8 20 0), (8, 24, rf r 8 31 24), (0xC, 0, rf r 0xC 1 0)]
    ++ tabulate k (fun j => (0x10 + 8 * j, 0, rf r (0x10 + 8 * j) 31 0))
    ++ tabulate k (fun j => (0x14 + 8 * j, 0, rf r (0x14 + 8 * j) 9 0)))

/-- A held token's record after the commit: its age rises by one (05 R117). -/
def holdAged (k : Nat) (rec : List Byte) : List Byte :=
  let r := holdFields k rec
  leBytes (holdLen k) (r - (rf r 8 31 24 <<< 88) + (((rf r 8 31 24 + 1) % 256) <<< 88))

/-- An invalid token's record: valid written 0, every other field kept. -/
def holdCleared (k : Nat) (rec : List Byte) : List Byte :=
  let r := holdFields k rec
  leBytes (holdLen k) (r - rf r 0xC 0 0 <<< 96)

/-- A freshly routed token's record (05 R117): `none` for an exit. -/
def holdFresh (h : Nat) (sketch : BitVec 64) (choices : Option (List (Nat × F32))) : List Byte :=
  let k := hK h
  let cs := choices.getD []
  leBytes (holdLen k) (pack ([(0, 0, sketch.toNat), (8, 0, hModel h), (8, 16, cs.length), (0xC, 0, 1),
    (0xC, 1, b2n choices.isNone)]
    ++ ((indexed cs).map fun (j, _, g) => (0x10 + 8 * j, 0, g.toNat))
    ++ ((indexed cs).map fun (j, e, _) => (0x14 + 8 * j, 0, e))))

/-! ## Route Table entries (05 R109, R110) -/

/-- The fill fields of a choice. -/
def rtFill (t j k e : Nat) (gate : F32) (held : Bool) : RtEntry :=
  BitVec.ofNat 128 (pack [(0, 0, t), (0, 12, j), (0, 16, e), (0, 28, b2n held), (0, 31, 1), (4, 0, gate.toNat),
    (0xC, 0, t * k + j)])

/-- The entry of a token without choices. -/
def rtEmpty (t j k : Nat) : RtEntry := BitVec.ofNat 128 (pack [(0, 0, t), (0, 12, j), (0xC, 0, t * k + j)])

/-- token -/
def rtTok (r : RtEntry) : Nat := rf r.toNat 0 11 0
/-- rank -/
def rtRank (r : RtEntry) : Nat := rf r.toNat 0 15 12
/-- expert -/
def rtExpert (r : RtEntry) : Nat := rf r.toNat 0 25 16
/-- disposition -/
def rtDisp (r : RtEntry) : Nat := rf r.toNat 0 27 26
/-- held -/
def rtHeld (r : RtEntry) : Bool := rb r.toNat 0 28
/-- valid -/
def rtValid (r : RtEntry) : Bool := rb r.toNat 0 31
/-- gate -/
def rtGate (r : RtEntry) : F32 := BitVec.ofNat 32 (rf r.toNat 4 31 0)
/-- dest_chip -/
def rtChip (r : RtEntry) : Nat := rf r.toNat 8 15 0
/-- dest_core -/
def rtCore (r : RtEntry) : Nat := rf r.toNat 8 22 16
/-- course -/
def rtCourse (r : RtEntry) : Nat := rf r.toNat 8 31 24

/-- 06 R138: the dispatch fields written. -/
def rtDispatch (r : RtEntry) (disp chip core course : Nat) : RtEntry :=
  let n := r.toNat
  BitVec.ofNat 128 (n - rtDisp r <<< 26 - rf n 8 31 0 <<< 64
    + disp <<< 26 + (chip + core <<< 16 + course <<< 24) <<< 64)

end Sys2Proof.Machine
end

