-- ==== Sys2Proof/WellFormed.lean ====
section
/-!
DEFINITION. Which commands could stand on the port they arrive on: a Basol block is 512 bytes (07 R158), a flit 256
(15 R340), a memory request moves whole 64-byte slots, at most 32 of them (15 R337), a ring read brings 1 to 8
descriptors (13 R297). Every other operand is well formed by its type.
-/
namespace Sys2Proof

/-- 15 R337: 1 to 32 slots of 64 bytes. -/
def slotsWf (data : List Byte) : Bool :=
  data.length % 64 == 0 && data.length ≤ 2048 && data.length != 0

/-- The command could stand on its port. -/
def Instr.wf : Instr → Bool
  | .descriptorArrival _ (some ds) => 1 ≤ ds.length && ds.length ≤ 8
  | .drainFlit _ _ data => data.length == 256
  | .basolBlockReceive _ block => block.length == 512
  | .memReadResponse _ data => slotsWf data
  | .hostBridgeResponse _ (.ok data) => data.length ≤ 4096
  | .resetAssert ticks => ticks != 0
  | .tamperInput ticks => ticks != 0
  | _ => true

end Sys2Proof
end

