-- ==== Sys2Proof/Machine/Ops.lean ====
section
/-!
DEFINITION. The named operations that the meanings share: counters, memory and its port, bandwidth regulators, the host
bridge, completion of descriptors, Basol sending, and abandoning, withdrawing, draining, faulting and resetting.
-/
namespace Sys2Proof.Machine

/-- The outcome of a command. -/
abbrev Res := Host.Outcome State Fault Refusal

/-- A command's next state: the queue of waiting commands is no command's effect. -/
def finish (s t : State) : Res := .next { t with pending := s.pending }

/-- The effect where the condition of the event holds; else the event does not happen and nothing changes
(notes/assumptions/9.md). -/
def guarded (s : State) (c : Bool) (f : State → State) : Res := finish s (if c then f s else s)

/-- READY or RUN (01 R26). -/
def State.up (s : State) : Bool := s.eng == .up
/-- READY, RUN or SAFE: the units work and the set-up port takes writes. -/
def State.live (s : State) : Bool := s.eng == .up || s.eng == .safe
/-- Any state but OFF: the interior is powered. -/
def State.on (s : State) : Bool := s.eng != .off

/-! ## Setters and counters -/

/-- `f` applied to context `c`. -/
def modCtx (s : State) (c : CtxId) (f : Ctx → Ctx) : State := { s with ctxs := vmod s.ctxs c f }

/-- Context `c`. -/
def State.ctx (s : State) (c : CtxId) : Ctx := s.ctxs[c]

/-- `k` added to 64-bit counter `i`, with the wrap bit (12 R290, 18 R382). -/
def bump {n : Nat} (v : Vector (BitVec 64) n) (w : BitVec n) (i k : Nat) : Vector (BitVec 64) n × BitVec n :=
  let old := (vgetN v i 0).toNat
  (vsetN v i (BitVec.ofNat 64 (old + k)), if 2 ^ 64 ≤ old + k then bvSetBit w i true else w)

/-- Per-context telemetry counter `i` of 18 R383 rises by `k`. -/
def teleCtx (s : State) (c : CtxId) (i k : Nat) : State :=
  modCtx s c fun x => let b := bump x.tele x.teleWrap i k; { x with tele := b.1, teleWrap := b.2 }

/-- Per-engine telemetry counter `i` of 18 R383 rises by `k`. -/
def teleEng (s : State) (i k : Nat) : State :=
  let b := bump s.tele s.teleWrap i k
  { s with tele := b.1, teleWrap := b.2 }

/-- Accounting counter `i` of 12 R290 rises by `k`. -/
def acctAdd (s : State) (c : CtxId) (i k : Nat) : State :=
  modCtx s c fun x => let b := bump x.acct x.acctWrap i k; { x with acct := b.1, acctWrap := b.2 }

/-- Conversion events of 02 R45 counted for a context (DEDUCED, notes/assumptions/24.md). -/
def convCount (s : State) (c : CtxId) (n : ConvCount) : State := teleCtx (teleCtx s c 0 n.sat) c 1 n.nan

/-- 11 R260: `k` timing-dependent choices of a kind, for work of context `c` or of a peer. -/
def tdcEvent (s : State) (kind k : Nat) (c : Option CtxId) : State :=
  if k == 0 then s
  else
    let total := s.tdc.total.toNat + k
    let old := (vgetN s.tdc.kinds kind 0).toNat
    let t : Tdc := ⟨BitVec.ofNat 48 (min total (2 ^ 48 - 1)),
      vsetN s.tdc.kinds kind (BitVec.ofNat 32 (min (old + k) (2 ^ 32 - 1))),
      s.tdc.saturated || 2 ^ 48 - 1 ≤ total⟩
    let s1 := { s with tdc := t }
    match c with
    | some c => modCtx s1 c fun x => { x with tdcSeen := true }
    | none => s1

/-- The tick count as the sampler gives it (15 R346). -/
def State.now (s : State) : Nat := s.tick.toNat

/-- Ticks since an earlier moment of the 64-bit count (DESIGN CHOICE, notes/assumptions/4.md). -/
def State.since (s : State) (t : BitVec 64) : Nat := (s.tick - t).toNat

/-- Ticks of the self-test in progress. -/
def testTicks (s : State) : Nat := s.since s.st.stepFrom

/-- The step of the self-test in progress (17 R366): steps 1 and 2 last as long as the rule says, 10 and 11 by the row
that ends step 10, and what steps 3 to 9 take, in beats, is free (DEDUCED, notes/assumptions/18.md). -/
def stepNow (s : State) : Nat :=
  if s.eng != .selftest then s.st.step.toNat
  else if !s.st.keyStepPending then (if s.fw.valid || s.st.eccHit then 11 else 10)
  else if testTicks s < 10000 then 1
  else if testTicks s < 2107152 then 2
  else 3 + ((List.range 7).filter fun n =>
    sumNat ((List.range (n + 1)).map fun i => (Config.stepTicks s.st.entry i).toNat) ≤ testTicks s - 2107152).length

/-! ## Memory (15 R337, R338) -/

/-- The byte at an address; an unlisted one reads zero (notes/assumptions/2.md). -/
def memByte (m : Memory) (a : Nat) : Byte := (lookup a m.cells).getD 0

/-- The bytes of a range (DESIGN CHOICE, notes/assumptions/2.md). -/
def memRead (m : Memory) (a n : Nat) : List Byte :=
  let cs := m.cells.filter fun c => a ≤ c.1 && c.1 < a + n
  tabulate n fun i => (lookup (a + i) cs).getD 0

/-- The entries of a run of bytes that are not zero. -/
def runCells (a : Nat) : List Byte → List Host.Cell
  | [] => []
  | b :: bs => if b == 0 then runCells (a + 1) bs else (a, b) :: runCells (a + 1) bs

/-- A run of bytes stored at an address; the form stays canonical (DESIGN CHOICE, notes/assumptions/2.md). -/
def memWrite (m : Memory) (a : Nat) (bs : List Byte) : Memory :=
  { m with cells := m.cells.filter (fun c => c.1 < a) ++ runCells a bs
      ++ m.cells.filter (fun c => a + bs.length ≤ c.1) }

/-- The canonical form: addresses strictly rising, no entry zero (DESIGN CHOICE, notes/assumptions/2.md). -/
def Memory.wf (m : Memory) : Bool :=
  (m.cells.all fun c => c.2 != 0) && (List.zip m.cells (m.cells.drop 1)).all fun p => p.1.1 < p.2.1

/-- 15 R339: an error response sets mem_err. -/
def memErr (s : State) : State := { s with portErr := { s.portErr with mem := true } }

/-! ## Bandwidth regulators (12 R287 to R289) -/

/-- The settings that hold at tick `t`, of those that wait: of each, from its tick on, in the order in which they begin;
of two that begin together the later one stands (12 R288) (DEDUCED, notes/assumptions/20.md). -/
def regDue (r : Regul) (t : Nat) : Option (Nat × Nat × Nat) :=
  (r.next.filter fun n => n.2.2 ≤ t).foldl (fun d n =>
    match d with
    | some m => if m.2.2 ≤ n.2.2 then some n else d
    | none => some n) none

/-- The regulator in the window that holds tick `t`: settings that wait are taken from their tick on. -/
def regNow (r : Regul) (t : Nat) : Regul :=
  let r1 := match regDue r t with
    | some (w, b, _) =>
      { r with window := w, budget := b, used := 0, winNo := t / (1000 * w), held := false
               next := r.next.filter fun n => t < n.2.2 }
    | none => r
  if t / (1000 * r1.window) == r1.winNo then r1
  else { r1 with used := 0, winNo := t / (1000 * r1.window), held := false }

/-- 12 R288: a request is granted while the used count is below the budget; a budget of 0 disables. -/
def regOpen (r : Regul) : Bool := r.budget == 0 || r.used < 64 * r.budget

/-- The whole size is added. -/
def regCharge (r : Regul) (n : Nat) : Regul := { r with used := r.used + n, held := false }

/-- New settings, in effect from the first window of the new length after now (12 R288). -/
def regSet (r : Regul) (w b t : Nat) : Regul := { r with next := r.next ++ [(w, b, (t / (1000 * w) + 1) * (1000 * w))] }

/-- The memory regulator of `c` grants a request now. -/
def memOpen (s : State) (c : CtxId) : Bool := regOpen (regNow (s.ctx c).regMem s.now)

/-- `n` bytes charged to the memory regulator. -/
def memCharge (s : State) (c : CtxId) (n : Nat) : State :=
  modCtx s c fun x => { x with regMem := regCharge (regNow x.regMem s.now) n }

/-- The spore regulator of `c` grants a block now. -/
def sporeOpen (s : State) (c : CtxId) : Bool := regOpen (regNow (s.ctx c).regSpore s.now)

/-- `n` bytes charged to the spore regulator. -/
def sporeCharge (s : State) (c : CtxId) (n : Nat) : State :=
  modCtx s c fun x => { x with regSpore := regCharge (regNow x.regSpore s.now) n }

/-- The feed regulator of `c` grants a flit now. -/
def feedOpen (s : State) (c : CtxId) : Bool := regOpen (regNow (s.ctx c).regFeed s.now)

/-- `n` bytes charged to the feed regulator. -/
def feedCharge (s : State) (c : CtxId) (n : Nat) : State :=
  modCtx s c fun x => { x with regFeed := regCharge (regNow x.regFeed s.now) n }

/-! ## Requests of the memory port -/

/-- 15 R337: pieces of a range, none crossing 4 KiB nor longer than 32 slots. -/
def reqPieces : Nat → Nat → Nat → List (Nat × Nat)
  | 0, _, _ => []
  | fuel + 1, a, n =>
    if n == 0 then []
    else
      let k := min n (min (4096 - a % 4096) (2048 - a % 64))
      (a, k) :: reqPieces fuel (a + k) (n - k)

/-- Slots of 64 bytes that a range touches. -/
def slotsOf (a n : Nat) : Nat := (a + n - 1) / 64 - a / 64 + 1

/-- The requests of a write. -/
def writeReqs (o : MemOwner) (a : Nat) (data : List Byte) (rank : Nat) (charge : Option CtxId) : List MemReq :=
  (reqPieces data.length a data.length).map fun p =>
    ⟨0, o, true, p.1, p.2, slice data (p.1 - a) p.2, [], [], rank, charge⟩

/-- The requests of a read. -/
def readReqs (o : MemOwner) (a n rank : Nat) (charge : Option CtxId) : List MemReq :=
  (reqPieces n a n).map fun p => ⟨0, o, false, p.1, p.2, [], [], [], rank, charge⟩

/-- 15 R337: the channel of a request is bit 12 of its address. -/
def chanOf (a : Nat) : Nat := a / 4096 % 2

/-- 15 R338: at most 256 requests outstanding on a channel. -/
def chanRoom (s : State) (a : Nat) : Bool :=
  (s.memOut.filter fun r => chanOf r.addr == chanOf a).length < 256

/-- A tag that no outstanding request holds. -/
def freeTag (s : State) : BitVec 12 :=
  ((tabulate 513 fun i => s.nextTag + BitVec.ofNat 12 i).find? fun t => !s.memOut.any fun r => r.tag == t).getD s.nextTag

/-- A waiting request may issue now: its channel has room and its context's regulator grants it (01 R24). -/
def reqReady (s : State) (r : MemReq) : Bool :=
  chanRoom s r.addr && (match r.charge with | some c => memOpen s c | none => true)

/-- The DMA channel of a request. -/
def MemOwner.dmaChan : MemOwner → Option ChanId
  | .dmaRead ch _ _ _ => some ch
  | .dmaWrite ch _ => some ch
  | _ => none

/-- The gather channel of a request. -/
def MemOwner.moverChan : MemOwner → Option ChanId
  | .mover ch => some ch
  | .moverRead ch => some ch
  | _ => none

/-- 01 R24: how far a channel's turn is from the one served last, for DMA channels and for stand-alone movers. -/
def turnOf (s : State) (r : MemReq) : Nat :=
  match r.owner.dmaChan, r.owner.moverChan with
  | some ch, _ => (ch.val + 15 - s.dmaLast.val) % 16
  | none, some ch => if r.rank == 6 then (ch.val + 15 - s.moverLast.val) % 16 else 0
  | none, none => 0

/-- The channel of the request has been served. -/
def servedBy (s : State) (r : MemReq) : State :=
  { s with
    dmaLast := r.owner.dmaChan.getD s.dmaLast
    moverLast := if r.rank == 6 then r.owner.moverChan.getD s.moverLast else s.moverLast }

/-- A request issues: it is charged, and a write lands in memory, which keeps issue order per slot (15 R338)
(DEDUCED, notes/assumptions/42.md). -/
def issueReq (s : State) (r : MemReq) : State :=
  let t := freeTag s
  let s1 := servedBy (match r.charge with | some c => memCharge s c (64 * slotsOf r.addr r.len) | none => s) r
  let r1 := { r with tag := t, old := if r.write then memRead s.chip r.addr r.len else [] }
  let out := if r.write then s1.memOut.map fun q => { q with later := (r.addr, r.len) :: q.later } else s1.memOut
  { s1 with
    chip := if r.write then memWrite s1.chip r.addr r.data else s1.chip
    memOut := out ++ [r1]
    nextTag := t + 1 }

/-- The request is the oldest of its DMA channel, which issues its requests in order (14 R321). -/
def chanFront (s : State) (p : Nat × MemReq) : Bool :=
  match p.2.owner.dmaChan with
  | some ch => !(s.memWait.take p.1).any fun r => r.owner.dmaChan == some ch
  | none => true

/-- 01 R24: the waiting request served next: lowest rank among those that may issue, channels round robin, then oldest
first. -/
def nextReq (s : State) : Option (Nat × MemReq) :=
  firstMin (fun a b => a.2.rank < b.2.rank || (a.2.rank == b.2.rank && turnOf s a.2 < turnOf s b.2))
    ((indexed s.memWait).filter fun p => reqReady s p.2 && chanFront s p)

/-- Waiting requests issue while any may. -/
def pumpMem : Nat → State → State
  | 0, s => s
  | n + 1, s =>
    match nextReq s with
    | none => s
    | some (i, r) => pumpMem n (issueReq { s with memWait := s.memWait.eraseIdx i } r)

/-- Requests made: they wait, and those that may issue do. -/
def request (s : State) (rs : List MemReq) : State :=
  let s1 := { s with memWait := s.memWait ++ rs }
  pumpMem s1.memWait.length s1

/-- A write of a unit to chip memory. -/
def writeMem (s : State) (o : MemOwner) (a : Nat) (data : List Byte) (rank : Nat) (charge : Option CtxId) : State :=
  request s (writeReqs o a data rank charge)

/-- Some request of an owner that meets `p` has not returned. -/
def memBusy (s : State) (p : MemOwner → Bool) : Bool :=
  s.memWait.any (fun r => p r.owner) || s.memOut.any fun r => p r.owner

/-- Chip memory as the reads of an owner found it. -/
def gotChip (s : State) (o : MemOwner) : Memory :=
  s.got.foldl (fun m g => if g.1 == o then memWrite m g.2.1 g.2.2 else m) s.chip

/-! ## Reads that a unit waits for -/

/-- What a unit's reads brought of a range. -/
def gotRead (s : State) (o : MemOwner) (a n : Nat) : List Byte := memRead (gotChip s o) a n

/-- A piece of a range has come. -/
def pieceGot (s : State) (o : MemOwner) (p : Nat × Nat) : Bool :=
  s.got.any fun g => g.1 == o && g.2.1 ≤ p.1 && p.1 + p.2 ≤ g.2.1 + g.2.2.length

/-- The requests of the ranges that a unit has not got. -/
def missingReqs (s : State) (o : MemOwner) (rank : Nat) (charge : Option CtxId) (rs : List (Nat × Nat)) : List MemReq :=
  (rs.flatMap fun r => readReqs o r.1 r.2 rank charge).filter fun q => !pieceGot s o (q.addr, q.len)

/-- A unit has read the ranges: `k` follows. Until then their requests are made, and the unit waits for the answers
(15 R337, R338); the last answer takes the unit up again (DEDUCED, notes/assumptions/3.md). -/
def reading (s : State) (o : MemOwner) (rank : Nat) (charge : Option CtxId) (rs : List (Nat × Nat)) (k : State → State) :
    State :=
  if memBusy s (· == o) then s
  else
    let qs := missingReqs s o rank charge rs
    if qs.isEmpty then k s else request s qs

/-- What a unit has read is used up. -/
def dropRead (s : State) (o : MemOwner) : State := { s with got := s.got.filter fun g => g.1 != o }

/-- The reads of the owners that meet `p` are given up: those waiting go, and the answers of the others are
discarded. -/
def killReads (s : State) (p : MemOwner → Bool) : State :=
  { s with
    memWait := s.memWait.filter fun r => !p r.owner
    memOut := s.memOut.map fun r => if p r.owner then { r with owner := .dead } else r
    got := s.got.filter fun g => !p g.1 }

/-! ## Host bridge (13 R317) -/

/-- An access through the host bridge is made. -/
def hostIssue (s : State) (o : HostOwner) (write : Bool) (a n : Nat) (data : List Byte) : State :=
  { s with hostOut := s.hostOut ++ [⟨s.nextHost, o, write, a, n, data⟩], nextHost := s.nextHost + 1 }

/-! ## Fields that each descriptor uses (13) -/

/-- The header (13 R298). -/
def headFields : List (Nat × Nat × Nat) := [(0, 7, 0), (0, 31, 16)]

/-- The mover fields shared (13 R305). -/
def moverFields : List (Nat × Nat × Nat) := [(8, 24, 0), (0xC, 31, 0), (0x10, 9, 0), (0x18, 63, 0)]

/-- The used bits of an opcode's descriptor, the header apart; none for an opcode outside the table. A field that an
opcode does not use must be zero (13 R301), so it is left out of its list. -/
def opFields (op : Nat) : Option (List (Nat × Nat × Nat)) :=
  match op with
  | 0x01 => some [(8, 31, 0), (0xC, 31, 0), (0x10, 19, 0), (0x14, 31, 0), (0x18, 31, 0), (0x1C, 15, 0),
      (0x20, 47, 0), (0x28, 47, 0), (0x30, 63, 0)]
  | 0x02 => some [(8, 31, 0), (0xC, 31, 24), (0x10, 9, 0), (0x10, 19, 19), (0x14, 31, 0), (0x18, 31, 0), (0x1C, 15, 0),
      (0x28, 47, 0)]
  | 0x03 => some [(8, 31, 0), (0xC, 31, 24), (0x10, 9, 0), (0x10, 19, 19), (0x14, 31, 0), (0x18, 31, 0), (0x1C, 15, 0),
      (0x28, 47, 0)]
  | 0x10 => some (moverFields ++ [(0x20, 7, 0), (0x24, 31, 0), (0x28, 47, 0), (0x30, 47, 0)])
  | 0x11 => some (moverFields ++ [(0x20, 2, 0), (0x24, 24, 0), (0x28, 47, 0)])
  | 0x12 => some (moverFields ++ [(0x20, 3, 0), (0x24, 24, 0), (0x28, 47, 0)])
  | 0x13 => some (moverFields ++ [(0x20, 5, 0)])
  | 0x14 => some (moverFields ++ [(0x20, 31, 0), (0x24, 21, 0), (0x28, 15, 0), (0x2C, 21, 0), (0x30, 15, 0),
      (0x34, 21, 0), (0x38, 15, 0)])
  | 0x20 => some [(8, 9, 0), (0x10, 63, 0), (0x18, 63, 0), (0x20, 47, 0), (0x28, 63, 0)]
  | 0x30 => some [(8, 23, 0), (0xC, 31, 0), (0x10, 63, 0), (0x18, 23, 0), (0x1C, 15, 0), (0x20, 47, 0)]
  | 0x31 => some [(8, 9, 0), (0xC, 31, 0)]
  | 0x32 => some [(8, 47, 0), (0x10, 47, 0), (0x18, 47, 0)]
  | 0x40 => some [(8, 47, 0)]
  | 0x41 => some [(8, 25, 0)]
  | 0x50 => some [(8, 2, 0), (0xC, 31, 0)]
  | 0x51 => some [(8, 1, 0), (0xC, 13, 0), (0x10, 15, 0), (0x18, 47, 0), (0x20, 63, 0)]
  | 0x60 => some [(8, 7, 0), (0x10, 47, 0)]
  | 0x61 => some [(8, 7, 0)]
  | 0x70 => some [(8, 63, 0), (0x10, 63, 0), (0x18, 63, 0), (0x20, 63, 0), (0x28, 127, 0), (0x38, 63, 0)]
  | _ => none

/-- 13 R299, 00 R5: an opcode outside the table, or a reserved field that is not zero. A CRIT envelope's own reserved
fields are the security unit's to check (16 R356). -/
def badDescriptor (raw : Nat) : Bool :=
  match opFields (rf raw 0 7 0) with
  | none => true
  | some fs => !reservedZero raw (headFields ++ fs)

/-! ## Descriptors and completion records (13 R298, R314 to R316) -/

/-- A descriptor as a number. -/
def Job.n (j : Job) : Nat := j.raw.toNat
/-- opcode -/
def Job.op (j : Job) : Nat := rf j.n 0 7 0

/-- 13 R315: 0x10 to 0x40 and 0x50 to 0x60 are errors. -/
def isError (st : Nat) : Bool := (0x10 ≤ st && st ≤ 0x40) || (0x50 ≤ st && st ≤ 0x60)

/-- Status codes of 13 R315. -/
def stOk : Nat := 0x00
/-- OK_DEFERRED -/
def stDeferred : Nat := 0x01
/-- MEM_DEFERRED -/
def stMemDeferred : Nat := 0x02
/-- MISALIGN -/
def stMisalign : Nat := 0x10
/-- RANGE -/
def stRange : Nat := 0x11
/-- BAD_OPCODE -/
def stBad : Nat := 0x12
/-- BUS_ERROR -/
def stBus : Nat := 0x20
/-- ABORTED -/
def stAborted : Nat := 0x21
/-- COMPARE_MISMATCH -/
def stMismatch : Nat := 0x22
/-- AUTH_FAIL -/
def stAuth : Nat := 0x30
/-- COUNTER_STALE -/
def stStale : Nat := 0x31
/-- CTX_FAULT -/
def stFault : Nat := 0x40
/-- PREEMPTED -/
def stPreempted : Nat := 0x41
/-- PEER_LOST -/
def stPeerLost : Nat := 0x50
/-- SAFE_STATE -/
def stSafe : Nat := 0x60

/-- The lowest status of several checks: each gives a code where it fails (13 R315). -/
def worst (cs : List (Bool × Nat)) : Option Nat :=
  firstMin (· < ·) ((cs.filter (·.1)).map (·.2))

/-- The record of a descriptor (13 R314). -/
def recOf (u : UnitId) (j : Job) (st v0 v1 v2 : Nat) : Rec :=
  ⟨j.c, BitVec.ofNat 16 (rf j.n 0 31 16), BitVec.ofNat 8 j.op, BitVec.ofNat 8 st, BitVec.ofNat 64 v0,
    BitVec.ofNat 64 v1, BitVec.ofNat 32 v2, u⟩

/-- The descriptor of a record has completed: it leaves its unit, and the record waits to be written. -/
def closeRec (s : State) (c : CtxId) (r : Rec) : State :=
  modCtx s c fun x => { x with dealt := x.dealt.filter fun d => d.2.c != r.c, recs := x.recs ++ [r] }

/-- A descriptor completes. -/
def complete (s : State) (c : CtxId) (u : UnitId) (j : Job) (st v0 v1 v2 : Nat) : State :=
  closeRec s c (recOf u j st v0 v1 v2)

/-- Completion with an error: every value field is zero (13 R316). -/
def completeErr (s : State) (c : CtxId) (u : UnitId) (j : Job) (st : Nat) : State := complete s c u j st 0 0 0

/-- Fetch count `k` precedes that of a record. -/
def Rec.follows (r : Rec) (k : BitVec 32) : Bool := let d := (r.c - k).toNat; 1 ≤ d && d < 2 ^ 31

/-- 13 R314: a record's turn has come when every earlier descriptor of its unit has completed and has its record
written; one that waits for a step boundary is not counted (DEDUCED, notes/assumptions/29.md). A FENCE's record follows
every record that stood before it (R309). -/
def recTurn (x : Ctx) (r : Rec) : Bool :=
  !x.dealt.any (fun d => d.1 == r.unit && !d.2.boundary && r.follows d.2.c)
    && !x.recs.any (fun q => q.unit == r.unit && r.follows q.c)
    && (r.opcode != 0x50 || x.recs.head?.any fun q => q.c == r.c)

/-- The owner is a write of the tile of a context and epoch. -/
def MemOwner.tileOf : MemOwner → Option (CtxId × BitVec 16)
  | .slot c e _ => some (c, e)
  | .tile c e => some (c, e)
  | .out c e _ => some (c, e)
  | _ => none

/-- A write of a tile of the context that is no longer in flight, or a write that undoes one's records, has not
returned. -/
def staleWrites (s : State) (c : CtxId) : Bool :=
  memBusy s fun o => o == .undo c || match o.tileOf with
    | some (c', e) => c' == c && !s.tiles.any fun t => t.ctx == c && t.epoch == e && !t.dead
    | none => false

/-- The 32 bytes of a record (13 R314). -/
def recBytes (c : CtxId) (x : Ctx) (r : Rec) : List Byte :=
  leBytes 32 (pack [(0, 0, r.c.toNat), (4, 0, r.tag.toNat), (4, 16, r.opcode.toNat), (4, 24, r.status.toNat),
    (8, 0, r.v0.toNat), (0x10, 0, r.v1.toNat), (0x18, 0, r.v2.toNat), (0x1C, 0, c.val),
    (0x1C, 31, 1 - x.written.toNat / 2 ^ x.cqLog2.toNat % 2)])

/-- Where record number W lies (13 R292). -/
def recAddr (x : Ctx) : Nat := x.cqBase.toNat + 32 * (x.written.toNat % 2 ^ x.cqLog2.toNat)

/-- The first record that may be written, brought to the front, goes to the host bridge. -/
def pumpRec (s : State) (c : CtxId) : State :=
  let x := s.ctx c
  if x.recBusy || !s.live then s
  else
    match (indexed x.recs).find? fun p => recTurn x p.2 with
    | none => s
    | some (i, r) =>
      hostIssue (modCtx s c fun x => { x with recs := r :: x.recs.eraseIdx i, recBusy := true })
        (.record c) true (recAddr x) 32 (recBytes c x r)

/-- Every context's records. -/
def pumpRecs (s : State) : State := (fins 16).foldl pumpRec s

/-! ## Lookups -/

/-- The tile of a context and epoch. -/
def findTile (s : State) (c : CtxId) (e : BitVec 16) : Option Tile :=
  s.tiles.find? fun t => t.ctx == c && t.epoch == e && !t.dead

/-- `f` applied to the tile of a context and epoch. -/
def modTile (s : State) (c : CtxId) (e : BitVec 16) (f : Tile → Tile) : State :=
  { s with tiles := updFirst (fun t => t.ctx == c && t.epoch == e && !t.dead) f s.tiles }

/-- Tiles in flight of a context: those not abandoned. -/
def tilesOf (s : State) (c : CtxId) : List Tile := s.tiles.filter fun t => t.ctx == c && !t.dead

/-- The running or pre-empting context. -/
def State.running (s : State) : Option CtxId :=
  (fins 16).find? fun c => (s.ctx c).state == .running || (s.ctx c).state == .preempting

/-- Entry `n` names an engine. -/
def namesEngine (s : State) (chip : BitVec 16) (engine : Bool) (n : Fin 32) : Bool :=
  s.peers[n].chip == chip && s.peers[n].engine == engine

/-- 07 R150: the entry used for an engine is the first in entry order that names it. An entry whose configuration has
not been written since reset names none (DEDUCED, notes/assumptions/25.md). -/
def usedPeer (s : State) (chip : BitVec 16) (engine : Bool) : Option (Fin 32) :=
  (fins 32).find? fun n => s.peers[n].named && namesEngine s chip engine n

/-- `f` applied to the entry that keeps an engine's state. -/
def modPeer (s : State) (chip : BitVec 16) (engine : Bool) (f : Peer → Peer) : State :=
  match usedPeer s chip engine with
  | some n => { s with peers := vmod s.peers n f }
  | none => s

/-- The slices that take part: those not fused and not disabled (02 R48). -/
def sliceOn (s : State) (i : SliceId) : Bool :=
  !bvBit s.fuse.sliceFused i.val && !bvBit s.fuse.disabledMap i.val

/-- The enabled slices, ascending. -/
def enabledSlices (s : State) : List SliceId := (fins 8).filter (sliceOn s)

/-- The three kinds of unit that fill a beat without an operand (03 R77). -/
inductive UnitKind where
  | frond | sketch | sfu
  deriving DecidableEq, Repr

/-- Where the units of a kind of slice `l` stand in `Power.lastOperand`. -/
def unitNo (k : UnitKind) (l : SliceId) : Fin 24 :=
  Fin.ofNat 24 (l.val + match k with | .frond => 0 | .sketch => 8 | .sfu => 16)

/-- The last operand of the units of a kind of these slices comes now (17 R377). -/
def operandNow (s : State) (k : UnitKind) (ls : List SliceId) : State :=
  { s with power := { s.power with
    lastOperand := ls.foldl (fun v l => vmod v (unitNo k l) fun _ => s.tick) s.power.lastOperand } }

/-- 06 R128: the port's core is present and has not failed (15 R343). -/
def portPresent (s : State) (p : PortId) : Bool := bvBit s.fuse.corePresent p.val && !bvBit s.coreFail p.val

/-- The ports of a mask whose core is present, ascending. -/
def coresOf (s : State) (mask : BitVec 80) : List PortId :=
  (fins 80).filter fun p => bvBit mask p.val && portPresent s p

/-- A choice of the packet whose result has not returned counts in pending_choices (06 R144). -/
def pendingOf (q : CoreQ) : Nat :=
  min (sumNat (q.packets.map fun p => p.choices - p.returned)) (2 ^ 24 - 1)

/-- pending_choices of a port: the choices of its queue's packets, and of the bins dealt to it (06 R137). -/
def pendingAt (s : State) (p : PortId) : Nat :=
  min (pendingOf s.queues[p] + sumNat (s.tiles.map fun t =>
    sumNat ((t.writers.filter fun w => w.1 == p).map fun w => w.2.choices))) (2 ^ 24 - 1)

/-! ## Basol sending (07 R155 to R157) -/

/-- A key for an engine of a chip. -/
def engKey (chip : BitVec 16) (engine : Bool) : Nat := 2 * chip.toNat + b2n engine

/-- The port that carries traffic to an engine (07 R155). An engine whose entry is not enabled is no spill set peer: its
chip id gives the port (DESIGN CHOICE, notes/assumptions/25.md). -/
def portTo (s : State) (chip : BitVec 16) (engine : Bool) : Fin 8 :=
  match (usedPeer s chip engine).filter fun n => s.peers[n].enable with
  | some n => s.peers[n].port
  | none => Fin.ofNat 8 chip.toNat

/-- The stream to an engine is the one meant. -/
def isTx (chip : BitVec 16) (engine : Bool) (t : TxStream) : Bool := t.chip == chip && t.engine == engine

/-- The stream to an engine. -/
def findTx (s : State) (chip : BitVec 16) (engine : Bool) : Option TxStream := s.tx.find? (isTx chip engine)

/-- The entry of an engine is DEGRADED, LOST or REFUSED: no stream to it begins until its enable is written 1 (07
R161). -/
def lostPeer (s : State) (chip : BitVec 16) (engine : Bool) : Bool :=
  (usedPeer s chip engine).any fun n =>
    s.peers[n].state == .degraded || s.peers[n].state == .lost || s.peers[n].state == .refused

/-- The destination's stream has ended: degraded, lost or refused. Outside READY and RUN the engine holds no stream at
all (07 R165). -/
def destLost (s : State) (chip : BitVec 16) (engine : Bool) : Bool :=
  !s.up || match findTx s chip engine with | some t => t.ended | none => lostPeer s chip engine

/-- `f` applied to the stream to an engine. -/
def modTx (s : State) (chip : BitVec 16) (engine : Bool) (f : TxStream → TxStream) : State :=
  { s with tx := updFirst (isTx chip engine) f s.tx }

/-- A stream that begins: block_seq 0, 24 general and 8 reserved credits (07 R160). -/
def newTx (s : State) (chip : BitVec 16) (engine : Bool) : TxStream :=
  ⟨chip, engine, portTo s chip engine, (lookup (engKey chip engine) s.txGen).getD 0, 0, 24, 8, none, [], [], [],
    s.tick, s.tick, false, false⟩

/-- A message is given to the stream to its destination, which begins if the engine keeps fewer than 128 (07 R156); on
a stream that has ended, and outside READY and RUN (R165), it is lost. -/
def sendMsg (s : State) (chip : BitVec 16) (engine : Bool) (m : TxMsg) : State :=
  if destLost s chip engine then s else
  match findTx s chip engine with
  | some _ => modTx s chip engine fun t => { t with queue := t.queue ++ [m] }
  | none =>
    if s.tx.length < 128 then { s with tx := s.tx ++ [{ newTx s chip engine with queue := [m] }] }
    else { s with txWait := s.txWait ++ [(chip, engine, m)] }

/-- The owners of a stream's messages that are begun and not acknowledged whole, or not begun. -/
def txOwners (t : TxStream) : List MsgOwner :=
  t.queue.map (·.owner) ++ (match t.cur with | some m => [m.1.owner] | none => []) ++ t.unacked.map (·.owner)

/-- Some message whose owner meets `p` has not been sent and acknowledged whole. -/
def sending (s : State) (p : MsgOwner → Bool) : Bool :=
  (s.tx.any fun t => !t.ended && (txOwners t).any p) || s.txWait.any fun w => p w.2.2.owner

/-- Some message whose owner meets `p` has been begun and not acknowledged whole, on a stream that has not ended. -/
def begun (s : State) (p : MsgOwner → Bool) : Bool :=
  s.tx.any fun t => !t.ended && (((match t.cur with | some m => [m.1.owner] | none => [])
    ++ t.unacked.map (·.owner)).any p)

/-- The spore belongs to a tile. -/
def isSporeOf (c : CtxId) (e : BitVec 16) : MsgOwner → Bool
  | .spore c' e' _ => c' == c && e' == e
  | _ => false

/-! ## Packets of a tile (06 R143) -/

/-- The packet holds work of a tile of this engine. -/
def isPktOf (c : CtxId) (e : BitVec 16) (p : Packet) : Bool := !p.spore && p.ctx.toNat == c.val && p.epoch == e

/-- `f` applied to every queue. -/
def mapQueues (s : State) (f : CoreQ → CoreQ) : State := { s with queues := vmap f s.queues }

/-- The ABORT word of a packet (15 R340). -/
def abortWord (e : BitVec 16) : BitVec 128 := BitVec.ofNat 128 (5 + e.toNat <<< 32)

/-- The unit of a feed is a flit. -/
def FeedUnit.isFlit : FeedUnit → Bool
  | .flit _ _ => true
  | .item _ => false

/-- 06 R143: what becomes of a packet that is removed: COMMITTED goes; FEEDING ends after the token row in progress
with the abort mark; AWAITING stays. -/
def abortPkt (p : Packet) : Option Packet :=
  match p.state with
  | .committed => none
  | .feeding => if p.aborted then some p else
    some { p with feed := p.feed.takeWhile FeedUnit.isFlit ++ [.item (abortWord p.epoch)], aborted := true }
  | .awaiting => some p

/-- The packets that meet `p` are removed by R143. -/
def abortPackets (s : State) (p : Packet → Bool) : State :=
  mapQueues s fun q => { q with packets := q.packets.filterMap fun k => if p k then abortPkt k else some k }

/-! ## Abandoning and withdrawing tiles (07 R166, 12 R279) -/

/-- Status 0 or 2: counted in the compact index (08 R187). -/
def Tok.kept (k : Tok) : Bool := k.status == some .routed || k.status == some .invalid

/-- The number of tokens that meet `p`. -/
def tokCount (t : Tile) (p : Tok → Bool) : Nat := (t.toks.filter p).length

/-- Descriptor progress falls back to the oldest tile that did not commit (12 R281); `kept` lists the tiles that stay in
flight. -/
def rewindTp (pre : Bool) (kept : List Tile) (hit : BitVec 32 → Bool) (j : TpJob) : TpJob :=
  if hit j.c then
    let ts := kept.filter (·.c == j.c)
    { j with
      nextTile := j.committed + ts.length
      nextPos := ts.foldl (fun _ t => t.tau0 + t.n) j.committedPos
      compact := j.written + sumNat (ts.map fun t => tokCount t Tok.kept)
      preempted := j.preempted || pre }
  else j

/-- The bank of a tile is released. -/
def freeBank (s : State) (t : Tile) : State :=
  match t.bank with
  | some b => { s with banks := s.banks.set b { s.banks[b] with busy := false } }
  | none => s

/-- A read made for the tile of a context and epoch. -/
def MemOwner.readOf (c : CtxId) (e : BitVec 16) : MemOwner → Bool
  | .stage c' e' _ => c' == c && e' == e
  | .sel c' e' _ => c' == c && e' == e
  | .set c' e' => c' == c && e' == e
  | .comb c' e' _ => c' == c && e' == e
  | _ => false

/-- The reads of a tile are given up, its frames are free, and the results and records that it has not issued are
dropped. -/
def dropWaiting (s : State) (c : CtxId) (e : BitVec 16) : State :=
  let s1 := killReads s (MemOwner.readOf c e)
  { s1 with
    memWait := s1.memWait.filter fun r => r.owner.tileOf != some (c, e)
    frames := s1.frames.filter fun f => !(f.ctx == c && f.epoch == e) }

/-- The result of slot `i` of a tile has been accepted: its row stands in the results buffer or is being written. -/
def resultIn (s : State) (t : Tile) (i : Nat) : Bool :=
  t.fill.getD i false || s.rowHolds.any fun h => h.ctx == t.ctx && h.epoch == t.epoch && h.index == i

/-- Results outstanding at a peer for a tile's spilled slots leave the peer's count. -/
def dropOutstanding (s : State) (t : Tile) : State :=
  t.spilled.foldl (fun s (i, chip, eng) =>
    if resultIn s t i then s
    else modPeer s chip eng fun p => { p with outstanding := p.outstanding - 1 }) s

/-- The ticks that a tile's scoring has waited on a miss fetch are counted (10 R251). -/
def missTicks (s : State) (t : Tile) : State := if t.fetching then teleCtx s t.ctx 32 (s.since t.missTick) else s

/-- A tile is withdrawn: it releases its half and its bank at once and leaves no trace (12 R279). -/
def withdrawTile (s : State) (t : Tile) : State :=
  let s1 := dropWaiting (freeBank (missTicks s t) t) t.ctx t.epoch
  let s2 := { s1 with tiles := s1.tiles.filter fun x => !(x.ctx == t.ctx && x.epoch == t.epoch) }
  acctAdd (modCtx s2 t.ctx fun x => { x with tp := x.tp.map (rewindTp true (tilesOf s2 t.ctx) (· == t.c)) }) t.ctx 4 1

/-- No part of the record at `p` of a tile's commit has been issued. -/
def unissued (s : State) (t : Tile) (p : Nat × List Byte) : Bool :=
  s.memWait.any fun r => r.owner == .tile t.ctx t.epoch && r.addr == p.1 && r.len == p.2.length

/-- The records of a commit that does not end are as they were: those of which a write has been issued get back what they
held, and the others have not been touched (05 R119) (DEDUCED, notes/assumptions/27.md). -/
def undoRecords (s : State) (t : Tile) : State :=
  (t.undo.filter fun p => !unissued s t p).foldl (fun s p => writeMem s (.undo t.ctx) p.1 p.2 3 (some t.ctx))
    (dropWaiting s t.ctx t.epoch)

/-- One tile is abandoned: its packets end, its spores not begun are not sent, and it leaves none of its records; it
keeps its half and bank until R10 lets them go. -/
def abandonTile (s : State) (t : Tile) : State :=
  let s1 := abortPackets (undoRecords (missTicks s t) t) (isPktOf t.ctx t.epoch)
  let s2 := { s1 with
    tx := s1.tx.map fun x => { x with queue := x.queue.filter fun m => !isSporeOf t.ctx t.epoch m.owner }
    txWait := s1.txWait.filter fun w => !isSporeOf t.ctx t.epoch w.2.2.owner
    tiles := s1.tiles.map fun x =>
      if x.ctx == t.ctx && x.epoch == t.epoch then { x with dead := true, writers := [], later := [] } else x }
  acctAdd (dropOutstanding s2 t) t.ctx 4 1

/-- The 64 bytes of an ABANDON message (07 R166). -/
def abandonBytes (s : State) (c : CtxId) (floor : BitVec 16) : List Byte :=
  leBytes 64 (pack [(0, 0, s.fuse.chipId.toNat), (0, 16, c.val), (0, 21, b2n s.fuse.engineId), (4, 0, floor.toNat)])

/-- The peers that received a spore of a tile: those whose spores were built and are not all unsent. -/
def reached (s : State) (t : Tile) : List (BitVec 16 × Bool) :=
  let ps := (t.spilled.map (·.2)).eraseDups
  ps.filter fun p =>
    let built := ((t.spilled.filter fun x => x.2 == p).map fun x => x.1 / t.k).eraseDups.length
    let unsent := (s.tx.filter (isTx p.1 p.2)).foldl
      (fun n x => n + (x.queue.filter fun m => isSporeOf t.ctx t.epoch m.owner).length) 0
    let wait := (s.txWait.filter fun w => w.1 == p.1 && w.2.1 == p.2 && isSporeOf t.ctx t.epoch w.2.2.owner).length
    unsent + wait < built

/-- 07 R166: every tile of a context in flight is abandoned, and each peer that received a spore of them gets the floor.
`pre`: under pre-emption; `drain`: for a drain (DEDUCED, notes/assumptions/33.md). -/
def abandonFor (s : State) (c : CtxId) (pre drain : Bool) : State :=
  let ts := tilesOf s c
  let peers := ((ts.map (reached s)).flatten).eraseDups
  let s1 := ts.foldl abandonTile (killReads s (· == .prep c))
  let s2 := modCtx s1 c fun x => { x with
    tp := x.tp.map (rewindTp pre [] fun k => ts.any (·.c == k)) }
  let floor := (s2.ctx c).epoch
  peers.foldl (fun s p => sendMsg s p.1 p.2 ⟨3, .abandon c drain, abandonBytes s c floor⟩) s2

/-- Every tile of a context in flight is abandoned, outside a drain. -/
def abandonAll (s : State) (c : CtxId) (pre : Bool) : State := abandonFor s c pre false

/-- The tile's FEEDING packets have ended, and its begun spores are acknowledged or their stream has ended. -/
def quietTile (s : State) (t : Tile) : Bool :=
  !begun s (isSporeOf t.ctx t.epoch)
  && !(s.queues.toList.any fun q => q.packets.any fun p => isPktOf t.ctx t.epoch p && p.state == .feeding)

/-- The older tiles of the tile's context that run to commit, or have committed: an abandoned tile is none of them. -/
def olderTiles (s : State) (t : Tile) : List Tile :=
  s.tiles.takeWhile (fun x => !(x.ctx == t.ctx && x.epoch == t.epoch)) |>.filter fun x =>
    x.ctx == t.ctx && (!x.dead || x.committed)

/-- 01 R10: an abandoned tile releases its half and bank together once it is quiet; a committed one releases its half
then, after the older ones. -/
def reapable (s : State) (t : Tile) : Bool :=
  t.dead && quietTile s t
  && (!t.committed || (olderTiles s t).all fun x => !x.halfHeld || (x.dead && quietTile s x))

/-- Abandoned tiles whose time has come are gone. -/
def reap (s : State) : State :=
  let gone := s.tiles.filter (reapable s)
  let s1 := gone.foldl freeBank s
  { s1 with tiles := s.tiles.filter fun t => !reapable s t }

/-- The tile waits on a remote chip: a spore not acknowledged, or a spilled choice whose result has not been accepted
(07 R171, 12 R279). -/
def waitsRemote (s : State) (t : Tile) : Bool :=
  sending s (isSporeOf t.ctx t.epoch) || t.spilled.any fun x => !resultIn s t x.1

/-- The tile waits on one engine. -/
def waitsOn (s : State) (chip : BitVec 16) (engine : Bool) (t : Tile) : Bool :=
  !t.dead && ((t.spilled.any fun x => x.2.1 == chip && x.2.2 == engine && !resultIn s t x.1)
    || ((s.tx.filter (isTx chip engine)).any fun x => (txOwners x).any (isSporeOf t.ctx t.epoch)))

/-! ## The save record (12 R281, R282) -/

/-- The descriptor in progress: the oldest that is checked or begun. -/
def inProgress (x : Ctx) : Option TpJob := x.tp.find? fun j => j.checked

/-- The status accumulated by a descriptor (12 R281). -/
def accStatus (j : TpJob) : Nat := if j.preempted then stPreempted else if j.deferred then stDeferred else stOk

/-- The 256 bytes of the record. -/
def saveBytes (c : CtxId) (x : Ctx) : List Byte :=
  let base := [(0, 0, x.step.toNat), (8, 0, x.epoch.toNat), (8, 16, c.val), (8, 20, b2n x.lc), (8, 21, b2n x.det),
    (8, 22, b2n x.pace), (0xC, 0, x.saves.toNat), (0x10, 0, x.fetched.toNat % 2 ^ x.sqLog2.toNat)]
  let prog := match inProgress x with
    | none => []
    | some j => [(0x10, 16, 1), (0x14, 0, j.c.toNat % 2 ^ x.sqLog2.toNat), (0x18, 0, j.committed),
        (0x1C, 0, j.committedPos), (0x20, 0, j.written), (0x24, 0, j.courses), (0x28, 0, accStatus j)]
  leBytes 256 (pack (base ++ prog))

/-- The record is written (rank 2, no regulator). -/
def writeSave (s : State) (c : CtxId) : State :=
  let s1 := modCtx s c fun x => { x with saves := x.saves + 1, saveValid := (inProgress x).isSome, resumed := false }
  let x := s1.ctx c
  writeMem s1 (.saveWrite c x.saves) x.save.toNat (saveBytes c x) 2 none

/-! ## The commit of a tile (08 R194, 05 R119, R120) -/

/-- `f` applied to a context's job with a fetch count. -/
def modTp (s : State) (c : CtxId) (k : BitVec 32) (f : TpJob → TpJob) : State :=
  modCtx s c fun x => { x with tp := updFirst (fun j => j.c == k) f x.tp }

/-- The bank a tile holds. -/
def tileBank (s : State) (t : Tile) : Option Bank := t.bank.map fun b => s.banks[b]

/-- The Route Table entry of a slot. -/
def tileEntry (s : State) (t : Tile) (i : Nat) : RtEntry := ((tileBank s t).bind fun b => lookup i b.entries).getD 0

/-- A layer before its first contribution. -/
def freshStat (t : Tile) : LayerStat :=
  let e := hE (leNat t.hdr)
  ⟨t.model, t.layer, List.replicate e 0, List.replicate e zeroF, 0, 0, 0, 0⟩

/-- A tile's contribution, its choices in ascending index. -/
def addStat (s : State) (t : Tile) (l : LayerStat) : LayerStat :=
  let es := ((tabulate (t.n * t.k) fun x => tileEntry s t x).filter rtValid)
  { l with
    counts := es.foldl (fun cs r => updAt (rtExpert r) (· + 1) cs) l.counts
    gates := es.foldl (fun gs r => updAt (rtExpert r) (fun g => addF g (rtGate r)) gs) l.gates
    routed := l.routed + tokCount t fun k => k.status == some .routed
    exited := l.exited + tokCount t fun k => k.status == some .exited
    held := l.held + tokCount t (·.held)
    invalid := l.invalid + tokCount t fun k => k.status == some .invalid }

/-- The tile's contribution to the step's statistics; a replay makes none. -/
def contribute (s : State) (t : Tile) : State :=
  let h := leNat t.hdr
  if t.kind != .route || t.replay || !(hAdapt h || hStats h) then s
  else
    let same := fun (l : LayerStat) => l.model == t.model && l.layer == t.layer
    let put := fun (ls : List LayerStat) =>
      if ls.any same then updFirst same (addStat s t) ls else ls ++ [addStat s t (freshStat t)]
    modCtx s t.ctx fun x => { x with stats := put x.stats }

/-- The job's totals after a tile's commit. -/
def commitJob (t : Tile) (j : TpJob) : TpJob :=
  { j with
    committed := j.committed + 1
    committedPos := t.tau0 + t.n
    written := j.written + tokCount t Tok.kept
    exited := j.exited + tokCount t fun k => k.status == some .exited
    courses := j.courses + t.coursesRun
    deferred := j.deferred || t.coursesRun != 0 }

/-- The committed tile goes; one whose spores are not all acknowledged, or which an older tile precedes that holds its
half, keeps its half until then (01 R10). -/
def dropTile (s : State) (t : Tile) : State :=
  let s1 := freeBank s t
  if t.halfHeld && (sending s (isSporeOf t.ctx t.epoch) || (olderTiles s t).any (·.halfHeld)) then
    modTile s1 t.ctx t.epoch fun t => { t with bank := none, dead := true, committed := true }
  else { s1 with tiles := s1.tiles.filter fun x => !(x.ctx == t.ctx && x.epoch == t.epoch) }

/-- A tile commits: its part of the statistics counts, its job's totals grow, and it goes. -/
def commitTile (s : State) (t : Tile) : State :=
  dropTile (modTp (acctAdd (contribute s t) t.ctx 3 1) t.ctx t.c (commitJob t)) t

/-! ## Draining and faulting a context (12 R283, R285) -/

/-- The lower of a status and one that stands already (13 R315). -/
def lowerSt (old : Option (BitVec 8)) (st : Nat) : Option (BitVec 8) :=
  some (match old with | some o => BitVec.ofNat 8 (min o.toNat st) | none => BitVec.ofNat 8 st)

/-- A mover descriptor in progress stops; one that has met a strict access outside a tensor keeps its own status
(09 R209). -/
def stopRun (r : MoverRun) : MoverRun :=
  { r with failed := if r.failed == some (BitVec.ofNat 8 stFault) then r.failed else lowerSt r.failed stAborted }

/-- Remove a context's work from the gather channels: queued movers complete with ABORTED, a running one stops after
its row. -/
def stopMovers (s : State) (c : CtxId) : State :=
  { s with gather := vmap (fun g => { g with
      queue := g.queue.filter fun q => q.1 != c || (match g.run with | some r => r.ctx == c && r.c == q.2.1 | none => false)
      run := g.run.map fun r => if r.ctx == c then stopRun r else r }) s.gather }

/-- A context's descriptor in the shadow set of a DMA channel, as a descriptor (14 R328). -/
def dmaHas (d : DmaSet) (valid : Bool) (c : CtxId) : Bool := valid && d.ctx.toNat == c.val

/-- The descriptor of a register set. -/
def dmaJob (s : State) (d : DmaSet) : Option (CtxId × Job) :=
  let c : CtxId := Fin.ofNat 16 d.ctx.toNat
  ((s.ctx c).dealt.find? fun p => p.2.c == d.c).map fun p => (c, p.2)

/-- Completion of the descriptor of a register set, with its values; last_status and last_ctx follow (14). -/
def dmaEnd (s : State) (ch : ChanId) (d : DmaSet) (st v0 v1 : Nat) : State :=
  let s1 := match dmaJob s d with
    | some (c, j) => complete s c (.dma ch) j st v0 v1 0
    | none => s
  { s1 with dma := vmod s1.dma ch fun x => { x with lastStatus := BitVec.ofNat 8 st, lastCtx := d.ctx } }

/-- 14 R327: an abort of the active descriptor begins. -/
def dmaAbort (s : State) (ch : ChanId) : State :=
  { s with dma := vmod s.dma ch fun x => if x.activeValid then { x with aborting := true } else x }

/-- 14 R327, R328: drain or fault of a context at every channel. -/
def stopDma (s : State) (c : CtxId) : State :=
  (fins 16).foldl (fun s ch =>
    let x := s.dma[ch]
    let s1 := if dmaHas x.shadow x.shadowValid c then
        dmaEnd { s with dma := vmod s.dma ch fun x => { x with shadowValid := false } } ch x.shadow stAborted
          x.shadow.len.toNat 0
      else s
    if dmaHas x.active x.activeValid c then dmaAbort s1 ch else s1) s

/-- The descriptors of a context that wait in shadow sets: they are not in progress (14 R318, 12 R283 step 5). -/
def shadowed (s : State) (c : CtxId) : List (BitVec 32) :=
  (s.dma.toList.filter fun x => dmaHas x.shadow x.shadowValid c).map fun x => x.shadow.c

/-- The security unit has begun the CRIT descriptor that holds the context (16 R357). -/
def critBegun (s : State) (c : CtxId) : Bool := !s.sec.order.contains (.ring c)

/-- Step 4 of 12 R283: a STEP_BUILD or MODEL_LOAD in progress, a CRIT begun, and SEQ_JOIN and SEQ_LEAVE at a boundary, go
on. -/
def drainStep4 (s : State) (u : UnitId) (c : CtxId) (j : Job) : Bool :=
  j.boundary ||
  match u with
  | .stepBuilder => true
  | .hotSet => j.op == 0x40 && (s.hotq.head?.any fun h => h.ctx == c && h.c == j.c)
  | .security => critBegun s c
  | _ => false

/-- What step 5 of 12 R283 does not complete: the descriptors of step 4, and the DMA descriptors and the mover
descriptors in progress, which end by step 3. -/
def drainKeeps (s : State) (u : UnitId) (c : CtxId) (j : Job) : Bool :=
  drainStep4 s u c j ||
  match u with
  | .dma _ => true
  | .gather ch => match s.gather[ch].run with | some r => r.ctx == c && r.c == j.c | none => false
  | _ => false

/-- Every tile of the descriptor has committed: for TILE_ROUTE the positions run to its count, for the other two the
logs do. -/
def TpJob.allCommitted (t : TpJob) : Bool :=
  t.count != 0 && (if rf t.raw.toNat 0 7 0 == 1 then t.count ≤ t.committedPos else t.count ≤ t.committed)

/-- A tile of the descriptor is still to be staged. -/
def TpJob.more (t : TpJob) : Bool :=
  t.checked && (if rf t.raw.toNat 0 7 0 == 1 then t.nextPos < t.count else t.nextTile < t.count)

/-- A read that the checks of a descriptor, or the table unit, make for a context. -/
def MemOwner.jobOf (c : CtxId) : MemOwner → Bool
  | .check c' _ => c' == c
  | .prep c' => c' == c
  | .table c' => c' == c
  | .wait c' => c' == c
  | _ => false

/-- A tile-path descriptor always fills its values (13 R316). It completes when every write of its tiles has returned (R309,
R314). -/
def completeTp (s : State) (c : CtxId) (j : Job) (t : TpJob) (st : Nat) : State :=
  let last := if t.allCommitted then 2 ^ 32 - 1 else t.committed
  let r := recOf .tilePath j st (t.committed + t.courses <<< 32) (t.written + t.exited <<< 32) last
  if staleWrites s c then modCtx s c fun x => { x with ending := x.ending ++ [r] } else closeRec s c r

/-- The tile-path descriptors of a context that waited for writes complete once none is left. -/
def endTps (s : State) (c : CtxId) : State :=
  if (s.ctx c).ending.isEmpty || staleWrites s c then s
  else (s.ctx c).ending.foldl (fun s r => closeRec s c r) (modCtx s c fun x => { x with ending := [] })

/-- One descriptor of step 5 completes with `st`; a DMA descriptor that has moved nothing has its whole length left (13
R316, 14 R330). -/
def abortJob (st : Nat) (c : CtxId) (s : State) (uj : UnitId × Job) : State :=
  match uj.1, (s.ctx c).tp.find? fun t => t.c == uj.2.c with
  | .tilePath, some t => completeTp s c uj.2 t st
  | .dma ch, _ => complete s c (.dma ch) uj.2 st (if st == stAborted then rf uj.2.n 0x20 47 0 else 0) 0 0
  | u, _ => completeErr s c u uj.2 st

/-- A reserved field is not zero, or the opcode is outside the table: the descriptor ends with BAD_OPCODE, also where
something else ends it, since the lowest code stands (13 R299, R315). -/
def endingSt (st : Nat) (j : Job) : Nat := if badDescriptor j.n then min stBad st else st

/-- A drain ends a tile-path descriptor that waits for its tiles' writes: an error that it has met stands where its code
is lower (13 R315). -/
def drainRec (r : Rec) : Rec :=
  { r with status := if isError r.status.toNat then BitVec.ofNat 8 (min r.status.toNat stAborted) else BitVec.ofNat 8 stAborted }

/-- The unit of an opcode, for the records of descriptors that were never dealt. -/
def unitOf (j : Job) : UnitId :=
  match j.op with
  | 0x01 => .tilePath | 0x02 => .tilePath | 0x03 => .tilePath
  | 0x10 => .gather (Fin.ofNat 16 (rf j.n 8 19 16)) | 0x11 => .gather (Fin.ofNat 16 (rf j.n 8 19 16))
  | 0x12 => .gather (Fin.ofNat 16 (rf j.n 8 19 16)) | 0x13 => .gather (Fin.ofNat 16 (rf j.n 8 19 16))
  | 0x14 => .gather (Fin.ofNat 16 (rf j.n 8 19 16))
  | 0x20 => .dma (Fin.ofNat 16 (rf j.n 8 3 0))
  | 0x30 => .table | 0x31 => .table | 0x60 => .table | 0x61 => .table
  | 0x32 => .stepBuilder
  | 0x40 => .hotSet | 0x41 => .hotSet
  | 0x70 => .security
  | _ => .walker

/-- opcode of a mover descriptor (13 R305) -/
def mvOp (r : BitVec 512) : Nat := rf r.toNat 0 7 0
/-- src_tdesc -/
def mvSrc (r : BitVec 512) : Nat := rf r.toNat 8 7 0
/-- need_en -/
def mvNeed (r : BitVec 512) : Bool := rb r.toNat 8 23

/-- 11 R258: the descriptor is an unsynchronised block read of `src`. -/
def unsynchronised (r : BitVec 512) (src : TDesc) : Bool :=
  src.dist && !mvNeed r && (mvOp r == 0x10 || mvOp r == 0x11 || mvOp r == 0x13 || mvOp r == 0x14)

/-- A fetched descriptor counts as an unsynchronised block read, with DET clear (11 R256 kind 6, R258); one that R299 ends
has no such effect. -/
def countFree (c : CtxId) (s : State) (j : Job) : State :=
  let x := s.ctx c
  tdcEvent s 6
    (b2n (!x.det && !badDescriptor j.n && (lookup (mvSrc j.raw) x.tensors).any (unsynchronised j.raw))) (some c)

/-- Steps 1 to 5 of 12 R283; the descriptor `only`, if any, ends with `st`, the others with ABORTED. What the security
unit or the step builder holds its context for goes on. -/
def drainSteps (s : State) (c : CtxId) (only : Option (BitVec 32)) (st : Nat) : State :=
  let x0 := s.ctx c
  let s1 := abandonFor (x0.walker.foldl (countFree c) s) c false true
  let fails := (s1.ctx c).ending.map (·.c)
  let ends := ((s1.ctx c).dealt.filter fun d => !drainKeeps s1 d.1 c d.2 && !fails.contains d.2.c)
    ++ (x0.walker.map fun j => (unitOf j, j))
  let s2 := modCtx (stopDma (stopMovers (killReads s1 (MemOwner.jobOf c)) c) c) c fun x => { x with
    ending := x.ending.map drainRec }
  let s3 := ends.foldl (fun s uj =>
    abortJob (endingSt (if only == some uj.2.c then st else stAborted) uj.2) c s uj) s2
  let keep := (s3.hotq.head?.map fun h => if h.ctx == c && rf h.raw.toNat 0 7 0 == 0x40 then [h] else []).getD []
  let rest := s3.hotq.filter fun h => h.ctx != c
  modCtx { s3 with
    hotq := if keep.isEmpty then rest else keep ++ rest
    sec := { s3.sec with order := s3.sec.order.filter (· != .ring c) } } c fun x => { x with
      walker := [], tp := [], fetching := none, fetchFailed := false, saveValid := false
      hold := x.hold.filter fun h => (h == .crit && critBegun s c) || h == .step
      drainRecs := x.drainRecs ++ fails ++ shadowed s c ++ ends.map (·.2.c)
      tensors := x.tensors.map fun (i, t) => (i, { t with dying := none })
      drainBusy := true, enabled := false, enablePending := false }

/-- 12 R281: a context that left RUNNING or PREEMPTING has its save record written. -/
def saveIf (left : Bool) (s : State) (c : CtxId) : State := if left then writeSave s c else s

/-- The context owns the tile path. -/
def owns (x : Ctx) : Bool := x.state == .running || x.state == .preempting

/-- enable written 0: a drain begins (12 R283). -/
def drainCtx (s : State) (c : CtxId) : State :=
  saveIf (owns (s.ctx c)) (modCtx (drainSteps s c none stAborted) c fun x => { x with state := .draining }) c

/-- 12 R285: a fault moves the context to FAULTED and tears it down. -/
def faultCtx (s : State) (c : CtxId) (st : Nat) (only : Option (BitVec 32)) : State :=
  let x := s.ctx c
  if x.state == .free || x.state == .faulted then s
  else
    saveIf (owns x) (modCtx (drainSteps s c only st) c fun x => { x with
      state := .faulted, faultStatus := BitVec.ofNat 8 st }) c

/-- The tile has begun stage 6 of 01 R9, or, for a TILE_COMBINE, combine (12 R279, 08 R196). -/
def Tile.stage6 (t : Tile) : Bool :=
  if t.kind == .combine then t.toks.any fun k => k.mixing || k.combined else t.bucketed

/-- A pre-emption ends the running context's claim on the tile path (12 R279). -/
def preempt (s : State) (c : CtxId) : State :=
  let s1 := acctAdd (modCtx { s with sched := { s.sched with preemptSince := s.tick, limitInForce := s.sched.limit } } c
    fun x => { x with state := .preempting, leaving := none }) c 2 1
  if (tilesOf s1 c).any (waitsRemote s1) then abandonAll s1 c true
  else ((tilesOf s1 c).filter fun t => !t.stage6).foldl withdrawTile (killReads s1 (· == .prep c))

end Sys2Proof.Machine
end

