-- ==== Sys2Proof/Machine/Operands.lean ====
section
/-!
DEFINITION. Every operand form: the field lists of the combine block (13 R303), of the tensor record
(09 R201), of the envelope and the command bodies (16 R354, R361), of the Owner Table entry (07 R174); tensors as rows
and addresses (09 R201 to R205, R212), windows, overlaps and aliases (08 R189, 09 R202, R223).
-/
namespace Sys2Proof.Machine

/-! ## Fields of the tile-path descriptors and their combine block (13 R301, R303) -/

/-- The fields of the combine block (13 R303). -/
def cblkFields : List (Nat × Nat × Nat) :=
  [(0, 47, 0), (8, 13, 0), (0xC, 23, 0), (0x10, 15, 0), (0x14, 31, 0), (0x18, 31, 0), (0x20, 47, 0), (0x28, 47, 0),
   (0x30, 47, 0), (0x38, 31, 0), (0x40, 47, 0), (0x48, 47, 0)]

/-- A structure of one tile-path descriptor with its combine block. -/
structure TpOps where
  /-- the descriptor -/
  r : Nat
  /-- the combine block -/
  b : Nat
  deriving DecidableEq, Repr

/-- The operands of a tile-path job. -/
def TpJob.ops (j : TpJob) : TpOps := ⟨j.raw.toNat, j.cblk.toNat⟩

/-- opcode -/
def tpOp (o : TpOps) : Nat := rf o.r 0 7 0
/-- count -/
def tpCount (o : TpOps) : Nat := rf o.r 8 31 0
/-- model_id -/
def tpModel (o : TpOps) : Nat := rf o.r 0xC 15 0
/-- layer -/
def tpLayer (o : TpOps) : Nat := rf o.r 0xC 23 16
/-- in_tdesc -/
def tpIn (o : TpOps) : Nat := rf o.r 0xC 31 24
/-- seq -/
def tpSeq (o : TpOps) : Nat := rf o.r 0x10 9 0
/-- hold_index -/
def tpHold (o : TpOps) : Nat := rf o.r 0x10 17 10
/-- rng_step_en -/
def tpReplay (o : TpOps) : Bool := rb o.r 0x10 18
/-- publish_en -/
def tpPublish (o : TpOps) : Bool := rb o.r 0x10 19
/-- seq_uid -/
def tpUid (o : TpOps) : Nat := rf o.r 0x14 31 0
/-- pos_base -/
def tpPosBase (o : TpOps) : Nat := rf o.r 0x18 31 0
/-- publish_epoch -/
def tpPubEpoch (o : TpOps) : Nat := rf o.r 0x1C 15 0
/-- mask_addr -/
def tpMask (o : TpOps) : Nat := rf o.r 0x20 47 0
/-- cblk_addr -/
def tpCblk (o : TpOps) : Nat := rf o.r 0x28 47 0
/-- rng_step -/
def tpRngStep (o : TpOps) : Nat := rf o.r 0x30 63 0
/-- res_base -/
def cbRes (o : TpOps) : Nat := rf o.b 0 47 0
/-- res_fmt -/
def cbResFmt (o : TpOps) : Nat := rf o.b 8 3 0
/-- out_order -/
def cbOrder (o : TpOps) : Nat := rf o.b 8 5 4
/-- shared_n -/
def cbSharedN (o : TpOps) : Nat := rf o.b 8 7 6
/-- shared_pos -/
def cbSharedPos (o : TpOps) : Nat := rf o.b 8 9 8
/-- resid_en -/
def cbResid (o : TpOps) : Bool := rb o.b 8 10
/-- skip_masked -/
def cbSkip (o : TpOps) : Bool := rb o.b 8 11
/-- rounding -/
def cbRounding (o : TpOps) : Nat := rf o.b 8 13 12
/-- out_tdesc -/
def cbOut (o : TpOps) : Nat := rf o.b 0xC 7 0
/-- restore_tdesc -/
def cbRestore (o : TpOps) : Nat := rf o.b 0xC 15 8
/-- resid_tdesc -/
def cbResidT (o : TpOps) : Nat := rf o.b 0xC 23 16
/-- shared0_tdesc, shared1_tdesc -/
def cbSharedT (o : TpOps) (i : Nat) : Nat := rf o.b 0x10 (8 * i + 7) (8 * i)
/-- shared_w0, shared_w1 -/
def cbSharedW (o : TpOps) (i : Nat) : F32 := BitVec.ofNat 32 (rf o.b (0x14 + 4 * i) 31 0)
/-- pos_in -/
def cbPosIn (o : TpOps) : Nat := rf o.b 0x20 47 0
/-- pos_out -/
def cbPosOut (o : TpOps) : Nat := rf o.b 0x28 47 0
/-- log_base -/
def cbLog (o : TpOps) : Nat := rf o.b 0x30 47 0
/-- log_stride -/
def cbLogStride (o : TpOps) : Nat := rf o.b 0x38 31 0
/-- fwd_res -/
def cbFwd (o : TpOps) : Nat := rf o.b 0x40 47 0
/-- gg_base -/
def cbGg (o : TpOps) : Nat := rf o.b 0x48 47 0

/-! ## Windows and ranges (09 R202, 08 R189) -/

/-- A byte range: first address and length. -/
abbrev Rng := Nat × Nat

/-- The range lies inside one window. -/
def inWin (w : Window) (a n : Nat) : Bool :=
  w.base.toNat < w.limit.toNat && w.base.toNat ≤ a && a + n ≤ w.limit.toNat

/-- The range lies inside one of the context's windows. -/
def inWindows (x : Ctx) (a n : Nat) : Bool := x.windows.toList.any fun w => inWin w a n

/-- Two ranges share a byte. -/
def meets (a b : Rng) : Bool := a.1 < b.1 + b.2 && b.1 < a.1 + a.2

/-- Some range of the first list shares a byte with one of the second. -/
def anyMeet (as bs : List Rng) : Bool := as.any fun a => bs.any (meets a)

/-! ## Tensors (09) -/

/-- The fields of a tensor record (09 R201), those of dimensions at or above ndim apart. -/
def tensorFields (ndim : Nat) : List (Nat × Nat × Nat) :=
  [(0, 11, 0), (4, 31, 0), (8, 47, 0), (0x50, 16, 0), (0x54, 23, 0), (0x58, 47, 0)]
    ++ (tabulate ndim fun i => (0x10 + 4 * i, 23, 0)) ++ (tabulate (ndim - 1) fun i => (0x28 + 8 * i, 47, 0))

/-- A record decoded (DEDUCED, notes/assumptions/22.md). -/
def tensorOf (n : Nat) : TDesc where
  fmt := rf n 0 3 0
  ndim := rf n 0 6 4
  wrap := rb n 0 7
  strict := rb n 0 8
  dist := rb n 0 9
  win := rf n 0 11 10
  fill := BitVec.ofNat 32 (rf n 4 31 0)
  base := rf n 8 47 0
  sizes := tabulate 6 fun i => rf n (0x10 + 4 * i) 23 0
  strides := tabulate 5 fun i => rf n (0x28 + 8 * i) 47 0
  ownerBase := rf n 0x50 13 0
  blockDim := rf n 0x50 16 14
  blockLen := rf n 0x54 23 0
  selfOverlap := false
  dying := none

/-- Size of dimension `i`. -/
def tdSize (t : TDesc) (i : Nat) : Nat := t.sizes.getD i 0 + 1
/-- Byte stride of dimension `i`, from 1. -/
def tdStride (t : TDesc) (i : Nat) : Nat := t.strides.getD (i - 1) 0
/-- Bytes of a row. -/
def tdRow (t : TDesc) : Nat := rowBytes (tdSize t 0) t.fmt
/-- Rows of the tensor. -/
def tdRows (t : TDesc) : Nat := tdSize t 1 * tdSize t 2 * tdSize t 3 * tdSize t 4 * tdSize t 5

/-- The coordinates in dimensions 1 to 5 of row `r` in row order, dimension 1 fastest (09 R201). -/
def rowCoords (t : TDesc) (r : Nat) : List Nat :=
  (((tabulate 5 (· + 1)).foldl (fun (acc : List Nat × Nat) i =>
    (acc.1 ++ [acc.2 % tdSize t i], acc.2 / tdSize t i)) ([], r))).1

/-- Row order number of coordinates. -/
def rowIndex (t : TDesc) (xs : List Nat) : Nat :=
  ((tabulate 5 id).foldr (fun i acc => xs.getD i 0 + tdSize t (i + 1) * acc) 0)

/-- Σ x_i × stride_i over dimensions 1 to 5. -/
def strideSum (t : TDesc) (xs : List Nat) : Nat :=
  sumNat ((indexed xs).map fun (i, x) => x * tdStride t (i + 1))

/-- Address of a row of a tensor with dist 0. -/
def rowAddr (t : TDesc) (r : Nat) : Nat := t.base + strideSum t (rowCoords t r)

/-- The extent of a block along block_dim (09 R212). -/
def blockExtent (t : TDesc) (b : Nat) : Nat := min (t.blockLen + 1) (tdSize t t.blockDim - b * (t.blockLen + 1))

/-- B, the number of blocks (09 R211). -/
def blockCount (t : TDesc) : Nat := ceilDiv (tdSize t t.blockDim) (t.blockLen + 1)

/-- Length of the footprint (09 R203). -/
def footLen (t : TDesc) : Nat := strideSum t (t.sizes.drop 1) + tdRow t

/-- Length of a block's footprint. -/
def blockFoot (t : TDesc) (b : Nat) : Nat :=
  strideSum t ((t.sizes.drop 1).set (t.blockDim - 1) (blockExtent t b - 1)) + tdRow t

/-- 09 R205. -/
def selfOverlaps (t : TDesc) : Bool :=
  let dims := (tabulate (t.ndim - 1) (· + 1)).filter fun i => 1 < tdSize t i
  let sorted := sortBy (fun a b => tdStride t a < tdStride t b) dims
  (sorted.foldl (fun (acc : Bool × Nat) i =>
    (acc.1 || tdStride t i < acc.2, tdStride t i * (tdSize t i - 1) + acc.2)) (false, tdRow t)).1

/-- Count `a` was fetched before count `b`. -/
def before (a b : BitVec 32) : Bool := let k := (b - a).toNat; 1 ≤ k && k < 2 ^ 31

/-- A live tensor descriptor as the descriptor with fetch count `k` finds it: one that an earlier TDESC_DESTROY has named
counts as freed (09 R206). -/
def tensorAt (x : Ctx) (i : Nat) (k : BitVec 32) : Option TDesc :=
  (lookup i x.tensors).filter fun t => match t.dying with | some d => !before d k | none => true

/-- The owner base address, own mark, and entry of block `b` (07 R174). -/
def ownerRaw (s : State) (e : Nat) : Nat := ((lookup e s.owner).map fun o => o.raw.toNat).getD 0
/-- owner_chip -/
def owChip (r : Nat) : BitVec 16 := BitVec.ofNat 16 (rf r 0 15 0)
/-- owner_engine -/
def owEngine (r : Nat) : Bool := rb r 0 16
/-- valid -/
def owValid (r : Nat) : Bool := rb r 0 17
/-- own -/
def owOwn (r : Nat) : Bool := rb r 0 18
/-- link_fmt -/
def owLink (r : Nat) : Nat := rf r 0 22 19
/-- block_epoch -/
def owEpoch (r : Nat) : Nat := rf r 4 15 0
/-- owner_index -/
def owIndex (r : Nat) : Nat := rf r 4 29 16
/-- base -/
def owBase (r : Nat) : Nat := rf r 8 31 0 + rf r 0xC 15 0 <<< 32
/-- The fields of an Owner Table entry. -/
def ownerFields : List (Nat × Nat × Nat) := [(0, 22, 0), (4, 29, 0), (8, 31, 0), (0xC, 15, 0)]

/-- Two tensors with the same base, format, sizes and strides (08 R189); distributed ones lie in the same blocks
(DEDUCED, notes/assumptions/22.md). -/
def exactAlias (a b : TDesc) : Bool :=
  a.base == b.base && a.fmt == b.fmt && a.sizes == b.sizes && a.strides == b.strides && a.dist == b.dist
  && (!a.dist || (a.ownerBase == b.ownerBase && a.blockDim == b.blockDim && a.blockLen == b.blockLen))

/-- The ranges a tensor covers in this engine's memory: its footprint, or those of its own blocks (09 R223). -/
def tensorRngs (s : State) (t : TDesc) : List Rng :=
  if t.dist then
    (tabulate (blockCount t) id).filterMap fun b =>
      let r := ownerRaw s (t.ownerBase + b)
      if owOwn r then some (owBase r, blockFoot t b) else none
  else [(t.base, footLen t)]

/-- A link format (07 R150, R174). -/
def linkOk (f : Nat) : Bool := f == 0 || f == 7 || f == 8 || f == 9

/-- 07 R175: a block has reached an epoch. -/
def reachedEpoch (have' need : Nat) : Bool := subMod 16 have' need < 32768

/-- 07 R166, 16-bit: epoch a is older than b. -/
def olderEpoch (a b : BitVec 16) : Bool := let k := (b - a).toNat; 1 ≤ k && k ≤ 32768

/-- Who this engine is, in the first word of a message: chip id, then the engine in bit 16 (07 R176). -/
def selfWord (s : State) : Nat := s.fuse.chipId.toNat + b2n s.fuse.engineId <<< 16

/-- The 64 bytes of a READ_REQ (07 R176). -/
def readReqBytes (s : State) (idx need off len link fmt tag elems rowb : Nat) : List Byte :=
  leBytes 64 (pack [(0, 0, selfWord s), (4, 0, idx), (4, 16, need), (8, 0, off), (0xC, 0, len), (0x10, 0, link),
    (0x10, 4, fmt), (0x10, 16, tag), (0x14, 0, elems), (0x18, 0, rowb)])

/-! ## Envelopes (16 R354) -/

/-- The envelope as a number whose byte 0 is descriptor byte 0x08; the listed offsets are kept. -/
def envField (e off hi lo : Nat) : Nat := rf e (off - 8) hi lo
/-- slot -/
def envSlot (e : Nat) : Fin 8 := Fin.ofNat 8 (envField e 8 2 0)
/-- cmd -/
def envCmd (e : Nat) : Nat := envField e 8 15 8
/-- body_len -/
def envLen (e : Nat) : Nat := envField e 0xC 31 0
/-- counter -/
def envCounter (e : Nat) : Nat := envField e 0x10 63 0
/-- body_addr -/
def envBody (e : Nat) : Nat := envField e 0x18 47 0
/-- chip_id -/
def envChip (e : Nat) : Nat := envField e 0x20 15 0
/-- engine -/
def envEngine (e : Nat) : Bool := rb e 0x18 16
/-- tag, 16 bytes, byte 0 lowest -/
def envTag (e : Nat) : Nat := envField e 0x28 127 0
/-- The used bits. -/
def envFields : List (Nat × Nat × Nat) :=
  [(0, 2, 0), (0, 15, 8), (4, 31, 0), (8, 63, 0), (0x10, 47, 0), (0x18, 16, 0), (0x20, 127, 0)]

end Sys2Proof.Machine
end

