-- ==== Sys2Proof/Machine/TpCheck.lean ====
section
/-!
DEFINITION. The checks that a tile-path descriptor meets at fetch, before any tile is staged (13 R301 to R304, 08 R179,
R189, R195, R196, R199, 10 R242), the tile cut (01 R21, 02 R49) and the places of rows, slots and logs (08 R180, R195).
-/
namespace Sys2Proof.Machine

/-! ## Route logs (08 R195) -/

/-- model_id of a log header -/
def lgModel (h : Nat) : Nat := rf h 0 15 0
/-- layer -/
def lgLayer (h : Nat) : Nat := rf h 0 23 16
/-- k -/
def lgK (h : Nat) : Nat := rf h 0 27 24 + 1
/-- complete -/
def lgComplete (h : Nat) : Bool := rb h 0 28
/-- tokens -/
def lgTokens (h : Nat) : Nat := rf h 4 12 0
/-- d -/
def lgD (h : Nat) : Nat := 256 * (if rf h 4 31 26 == 0 then 64 else rf h 4 31 26)
/-- res_fmt -/
def lgResFmt (h : Nat) : Nat := rf h 8 3 0
/-- shared_n -/
def lgSharedN (h : Nat) : Nat := rf h 8 5 4
/-- shared_pos -/
def lgSharedPos (h : Nat) : Nat := rf h 8 7 6
/-- resid_en -/
def lgResid (h : Nat) : Bool := rb h 8 8
/-- step -/
def lgStep (h : Nat) : Nat := rf h 0x10 63 0
/-- first_pos -/
def lgFirst (h : Nat) : Nat := rf h 0x18 31 0
/-- shared weights -/
def lgSharedW (h i : Nat) : F32 := BitVec.ofNat 32 (rf h (0x20 + 4 * i) 31 0)

/-- F, the bytes of the status field. -/
def logStatus (n : Nat) : Nat := 64 * ceilDiv n 256
/-- Bytes of a log of `n` tokens with `k` choices each. -/
def logLen (n k : Nat) : Nat := 64 + logStatus n + 16 * n * k

/-! ## The tile cut -/

/-- 01 R21, 02 R49, R51: tokens of the largest tile. -/
def tileMax (d e k inFmt resFmt : Nat) : Nat :=
  let byStage := 8 * (16777216 / (8 * rowBytes d inFmt))
  let byScore := 8 * (64000 / (ceilDiv e 256 * d / 32))
  let byFeed := 160000000 / (k * flitBytes d inFmt)
  let byDrain := 160000000 / (k * flitBytes d resFmt)
  max 1 (min 4096 (min byStage (min byScore (min byFeed byDrain))))

/-! ## Tables -/

/-- The directory entry of a key (10 R244). -/
def dirFind (s : State) (model layer : Nat) : Option (Nat × HotEntry) :=
  s.dir.find? fun p => p.2.model.toNat == model && p.2.layer.toNat == layer

/-- The Sequence Table entry, if a pass may name it (10 R242). -/
def seqFor (s : State) (c : CtxId) (i uid : Nat) : Option Seq :=
  (lookup i s.seqs).filter fun q => (q.state == .active || q.state == .leaving) && q.ctx == c && q.uid.toNat == uid

/-- Address of a row of a tensor: in its block where it is distributed; none outside an own block (09 R212, R213). -/
def rowPlace (s : State) (t : TDesc) (r : Nat) : Option Nat :=
  if t.dist then
    let xs := rowCoords t r
    let x := xs.getD (t.blockDim - 1) 0
    let b := x / (t.blockLen + 1)
    let raw := ownerRaw s (t.ownerBase + b)
    if owOwn raw then
      some (owBase raw + strideSum t (xs.set (t.blockDim - 1) (x - b * (t.blockLen + 1))))
    else none
  else some (rowAddr t r)

/-- Every block of a distributed tensor is own. -/
def allOwn (s : State) (t : TDesc) : Bool :=
  !t.dist || (tabulate (blockCount t) id).all fun b => owOwn (ownerRaw s (t.ownerBase + b))

/-- The cores of a context's core set, ascending (06 R128). -/
def coreSet (s : State) (c : CtxId) : List PortId := coresOf s (s.ctx c).coreset

/-! ## The checks -/

/-- A combine block's reserved codes and unused fields (08 R179), `sn` and `re` the shared experts and residual that
count. -/
def cblkBad (o : TpOps) (sn : Nat) (re : Bool) : Bool :=
  let op := tpOp o
  let fromLog := op != 1
  !reservedZero o.b cblkFields
  || 2 < cbResFmt o || cbOrder o == 3 || (op == 3 && cbOrder o != 0) || 1 < cbRounding o || cbSharedN o == 3
  || (fromLog && (cbSharedN o != 0 || cbSharedPos o != 0 || cbResid o || cbSharedW o 0 != 0 || cbSharedW o 1 != 0))
  || (cbLog o == 0 && cbLogStride o != 0)
  || (cbOrder o != 1 && (cbRestore o != 0 || cbPosOut o != 0))
  || (cbOrder o != 0 && cbSkip o)
  || ((!re || op == 3) && cbResidT o != 0)
  || (sn == 0 && cbSharedT o 0 != 0) || (sn < 2 && cbSharedT o 1 != 0)
  || (!fromLog && (cbSharedPos o / 2 ^ cbSharedN o != 0
      || (cbSharedN o == 0 && cbSharedW o 0 != 0) || (cbSharedN o < 2 && cbSharedW o 1 != 0)
      || (1 ≤ cbSharedN o && !isFinite (cbSharedW o 0)) || (2 ≤ cbSharedN o && !isFinite (cbSharedW o 1))))
  || (op != 3 && (cbFwd o != 0 || cbGg o != 0))
  || (fromLog && cbRounding o == 0 && (tpSeq o != 0 || tpUid o != 0 || tpPosBase o != 0))

/-- An address or stride of the descriptor or its block that is not a multiple of 64 (13 R304). -/
def cblkMisaligned (o : TpOps) : Bool :=
  [tpMask o, tpCblk o, cbRes o, cbPosIn o, cbPosOut o, cbLog o, cbLogStride o, cbFwd o, cbGg o].any fun a => a % 64 != 0

/-- What the checks settle about a descriptor. -/
structure TpPlan where
  d : Nat
  k : Nat
  e : Nat
  /-- rows: descriptor positions -/
  rows : Nat
  /-- tokens of the largest tile -/
  big : Nat
  /-- first address and length of the logs -/
  logs : Rng
  logBad : Bool
  /-- bytes of the forward results buffer that the logs name (08 R199) -/
  fwd : Nat
  deriving DecidableEq, Repr

/-- The named tensors: input, output, restore, residual, shared. -/
structure TpTensors where
  inT : TDesc
  out : TDesc
  restore : Option TDesc
  resid : Option TDesc
  shared : List TDesc
  deriving DecidableEq, Repr

/-- The tensors that the descriptor with fetch count `n` names, or none where an entry is not live. -/
def tpTensors (x : Ctx) (n : BitVec 32) (o : TpOps) (sn : Nat) (re : Bool) : Option TpTensors :=
  let opt := fun (use : Bool) (i : Nat) => if use then (tensorAt x i n).map some else some none
  match tensorAt x (tpIn o) n, tensorAt x (cbOut o) n, opt (cbOrder o == 1) (cbRestore o),
      opt (re && tpOp o != 3) (cbResidT o), opt (1 ≤ sn) (cbSharedT o 0), opt (2 ≤ sn) (cbSharedT o 1) with
  | some i, some t, some r, some d, some a, some b =>
    some ⟨i, t, r, d, a.toList ++ b.toList⟩
  | _, _, _, _, _, _ => none

/-- The tensor entries that a tile-path descriptor names, `sn` and `re` the shared experts and residual that count where
its logs give them. -/
def tpNames (o : TpOps) (sn : Nat) (re : Bool) : List Nat :=
  let route := tpOp o == 1
  let n := if route then cbSharedN o else sn
  [tpIn o, cbOut o] ++ (if cbOrder o == 1 then [cbRestore o] else [])
    ++ (if (if route then cbResid o else re) && tpOp o != 3 then [cbResidT o] else [])
    ++ (if 1 ≤ n then [cbSharedT o 0] else []) ++ (if 2 ≤ n then [cbSharedT o 1] else [])

/-- 13 R311: an earlier TDESC_CREATE of one of the entries has not completed. -/
def awaitsCreate (x : Ctx) (k : BitVec 32) (names : List Nat) : Bool :=
  x.dealt.any fun d => d.2.op == 0x60 && before d.2.c k && names.contains (rf d.2.n 8 7 0)

/-- 08 R189: the areas that must not overlap, in pairs, except the exact aliases of the output that its order allows. -/
def tpOverlap (s : State) (o : TpOps) (ts : TpTensors) (areas : List Rng) : Bool :=
  let named : List (Nat × TDesc) := [(0, ts.inT), (1, ts.out)] ++ (ts.restore.toList.map fun t => (2, t))
    ++ (ts.resid.toList.map fun t => (3, t)) ++ (indexed ts.shared).map fun (i, t) => (4 + i, t)
  let allowed := fun (i j : Nat) (a b : TDesc) =>
    exactAlias a b &&
      match cbOrder o, i, j with
      | 0, 0, 1 => true
      | 0, 1, 3 => true
      | 0, 0, 3 => exactAlias ts.out a
      | 1, 0, 1 => true
      | _, _, _ => false
  let pairs := (indexed named).flatMap fun (n, p) => (named.drop (n + 1)).map fun q => (p, q)
  (pairs.any fun (p, q) => anyMeet (tensorRngs s p.2) (tensorRngs s q.2) && !allowed p.1 q.1 p.2 q.2)
  || (named.any fun p => anyMeet (tensorRngs s p.2) areas)
  || ((indexed areas).any fun (n, a) => (areas.drop (n + 1)).any (meets a))

/-- The errors of a descriptor whose tensors and plan are known (08 R179, R189, R195, 10 R242, 06 R128). Staging reads
tensors with dist 0 alone, so no descriptor's input is distributed (09 R210). A shared tensor in another format than a
results buffer's has no status in the spec: BAD_OPCODE here, as for res_fmt (DESIGN CHOICE, notes/assumptions/22.md). -/
def tpErrors (s : State) (c : CtxId) (o : TpOps) (ts : TpTensors) (p : TpPlan) : List (Bool × Nat) :=
  let x := s.ctx c
  let op := tpOp o
  let list := cbPosIn o != 0
  let named := [ts.inT, ts.out] ++ ts.restore.toList ++ ts.resid.toList ++ ts.shared
  let rowOk := fun (t : TDesc) => p.rows ≤ tdSize t 1
  let resLen := p.rows * p.k * rowBytes p.d (cbResFmt o)
  let fwdLen := if cbFwd o == 0 then 0 else p.fwd
  let ggLen := if cbFwd o == 0 then 0 else roundUp (4 * p.rows * p.k) 64
  let listLen := 64 + 4 * p.rows
  let areas := [(cbRes o, resLen)] ++ (if list then [(cbPosIn o, listLen)] else [])
    ++ (if cbOrder o == 1 then [(cbPosOut o, listLen)] else [])
    ++ (if fwdLen == 0 then [] else [(cbFwd o, fwdLen), (cbGg o, ggLen)])
  let windowed := areas ++ [(tpCblk o, 128)] ++ (if cbLog o == 0 then [] else [p.logs])
    ++ (if tpMask o == 0 then [] else [(tpMask o, ceilDiv p.rows 512 * 64)])
  let seqNeeded := op == 1 || cbRounding o == 1
  let hdr := (dirFind s (tpModel o) (tpLayer o)).map fun e => leNat e.2.hdr
  [(ts.inT.dist, stRange),
   (!(ts.out :: ts.restore.toList ++ ts.resid.toList ++ ts.shared).all (allOwn s), stRange),
   (ts.out.selfOverlap || ts.restore.any (·.selfOverlap), stRange),
   (ts.shared.any fun t => 2 < t.fmt, stBad),
   (named.any fun t => tdSize t 0 != p.d, stRange),
   (!rowOk ts.inT || !(ts.resid.toList ++ ts.shared).all rowOk, stRange),
   ((!list || cbOrder o != 2) && !rowOk ts.out, stRange),
   (!list && !ts.restore.toList.all rowOk, stRange),
   (p.logBad, stRange),
   (op != 2 && (coreSet s c).isEmpty, stRange),
   (windowed.any fun a => a.2 != 0 && !inWindows x a.1 a.2, stRange),
   (tpOverlap s o ts (areas.filter fun a => a.2 != 0), stRange)]
  ++ (if seqNeeded then
      match seqFor s c (tpSeq o) (tpUid o) with
      | none => [(true, stRange)]
      | some q =>
        [(!list && q.tokens < tpPosBase o + p.rows, stRange)]
        ++ (match op, hdr with
          | 1, some h => [(hHalt h && !q.exitEn, stRange),
              (hHold h && (q.holdLayers ≤ tpHold o || q.holdKmax < p.k), stRange)]
          | _, _ => [])
    else [])

/-- The plan of a TILE_ROUTE of `n` tokens under a header. -/
def routePlan (o : TpOps) (h n inFmt : Nat) : TpPlan :=
  let k := hK h
  let big := min n (tileMax (hD h) (hE h) k inFmt (cbResFmt o))
  let tiles := ceilDiv n (max 1 big)
  let last := n - (tiles - 1) * big
  ⟨hD h, k, hE h, n, big, (cbLog o, (tiles - 1) * cbLogStride o + logLen last k),
    cbLog o != 0 && cbLogStride o < logLen big k, 0⟩

/-- The plan of a TILE_COMBINE or TILE_REVERSE over its log headers (08 R196, R199); `d` from the input tensor. R196 does
not list a log of 0 tokens, nor a stride below the largest of several logs: both are RANGE here, and the stride of a
single log is not looked at (DESIGN CHOICE, notes/assumptions/22.md). -/
def logPlan (o : TpOps) (d : Nat) (hs : List Nat) : TpPlan :=
  let k := (hs.head?.map lgK).getD 1
  let bad := hs.any fun h => !lgComplete h || 4096 < lgTokens h || lgTokens h == 0 || lgD h != d || lgK h != k
    || (tpOp o == 2 && lgResFmt h != cbResFmt o)
  let big := hs.foldl (fun m h => max m (lgTokens h)) 0
  let rows := hs.foldl (fun m h => max m (lgFirst h + lgTokens h)) 0
  ⟨d, k, 0, rows, big, (cbLog o, (hs.length - 1) * cbLogStride o + logLen ((hs.getLast?.map lgTokens).getD 1) k),
    bad || (hs.length != 1 && cbLogStride o < logLen big k),
    hs.foldl (fun m h => max m ((lgFirst h + lgTokens h) * k * rowBytes d (lgResFmt h))) 0⟩

/-! ## The checks, with what they read -/

/-- The plan of a TILE_COMBINE or TILE_REVERSE whose log headers could not be read: what does not depend on them is checked
with it (13 R315). -/
def blindPlan (o : TpOps) (d : Nat) : TpPlan := ⟨d, 0, 0, 0, 0, (cbLog o, 0), false, 0⟩

/-- What the checks of a descriptor have read: its combine block, and, unless a bus error kept them, the log headers and
the header of its position list. -/
structure TpReads where
  block : Nat
  rest : Option (List Nat × Nat)
  deriving DecidableEq, Repr

/-- The block's errors, for the largest shared_n and resid_en that its logs allow. While its logs are unknown a field that
they may use is not an error. -/
def blockErrors (o : TpOps) (heads : Option (List Nat)) : List (Bool × Nat) :=
  let fromLog := tpOp o != 1
  let sn := if fromLog then (heads.map fun hs => hs.foldl (fun m h => max m (lgSharedN h)) 0).getD 2 else cbSharedN o
  let re := if fromLog then (heads.map fun hs => hs.any lgResid).getD true else cbResid o
  [(cblkMisaligned o, stMisalign), (cblkBad o sn re, stBad)]

/-- The status of the checks, or the job with its block, token count and k; codes lowest first (13 R315). Two cases that
have no status in the spec are RANGE here: a TILE_COMBINE or TILE_REVERSE with log_base 0, and a TILE_ROUTE with count 0
whose list header holds 0 (DESIGN CHOICE, notes/assumptions/22.md). -/
def judgeTp (s : State) (c : CtxId) (j : TpJob) (rd : TpReads) : Except Nat TpJob :=
  let o : TpOps := ⟨j.raw.toNat, rd.block⟩
  let route := tpOp o == 1
  let heads := rd.rest.map (·.1)
  let sn := if route then cbSharedN o else (heads.getD []).foldl (fun m h => max m (lgSharedN h)) 0
  let re := if route then cbResid o else (heads.getD []).any lgResid
  let n := if route && tpCount o == 0 then ((rd.rest.map (·.2)).getD 1) else tpCount o
  let base := blockErrors o heads ++ [(rd.rest.isNone, stBus), (!route && cbLog o == 0, stRange), (n == 0, stRange)]
  match tpTensors (s.ctx c) j.c o sn re with
  | none => .error ((worst (base ++ [(true, stRange)])).getD stRange)
  | some ts =>
    let plan : Option TpPlan :=
      if route then (dirFind s (tpModel o) (tpLayer o)).map fun e => routePlan o (leNat e.2.hdr) n ts.inT.fmt
      else some (match heads with
        | some hs => logPlan o (tdSize ts.inT 0) hs
        | none => blindPlan o (tdSize ts.inT 0))
    let errs := match plan with
      | some p => tpErrors s c o ts p
      | none => [(route, stRange)]
    match worst (base ++ errs), plan with
    | some st, _ => .error st
    | none, none => .error stRange
    | none, some p => .ok { j with cblk := BitVec.ofNat 1024 o.b, count := n, k := p.k, checked := true }

/-- The checks of a descriptor end: it is checked, or it completes with its status. -/
def endCheck (s : State) (c : CtxId) (j : TpJob) (r : Except Nat TpJob) : State :=
  let s1 := killReads s (· == .check c j.c)
  match r with
  | .ok j1 => modCtx s1 c fun x => { x with tp := updFirst (fun t => t.c == j.c) (fun _ => j1) x.tp }
  | .error st =>
    match (s1.ctx c).dealt.find? fun d => d.2.c == j.c with
    | some d => completeTp (modCtx s1 c fun x => { x with tp := x.tp.filter fun t => t.c != j.c }) c d.2 j st
    | none => s1

/-- What a descriptor's check has brought of a range. -/
def checkGot (s : State) (c : CtxId) (j : TpJob) (a n : Nat) : List Byte := gotRead s (.check c j.c) a n

/-- The combine block as read. -/
def checkBlock (s : State) (c : CtxId) (j : TpJob) : TpOps :=
  ⟨j.raw.toNat, leNat (checkGot s c j (tpCblk ⟨j.raw.toNat, 0⟩) 128)⟩

/-- The reads that follow the block: the log headers of a TILE_COMBINE or TILE_REVERSE, and the header of the position
list. -/
def headReads (o : TpOps) : List (Nat × Nat) :=
  (if tpOp o == 1 then [] else tabulate (tpCount o) fun i => (cbLog o + i * cbLogStride o, 64))
    ++ (if cbPosIn o == 0 then [] else [(cbPosIn o, 64)])

/-- The headers as read. -/
def heldHeads (s : State) (c : CtxId) (j : TpJob) (o : TpOps) : List Nat × Nat :=
  (if tpOp o == 1 then [] else tabulate (tpCount o) fun i => leNat (checkGot s c j (cbLog o + i * cbLogStride o) 64),
    if cbPosIn o == 0 then 0 else leNat (checkGot s c j (cbPosIn o) 4))

/-- The largest shared_n, and whether any resid_en is set, of the logs (08 R179). -/
def logsShared (heads : List Nat) : Nat × Bool := (heads.foldl (fun m h => max m (lgSharedN h)) 0, heads.any lgResid)

/-- The errors that a descriptor's own words show, whatever its block and logs hold (13 R315). -/
def rawErrors (s : State) (c : CtxId) (j : TpJob) : List (Bool × Nat) :=
  let o : TpOps := ⟨j.raw.toNat, 0⟩
  let x := s.ctx c
  let route := tpOp o == 1
  let inT := tensorAt x (tpIn o) j.c
  let inBad := match inT with
    | some t => t.dist || (route && tpCount o != 0 && tdSize t 1 < tpCount o)
    | none => true
  let keyBad := match dirFind s (tpModel o) (tpLayer o), seqFor s c (tpSeq o) (tpUid o) with
    | some (_, e), some q =>
      let h := leNat e.hdr
      (inT.any fun t => tdSize t 0 != hD h) || (hHalt h && !q.exitEn)
        || (hHold h && (q.holdLayers ≤ tpHold o || q.holdKmax < hK h))
    | _, _ => true
  [(!awaitsCreate x j.c [tpIn o] && inBad, stRange), (route && keyBad, stRange), (!route && tpCount o == 0, stRange),
   (tpOp o != 2 && (coreSet s c).isEmpty, stRange),
   (route && tpMask o != 0 && tpCount o != 0 && !inWindows x (tpMask o) (ceilDiv (tpCount o) 512 * 64), stRange)]

/-- The checks of a descriptor at fetch: its block is read, then the headers it names, from inside the windows alone; then
everything is checked, before any tile is staged, once the earlier TDESC_CREATEs of what it names have completed (13 R304,
R311) (DEDUCED, notes/assumptions/22.md). -/
def checkTp (s : State) (c : CtxId) (j : TpJob) : State :=
  let own := MemOwner.check c j.c
  let o0 : TpOps := ⟨j.raw.toNat, 0⟩
  match worst [(tpCblk o0 % 64 != 0 || tpMask o0 % 64 != 0, stMisalign), (!inWindows (s.ctx c) (tpCblk o0) 128, stRange)] with
  | some st => endCheck s c j (.error st)
  | none =>
    reading s own 7 (some c) [(tpCblk o0, 128)] fun s =>
      let o := checkBlock s c j
      match worst [(cblkMisaligned o, stMisalign), ((headReads o).any fun r => !inWindows (s.ctx c) r.1 r.2, stRange)] with
      | some st => endCheck s c j (.error st)
      | none => reading s own 7 (some c) (headReads o) fun s =>
          let heads := heldHeads s c j o
          let sh := logsShared heads.1
          if awaitsCreate (s.ctx c) j.c (tpNames o sh.1 sh.2) then s
          else endCheck s c j (judgeTp s c j ⟨o.b, some heads⟩)

/-- A read of a descriptor's checks met a bus error: its status, unless another check has a lower one. -/
def checkFailed (s : State) (c : CtxId) (k : BitVec 32) : State :=
  match (s.ctx c).tp.find? fun t => t.c == k with
  | none => s
  | some j =>
    let o := checkBlock s c j
    let raw := (true, stBus) :: rawErrors s c j
    if !(missingReqs s (.check c k) 7 none [(tpCblk ⟨j.raw.toNat, 0⟩, 128)]).isEmpty then
      endCheck s c j (.error ((worst raw).getD stBus))
    else if awaitsCreate (s.ctx c) k (tpNames o 0 false) then
      endCheck s c j (.error ((worst (raw ++ blockErrors o none)).getD stBus))
    else endCheck s c j (judgeTp s c j ⟨o.b, none⟩)

end Sys2Proof.Machine
end

