-- ==== Sys2Proof/Machine/HotSet.lean ====
section
/-!
DEFINITION. The model hot set (10 R244 to R250): units, eviction, MODEL_LOAD, MODEL_PIN and fetches.
-/
namespace Sys2Proof.Machine

/-- A tile-path descriptor ends with an error: every tile of its context in flight is abandoned (15 R339, 10 R247)
(DEDUCED, notes/assumptions/33.md). -/
def failTp (s : State) (c : CtxId) (k : BitVec 32) (st : Nat) : State :=
  let s1 := abandonAll s c false
  match (s1.ctx c).dealt.find? fun d => d.2.c == k, (s1.ctx c).tp.find? fun t => t.c == k with
  | some d, some t => completeTp (modCtx s1 c fun x => { x with tp := x.tp.filter fun j => j.c != k }) c d.2 t st
  | _, _ => s1

/-! ## Units (10 R245, R248, R249) -/

/-- Units of the set buffers of the tiles in flight. -/
def unitsBuffers (s : State) : Nat := 256 * (s.tiles.filter fun t => t.bufs && !t.dead).length

/-- units_used: the units of resident route contexts and of set buffers (R250). -/
def unitsUsed (s : State) : Nat := sumNat (s.dir.map fun e => if e.2.resident then e.2.units else 0) + unitsBuffers s

/-- Units that are not free: those of a route context that is being loaded count. -/
def unitsTaken (s : State) : Nat :=
  sumNat (s.dir.map fun e => if e.2.resident || e.2.loading then e.2.units else 0) + unitsBuffers s

/-- The unit is on a unit list, of a route context or of set buffers. -/
def unitTaken (s : State) (u : Nat) : Bool :=
  s.dir.any (fun e => e.2.unitList.contains u) || s.tiles.any fun t => t.bufs && !t.dead && t.bufUnits.contains u

/-- The lowest `n` free units; the spec leaves the choice of units open (DESIGN CHOICE, notes/assumptions/32.md). -/
def freeUnits (s : State) (n : Nat) : List Nat := ((tabulate 1024 id).filter fun u => !unitTaken s u).take n

/-- units_pinned -/
def unitsPinned (s : State) : Nat := sumNat (s.dir.map fun e => if e.2.pinned then e.2.units else 0)

/-- The tile is in flight and names the route context. -/
def names (e : HotEntry) (t : Tile) : Bool :=
  !t.dead && t.kind == .route && t.model == e.model && t.layer == e.layer

/-- 10 R246: a tile in flight names it, or it is being loaded. -/
def inUse (s : State) (e : HotEntry) : Bool := e.loading || s.tiles.any (names e)

/-- The entries that may be evicted. -/
def evictable (s : State) : List (Nat × HotEntry) :=
  s.dir.filter fun e => e.2.resident && !e.2.pinned && !inUse s e.2

/-- 18 R381: the oldest stamp, ties to the lower directory index. -/
def oldest (s : State) : Option (Nat × HotEntry) :=
  firstMin (fun a b => (s.stamp - b.2.stamp).toNat < (s.stamp - a.2.stamp).toNat) (evictable s)

/-- `f` applied to a directory entry. -/
def modDir (s : State) (i : Nat) (f : HotEntry → HotEntry) : State := { s with dir := modKey i f s.dir }

/-- One route context leaves the store. -/
def evict (s : State) (i : Nat) : State := teleEng (modDir s i fun e => { e with resident := false, store := [], unitList := [] }) 9 1

/-- Evictions, smallest stamp first, until `need` units are free; with the number made. -/
def evictUntil (need : Nat) : Nat → Nat → State → State × Nat
  | 0, k, s => (s, k)
  | n + 1, k, s =>
    if unitsTaken s + need ≤ 1024 then (s, k)
    else match oldest s with
      | some e => evictUntil need n (k + 1) (evict s e.1)
      | none => (s, k)

/-- 10 R246: room for `need` units, or none while the evictable contexts do not free enough
(DEDUCED, notes/assumptions/32.md). -/
def makeRoom (s : State) (need : Nat) : Option (State × Nat) :=
  if unitsTaken s + need ≤ 1024 + sumNat ((evictable s).map fun e => e.2.units) then
    some (evictUntil need s.dir.length 0 s)
  else none

/-- A recency stamp is taken (10 R246). -/
def stampDir (s : State) (i : Nat) : State :=
  { modDir s i fun e => { e with stamp := s.stamp } with stamp := s.stamp + 1 }

/-! ## Loading -/

/-- The ranges of a route context that the store holds: its image and, where it has them, its biases. -/
def loadRngs (e : HotEntry) : List (Nat × Nat) :=
  let h := leNat e.hdr
  (e.image, imgHeld h) :: if hSelBias h then [(hBiasAddr h, 4 * hE h)] else []

/-- The writes of an update of the biases of a header's route context that have not been issued (05 R122). -/
def biasWrites (s : State) (h : Nat) : List MemReq :=
  s.memWait.filter fun r =>
    (match r.owner with | .stats _ => true | _ => false) && meets (r.addr, r.len) (hBiasAddr h, 4 * hE h)

/-- The biases as they stand once those writes have been issued. -/
def lateBias (s : State) (h : Nat) : Option (List F32) :=
  let rs := biasWrites s h
  if rs.isEmpty then none
  else some (f32s (hE h) (memRead (rs.foldl (fun m r => memWrite m r.addr r.data) s.chip) (hBiasAddr h) (4 * hE h)))

/-- A load begins: the entry takes its units, and the ranges `rs` are read. -/
def startLoad (s : State) (i : Nat) (rank : Nat) (c : CtxId) (rs : List (Nat × Nat)) : State :=
  let s1 := modDir s i fun e => { e with
    loading := true, failed := false, adapted := lateBias s (leNat e.hdr), unitList := freeUnits s e.units }
  request s1 (rs.flatMap fun r => readReqs (.hot i) r.1 r.2 rank (some c))

/-- The head of the queue is what loads entry `i`. -/
def jobOf (s : State) (i : Nat) : Option HotJob := s.hotq.head?.filter fun h => h.dir == some i

/-- The head of the queue is a MODEL_LOAD. -/
def HotJob.isLoad (h : HotJob) : Bool := rf h.raw.toNat 0 7 0 == 0x40

/-- The descriptor of a hot-set job, and the job's end with its record. -/
def endHot (s : State) (h : HotJob) (st v0 v1 : Nat) : State :=
  let s1 := { killReads s (· == .model) with hotq := s.hotq.drop 1 }
  match (s1.ctx h.ctx).dealt.find? fun d => d.2.c == h.c with
  | some d => if isError st then completeErr s1 h.ctx .hotSet d.2 st else complete s1 h.ctx .hotSet d.2 st v0 v1 0
  | none => s1

/-- Tiles that waited for a route context score on; their stall ticks count (10 R251). -/
def endStall (s : State) (e : HotEntry) : State :=
  (s.tiles.filter fun t => names e t && t.fetching).foldl (fun s t =>
    modTile (missTicks s t) t.ctx t.epoch fun t => { t with fetching := false }) s

/-- Tiles that waited for a route context whose fetch failed: their descriptors end (10 R247). -/
def failMiss (s : State) (e : HotEntry) (st : Nat) : State :=
  (s.tiles.filter fun t => names e t && t.fetching).foldl (fun s t => failTp s t.ctx t.c st) s

/-- The Fronds hold nothing of a key whose image has been read again. -/
def dropSegments (s : State) (key : BitVec 24) : State :=
  let keep := fun (x : Option (BitVec 24 × Nat × Nat)) => x.filter fun y => y.1 != key
  { s with slices := vmap (fun l => { l with active := keep l.active, shadow := keep l.shadow }) s.slices }

/-- The key of a route context (10 R244). -/
def keyOf (model : BitVec 16) (layer : BitVec 8) : BitVec 24 := BitVec.ofNat 24 (model.toNat + layer.toNat <<< 16)

/-- The biases that a load of entry `i` stores: a MODEL_LOAD's as its check read them, another's as the load did; biases
that an update has written since stand before both (05 R122). -/
def loadedBias (s : State) (i : Nat) (e : HotEntry) : List F32 :=
  let h := leNat e.hdr
  let own := if (jobOf s i).any HotJob.isLoad then MemOwner.model else .hot i
  if hSelBias h then e.adapted.getD (f32s (hE h) (gotRead s own (hBiasAddr h) (4 * hE h))) else []

/-- A load has ended well: the store holds the image and the biases. -/
def loaded (s : State) (i : Nat) (e : HotEntry) : State :=
  let s1 := modDir (dropSegments s (keyOf e.model e.layer)) i fun e => { e with
    loading := false, resident := true, adapted := none
    store := gotRead s (.hot i) e.image (imgHeld (leNat e.hdr))
    bias := loadedBias s i e }
  let s2 := endStall (stampDir (dropRead s1 (.hot i)) i) e
  match jobOf s2 i with
  | some j =>
    if j.isLoad then endHot s2 j stOk (e.units + b2n e.streamed <<< 11) j.evicted
    else
      let s3 := modDir s2 i fun e => { e with pinned := true }
      endHot s3 j stOk (unitsPinned s3) 0
  | none => s2

/-- A load has failed. A key that a MODEL_LOAD made goes with it (DEDUCED, notes/assumptions/32.md). -/
def loadFailed (s : State) (i : Nat) (e : HotEntry) (st : Nat) : State :=
  let s1 := failMiss (modDir (dropRead s (.hot i)) i fun e => { e with
    loading := false, failed := false, adapted := none, unitList := [] }) e st
  match jobOf s1 i with
  | some j =>
    let s2 := if j.isLoad && !e.pinned then { s1 with dir := eraseKey i s1.dir } else s1
    endHot s2 j st 0 0
  | none => s1

/-- The reads of a loading entry have all returned (10 R247: a fetch checks the key alone). -/
def finishLoad (s : State) (i : Nat) : State :=
  match lookup i s.dir with
  | none => s
  | some e =>
    if !e.loading || memBusy s (· == .hot i) then s
    else if e.failed then loadFailed s i e stBus
    else
      let h := leNat (gotRead s (.hot i) e.image 256)
      if hModel h == e.model.toNat && hLayer h == e.layer.toNat then loaded s i e else loadFailed s i e stRange

/-! ## MODEL_LOAD (10 R244) -/

/-- image -/
def mlImage (h : HotJob) : Nat := rf h.raw.toNat 8 47 0

/-- The lowest directory index free. -/
def freeDir (s : State) : Option Nat := (tabulate 4096 id).find? fun i => (lookup i s.dir).isNone

/-- The entry for a header. -/
def dirEntry (image h : Nat) (pinned : Bool) : HotEntry where
  model := BitVec.ofNat 16 (hModel h)
  layer := BitVec.ofNat 8 (hLayer h)
  image := image
  units := imgUnits h
  unitList := []
  streamed := imgStreamed h
  pinned := pinned
  resident := false
  stamp := 0
  loading := true
  failed := false
  hdr := leBytes 256 h
  store := []
  bias := []
  adapted := none

/-- The checked image takes its entry, once room can be made; its biases have been read. -/
def placeLoad (s : State) (j : HotJob) (h i : Nat) (pinned : Bool) : State :=
  let s0 := modDir s i fun e => { e with resident := false, store := [], unitList := [] }
  match makeRoom s0 (imgUnits h) with
  | none => s
  | some (s1, n) =>
    startLoad { s1 with
      dir := insertKey i (dirEntry (mlImage j) h pinned) s1.dir
      hotq := { j with dir := some i, evicted := n } :: s1.hotq.drop 1 } i 7 j.ctx [(mlImage j, imgHeld h)]

/-- The load of a checked header waits: an entry of its key is in use, no room can be made, or an update of its biases is on
its way to memory (R244, 05 R122). -/
def loadWaits (s : State) (h : Nat) : Bool :=
  !(biasWrites s h).isEmpty ||
  match dirFind s (hModel h) (hLayer h) with
  | none => (makeRoom s (imgUnits h)).isNone
  | some (i, e) =>
    inUse s e || (makeRoom (modDir s i fun e => { e with resident := false }) (imgUnits h)).isNone

/-- The image has been checked: the entry of its key is taken or replaced (R244). What the check read is read again where
it has to wait after all. -/
def enterLoad (s : State) (j : HotJob) (h : Nat) : State :=
  match dirFind s (hModel h) (hLayer h) with
  | none => match freeDir s with
    | none => endHot s j stRange 0 0
    | some i => if loadWaits s h then dropRead s .model else placeLoad s j h i false
  | some (i, e) =>
    if inUse s e then dropRead s .model
    else if e.pinned && 448 < unitsPinned s - e.units + imgUnits h then endHot s j stRange 0 0
    else if loadWaits s h then dropRead s .model
    else placeLoad s j h i e.pinned

/-- The key of a load cannot be entered, whatever its biases are: no entry is free, or the pinned units would pass their
limit (R244). -/
def loadRefused (s : State) (h : Nat) : Bool :=
  match dirFind s (hModel h) (hLayer h) with
  | none => (freeDir s).isNone
  | some (_, e) => !inUse s e && e.pinned && 448 < unitsPinned s - e.units + imgUnits h

/-- What the manager's check of an image has brought of a range. -/
def modelGot (s : State) (a n : Nat) : List Byte := gotRead s .model a n

/-- The head MODEL_LOAD begins when it may: its header is read and checked, then, when nothing holds its entry any more,
its biases (R244, 05 R101) (DEDUCED, notes/assumptions/32.md). -/
def beginLoad (s : State) (j : HotJob) : State :=
  if mlImage j % 64 != 0 then endHot s j stMisalign 0 0
  else
    reading s .model 7 (some j.ctx) [(mlImage j, 256)] fun s =>
      let h := leNat (modelGot s (mlImage j) 256)
      match worst [(hdrMisaligned h, stMisalign), (!hdrOk h, stBad)] with
      | some st => endHot s j st 0 0
      | none =>
        if loadRefused s h then endHot s j stRange 0 0
        else if loadWaits s h then s
        else
        reading s .model 7 (some j.ctx) (if hSelBias h then [(hBiasAddr h, 4 * hE h)] else []) fun s =>
          if hSelBias h && (f32s (hE h) (modelGot s (hBiasAddr h) (4 * hE h))).any (!isFinite ·) then
            endHot s j stBad 0 0
          else enterLoad s j h

/-- A read of the check met a bus error (05 R101). -/
def modelFailed (s : State) : State :=
  match s.hotq with
  | j :: _ => endHot s j stBus 0 0
  | [] => killReads s (· == .model)

/-! ## MODEL_PIN (10 R249) -/

/-- op of MODEL_PIN -/
def mpOp (raw : BitVec 512) : Nat := rf raw.toNat 8 25 24

/-- The head MODEL_PIN begins when it may (DEDUCED, notes/assumptions/32.md). -/
def beginPin (s : State) (j : HotJob) : State :=
  let op := mpOp j.raw
  match dirFind s (rf j.raw.toNat 8 15 0) (rf j.raw.toNat 8 23 16) with
  | none => endHot s j stRange 0 0
  | some (i, e) =>
    if op == 3 then endHot s j stBad 0 0
    else if op == 0 then
      let s1 := modDir s i fun e => { e with pinned := false }
      endHot s1 j stOk (unitsPinned s1) 0
    else if op == 1 then
      if !(s.ctx j.ctx).lc || (!e.pinned && 448 < unitsPinned s + e.units) then endHot s j stRange 0 0
      else if e.loading then s
      else if e.resident then
        let s1 := modDir s i fun e => { e with pinned := true }
        endHot s1 j stOk (unitsPinned s1) 0
      else
        match makeRoom s e.units with
        | none => s
        | some (s1, n) =>
          startLoad { s1 with hotq := { j with dir := some i, evicted := n } :: s1.hotq.drop 1 } i 7 j.ctx (loadRngs e)
    else if e.pinned then endHot s j stRange 0 0
    else if inUse s e then s
    else
      let s1 := { s with dir := eraseKey i s.dir }
      endHot s1 j stOk (unitsPinned s1) 0

/-- The head of the queue begins when it has not and may. -/
def hotHead (s : State) : State :=
  match s.hotq with
  | [] => s
  | j :: _ =>
    if j.dir.isSome then s
    else if j.isLoad then beginLoad s j else beginPin s j

/-- The manager works on: loads whose reads have returned end, and descriptors begin, in order. -/
def hotSteps : Nat → State → State
  | 0, s => s
  | n + 1, s => hotSteps n (hotHead ((s.dir.map (·.1)).foldl finishLoad s))

/-- The manager's part of what follows of itself. -/
def hotPump (s : State) : State :=
  if s.hotq.isEmpty && !s.dir.any (fun e => e.2.loading) then s else hotSteps (s.hotq.length + 1) s

end Sys2Proof.Machine
end

