-- ==== Sys2Proof/Machine/Biases.lean ====
section
/-!
DEFINITION. The update of selection biases and the statistics record at the end of a reduction (05 R122 to R125).
-/
namespace Sys2Proof.Machine

/-- 2^32 − 1, at which a count saturates. Within the engine a greater number stands for a count that has saturated. -/
def maxCount : Nat := 2 ^ 32 - 1

/-- One bias after the update. -/
def newBias (h total e : Nat) (c : Nat) (b : F32) : F32 :=
  let moved := if c * e < total then addF b (hAdaptRate h) else if total < c * e then subF b (hAdaptRate h) else b
  let lo := negF (hAdaptClamp h)
  let up := if ltF moved lo then lo else moved
  if ltF (hAdaptClamp h) up then hAdaptClamp h else up

/-- The biases after the update. -/
def newBiases (h : Nat) (l : LayerStat) (bs : List F32) : List F32 :=
  let cs := l.counts.map fun n => min n maxCount
  List.zipWith (newBias h (sumNat cs) cs.length) cs bs

/-- The statistics record. A count that would exceed 2^32 − 1 sets bit 31 of the first reserved word. -/
def statRecord (step : BitVec 64) (l : LayerStat) : List Byte :=
  let top := fun n => min n maxCount
  let all := [l.routed, l.exited, l.held, l.invalid] ++ l.counts
  let a := roundUp (4 * l.counts.length) 64
  leBytes 64 (pack [(0, 0, step.toNat), (8, 0, top l.routed), (0xC, 0, top l.exited), (0x10, 0, top l.held),
    (0x14, 0, top l.invalid), (0x18, 31, b2n (all.any (maxCount < ·)))])
    ++ padTo (l.counts.flatMap fun n => leBytes 4 (top n)) a ++ (l.gates.flatMap fun g => leBytes 4 g.toNat)

/-- A write of the reduction, for its context. -/
def statWrite (s : State) (c : CtxId) (a : Nat) (data : List Byte) : State := writeMem s (.stats c) a data 3 (some c)

/-- A MODEL_LOAD that is being checked reads again what the update of a bias state may have changed (10 R244). -/
def recheckLoad (s : State) : State :=
  if s.hotq.head?.any fun j => j.dir.isNone then killReads s (· == .model) else s

/-- The biases of a layer change, in the store and in chip memory, and its record is written: an entry that is being
loaded takes the new biases when its load ends (DEDUCED, notes/assumptions/38.md). -/
def putTotals (s : State) (c : CtxId) (i : Nat) (h : Nat) (u : PendUpdate) (old : List F32) : State :=
  let s1 :=
    if hAdapt h then
      let bs := newBiases h u.stat old
      statWrite (modDir (recheckLoad s) i fun e =>
        if e.resident then { e with bias := bs } else if e.loading then { e with adapted := some bs } else e)
        c (hBiasAddr h) (bs.flatMap fun b => leBytes 4 b.toNat)
    else s
  if hStats h then statWrite s1 c (hStatsAddr h) (statRecord u.step u.stat) else s1

/-- The update at the front of a context is done. -/
def popUpdate (s : State) (c : CtxId) : State :=
  modCtx (killReads s (· == .bias c)) c fun x => { x with updates := x.updates.drop 1 }

/-- Totals of another context that came earlier for the same layer have not been applied: updates of one route context
are applied in the order in which their reductions completed (R124). -/
def updateHeld (s : State) (u : PendUpdate) : Bool :=
  s.ctxs.toList.any fun x => x.updates.any fun v =>
    v.no < u.no && v.stat.model == u.stat.model && v.stat.layer == u.stat.layer

/-- The update at the front of a context takes effect: on the store's biases, or, where the route context is not
resident, on the bias state, read for the context as the Mortar reads (DESIGN CHOICE, notes/assumptions/38.md). -/
def updateFront (s : State) (c : CtxId) (u : PendUpdate) : State :=
  match dirFind s u.stat.model.toNat u.stat.layer.toNat with
  | none => popUpdate s c
  | some (i, e) =>
    let h := leNat e.hdr
    if updateHeld s u then s
    else if e.resident || !hAdapt h then popUpdate (putTotals s c i h u e.bias) c
    else if !(biasWrites s h).isEmpty then s
    else
      reading s (.bias c) 3 (some c) [(hBiasAddr h, 4 * hE h)] fun s =>
        popUpdate (putTotals s c i h u (f32s (hE h) (gotRead s (.bias c) (hBiasAddr h) (4 * hE h)))) c

/-- The updates of a context take effect in order, as far as they can (R122, R123). -/
def updateOn : Nat → CtxId → State → State
  | 0, _, s => s
  | n + 1, c, s =>
    match (s.ctx c).updates with
    | [] => s
    | u :: us =>
      let s1 := updateFront s c u
      if (s1.ctx c).updates.length == us.length then updateOn n c s1 else s1

/-- Every context in turn, `n` times over: an update of one may let one of another go on. -/
def updateTurns : Nat → State → State
  | 0, s => s
  | n + 1, s => updateTurns n ((fins 16).foldl (fun s c => updateOn (s.ctx c).updates.length c s) s)

/-- Every update that can take effect does. -/
def update (s : State) : State := updateTurns (sumNat (s.ctxs.toList.map fun x => x.updates.length)) s

/-- The read of the bias state met a bus error: the context faults, and that update is not made (12 R285)
(DESIGN CHOICE, notes/assumptions/38.md). -/
def updateFailed (s : State) (c : CtxId) : State := update (popUpdate (faultCtx s c stBus none) c)

end Sys2Proof.Machine
end

