-- ==== Sys2Proof/Machine/Credits.lean ====
section
/-!
DEFINITION. Control frames (07 R159, 15 R344), the inbound streams and the credits that go back as block places are freed
(07 R160), and the results whose rows have been written.
-/
namespace Sys2Proof.Machine

/-- ack_timeout in ticks. -/
def ackTicks (s : State) : Nat := 1000 * s.spore.ackTimeout.toNat

/-- lost_timeout in ticks. -/
def lostTicks (s : State) : Nat := 64000 * s.spore.lostTimeout.toNat

/-- The spore core set (07 R165). -/
def sporeCores (s : State) : List PortId := coresOf s s.spore.coreset

/-- 07 R159: the reported load. -/
def reportedLoad (s : State) : Nat := min (sumNat ((sporeCores s).map (pendingAt s))) 0xFFFF

/-- Bytes 0x0 to 0xB of a control frame to an engine. -/
def frameBody (s : State) (kind : Nat) (engine : Bool) (gen : BitVec 8) (seq : BitVec 32) (credits : Nat) : Nat :=
  pack [(0, 0, selfWord s), (0, 17, b2n engine), (0, 20, kind), (0, 24, gen.toNat), (4, 0, seq.toNat), (8, 0, credits),
    (8, 16, reportedLoad s)]

/-- A control frame of 16 bytes goes out as one transfer, bytes 16 to 63 zero (15 R344). -/
def sendTransfer (s : State) (port : Fin 8) (chip : BitVec 16) (frame : Nat) : State :=
  { s with outbox := s.outbox ++ [.transfer port chip false true true (leBytes 64 frame)] }

/-- A control frame goes out. Kinds: 1 ACK, 2 NAK, 3 CREDIT, 4 REFUSE. -/
def sendFrame (s : State) (port : Fin 8) (chip : BitVec 16) (engine : Bool) (gen : BitVec 8) (kind : Nat)
    (seq : BitVec 32) (credits : Nat) : State :=
  let body := frameBody s kind engine gen seq credits
  sendTransfer s port chip (body + crc32c (leBytes 12 body) <<< 96)

/-! ## Inbound streams -/

/-- The stream comes from an engine. -/
def isRx (chip : BitVec 16) (engine : Bool) (r : RxStream) : Bool := r.chip == chip && r.engine == engine

/-- The inbound stream from an engine. -/
def findRx (s : State) (chip : BitVec 16) (engine : Bool) : Option RxStream := s.rx.find? (isRx chip engine)

/-- `f` applied to the inbound stream from an engine. -/
def modRx (s : State) (chip : BitVec 16) (engine : Bool) (f : RxStream → RxStream) : State :=
  { s with rx := updFirst (isRx chip engine) f s.rx }

/-- Returned credits: the reserved pool first, to 8, then the general pool. -/
def refill (n : Nat) (r : RxStream) : RxStream :=
  let k := min n (8 - r.reserved)
  { r with reserved := r.reserved + k, general := r.general + (n - k) }

/-- Block places of a stream are freed: their credits go back in a CREDIT frame (DEDUCED, notes/assumptions/35.md). -/
def freePlaces (s : State) (chip : BitVec 16) (engine : Bool) (n : Nat) : State :=
  if n == 0 then s
  else
    match findRx s chip engine with
    | none => s
    | some r => sendFrame (modRx s chip engine (refill n)) r.port chip engine r.gen 3 (r.expect - 1) n

/-- 07 R160: the places of the RESULTs whose rows have been written, or will not be, are freed
(DEDUCED, notes/assumptions/36.md). -/
def releaseRows (s : State) : State :=
  let held := fun (h : RowHold) => memBusy s (· == .slot h.ctx h.epoch h.index)
  (s.rowHolds.filter fun h => !held h).foldl (fun s h => freePlaces s h.chip h.engine h.places)
    { s with rowHolds := s.rowHolds.filter held }

end Sys2Proof.Machine
end

