-- ==== Sys2Proof/Machine/DmaUnit.lean ====
section
/-!
DEFINITION. A DMA channel at work (14 R318 to R333): register sets, bursts and their requests, comparison, aborts, bus
errors and the end of a descriptor.
-/
namespace Sys2Proof.Machine

/-- Channel `ch`. -/
def State.chan (s : State) (ch : ChanId) : DmaChan := s.dma[ch]

/-- `f` applied to channel `ch`. -/
def modDma (s : State) (ch : ChanId) (f : DmaChan → DmaChan) : State := { s with dma := vmod s.dma ch f }

/-! ## Bursts (14 R320 to R322) -/

/-- Bytes of burst `b`. -/
def burstLen (d : DmaSet) (b : Nat) : Nat := min 4096 (d.len.toNat - 4096 * b)

/-- Some burst of the active descriptor has not been issued. -/
def DmaChan.moreBursts (x : DmaChan) : Bool := 4096 * x.nextBurst < x.active.len.toNat

/-- The pieces of burst `b` on one side: address, length and offset in the transfer. A fixed side is met once for every
unit. -/
def burstPieces (fixed : Bool) (a b n : Nat) : List (Nat × Nat × Nat) :=
  if fixed then tabulate (n / 64) fun i => (a, 64, 4096 * b + 64 * i)
  else (reqPieces n (a + 4096 * b) n).map fun p => (p.1, p.2, p.1 - a)

/-- Chip-memory slots that burst `b` needs, reads and writes (R324). -/
def burstSlots (d : DmaSet) (b : Nat) : Nat :=
  let u := burstLen d b / 64
  (if d.op != 1 && !d.srcHost then u else 0) + (if d.dstHost then 0 else u)

/-- One side of a burst is read (DEDUCED, notes/assumptions/41.md). -/
def readSide (s : State) (ch : ChanId) (d : DmaSet) (b : Nat) (second : Bool) : State :=
  let a := if second then d.dst.toNat else d.src.toNat
  let host := if second then d.dstHost else d.srcHost
  let ps := burstPieces (if second then d.dstFixed else d.srcFixed) a b (burstLen d b)
  if host then
    (if (if second then d.dstFixed else d.srcFixed) then ps else [(a + 4096 * b, burstLen d b, 4096 * b)]).foldl
      (fun s p => hostIssue s (.dmaRead ch b second p.2.2) false p.1 p.2.1 []) s
  else
    request s (ps.map fun p =>
      ⟨0, .dmaRead ch b second p.2.2, false, p.1, p.2.1, [], [], [], 5, some (Fin.ofNat 16 d.ctx.toNat)⟩)

/-- The reads of burst `b`: none for FILL, both sides for COMPARE. -/
def readBurst (s : State) (ch : ChanId) (d : DmaSet) (b : Nat) : State :=
  if d.op == 1 then s
  else
    let s1 := readSide s ch d b false
    if d.op == 2 then readSide s1 ch d b true else s1

/-- The bytes of a burst in ascending offset, from the pieces that arrived. -/
def gather' (ps : List (Nat × List Byte)) : List Byte := ((sortBy (fun a b => a.1 < b.1) ps).map (·.2)).flatten

/-- What a burst writes. -/
def burstData (d : DmaSet) (x : Burst) : List Byte :=
  if d.op == 1 then (List.replicate (burstLen d x.b / 8) (leBytes 8 d.fill.toNat)).flatten else gather' x.src

/-- The writes of a burst. -/
def writeBurst (s : State) (ch : ChanId) (d : DmaSet) (x : Burst) : State :=
  let data := burstData d x
  let a := d.dst.toNat
  let part := fun (p : Nat × Nat × Nat) => slice data (p.2.2 - 4096 * x.b) p.2.1
  if d.dstHost then
    (if d.dstFixed then burstPieces true a x.b data.length else [(a + 4096 * x.b, data.length, 4096 * x.b)]).foldl
      (fun s p => hostIssue s (.dmaWrite ch x.b) true p.1 p.2.1 (part p)) s
  else
    request s ((burstPieces d.dstFixed a x.b data.length).map fun p =>
      ⟨0, .dmaWrite ch x.b, true, p.1, p.2.1, part p, [], [], 5, some (Fin.ofNat 16 d.ctx.toNat)⟩)

/-! ## Requests of a burst -/

/-- The owner is a read of burst `b`. -/
def MemOwner.dmaReadOf (ch : ChanId) (b : Nat) : MemOwner → Bool
  | .dmaRead c k _ _ => c == ch && k == b
  | _ => false

/-- The same at the host bridge. -/
def HostOwner.dmaReadOf (ch : ChanId) (b : Nat) : HostOwner → Bool
  | .dmaRead c k _ _ => c == ch && k == b
  | _ => false

/-- A read of burst `b` has not returned. -/
def burstReading (s : State) (ch : ChanId) (b : Nat) : Bool :=
  memBusy s (MemOwner.dmaReadOf ch b) || s.hostOut.any fun h => HostOwner.dmaReadOf ch b h.owner

/-- A write of burst `b` has not been issued. -/
def burstHeld (s : State) (ch : ChanId) (b : Nat) : Bool := s.memWait.any fun r => r.owner == .dmaWrite ch b

/-- A write of burst `b` has not returned. -/
def burstWriting (s : State) (ch : ChanId) (b : Nat) : Bool :=
  memBusy s (· == .dmaWrite ch b) || s.hostOut.any fun h => h.owner == .dmaWrite ch b

/-- The requests of burst `b` are dropped: those waiting go, and the responses of those issued are discarded. -/
def dropBurst (s : State) (ch : ChanId) (b : Nat) : State :=
  let mine := fun (o : MemOwner) => o.dmaReadOf ch b || o == .dmaWrite ch b
  { s with
    memWait := s.memWait.filter fun r => !mine r.owner
    memOut := s.memOut.map fun r => if mine r.owner then { r with owner := .dmaDead ch } else r
    hostOut := s.hostOut.map fun h =>
      if h.owner.dmaReadOf ch b || h.owner == .dmaWrite ch b then { h with owner := .dmaDead ch } else h }

/-! ## Comparison -/

/-- Some byte has arrived from both sides. -/
def comparing (x : Burst) : Bool := x.src.any fun p => x.snd.any fun q => meets (p.1, p.2.length) (q.1, q.2.length)

/-- The differing offsets of a burst: the first and how many. -/
def burstDiffs (x : Burst) : Option Nat × Nat :=
  let ds := (indexed (List.zip (gather' x.src) (gather' x.snd))).filter fun p => p.2.1 != p.2.2
  (ds.head?.map fun p => 4096 * x.b + p.1, ds.length)

/-- The lower of two offsets. -/
def minOpt (a b : Option Nat) : Option Nat :=
  match a, b with
  | some x, some y => some (min x y)
  | some x, none => some x
  | none, y => y

/-! ## Progress -/

/-- 14 R325: burst `x` is complete, or, with a bus error, nothing of it is outstanding. -/
def burstDone (s : State) (ch : ChanId) (d : DmaSet) (x : Burst) : Bool :=
  !burstReading s ch x.b && !burstWriting s ch x.b && (x.failed || d.op == 2 || x.writing)

/-- A burst leaves the channel. A good one counts in progress and bytes, whole and at its end; one that failed, or that an
abort dropped, counts in neither, though units of it may have been written (DESIGN CHOICE, notes/assumptions/41.md). -/
def endBurst (s : State) (ch : ChanId) (x : Burst) : State :=
  modDma s ch fun k =>
    let k1 := { k with bursts := k.bursts.filter fun y => y.b != x.b }
    if x.failed then k1
    else
      let n := burstLen k.active x.b
      let ds := if k.active.op == 2 then burstDiffs x else (none, 0)
      { k1 with
        progress := k.progress + BitVec.ofNat 48 n
        bytes := k.bytes + BitVec.ofNat 64 n
        firstDiff := minOpt k.firstDiff ds.1
        diffs := k.diffs + ds.2 }

/-- Bursts that are done leave. -/
def endBursts (s : State) (ch : ChanId) : State :=
  (s.chan ch).bursts.foldl (fun s x => if burstDone s ch (s.chan ch).active x then endBurst s ch x else s) s

/-- Burst `x` may begin its writes: its reads have returned and every write of the burst before it has been issued
(DEDUCED, notes/assumptions/41.md). -/
def mayWrite (s : State) (ch : ChanId) (x : Burst) : Bool :=
  let k := s.chan ch
  k.active.op != 2 && !x.writing && !x.failed && !k.aborting && !burstReading s ch x.b
  && k.bursts.all fun y => x.b ≤ y.b || y.failed || (y.writing && !burstHeld s ch y.b)

/-- Burst `b` changed by `f`. -/
def modBurst (s : State) (ch : ChanId) (b : Nat) (f : Burst → Burst) : State :=
  modDma s ch fun k => { k with bursts := updWhere (fun y => y.b == b) f k.bursts }

/-- The bursts that may begin their writes do, lowest first. -/
def startWrites (s : State) (ch : ChanId) : State :=
  (s.chan ch).bursts.foldl (fun s x =>
    if mayWrite s ch x then
      writeBurst (modBurst s ch x.b fun y => { y with writing := true }) ch (s.chan ch).active x
    else s) s

/-- A write of the burst has been issued. -/
def wroteSome (s : State) (ch : ChanId) (d : DmaSet) (x : Burst) : Bool :=
  x.writing && (d.dstHost
    || (s.memWait.filter fun r => r.owner == .dmaWrite ch x.b).length
        < (burstPieces d.dstFixed d.dst.toNat x.b (burstLen d x.b)).length)

/-- The current burst of an abort: the lowest whose writes or comparison have begun (14 R327). -/
def currentBurst (s : State) (ch : ChanId) : Option Nat :=
  let k := s.chan ch
  (k.bursts.find? fun x => wroteSome s ch k.active x || (k.active.op == 2 && comparing x)).map (·.b)

/-- 14 R327: under an abort every later burst is dropped, those apart whose writes have all been issued
(DEDUCED, notes/assumptions/41.md). -/
def discardBursts (s : State) (ch : ChanId) : State :=
  let k := s.chan ch
  let cur := currentBurst s ch
  if !k.aborting then s
  else
    k.bursts.foldl (fun s x =>
      if cur == some x.b || (x.writing && !burstHeld s ch x.b) then s
      else
        modDma (dropBurst s ch x.b) ch fun k => { k with bursts := k.bursts.filter fun y => y.b != x.b }) s

/-- The shadow descriptor becomes active when nothing is (14 R318). -/
def moveShadow (k : DmaChan) : DmaChan :=
  if k.activeValid || !k.shadowValid || k.state == .draining || k.state == .off then k
  else
    { k with
      active := k.shadow, activeValid := true, shadowValid := false, state := .busy
      bursts := [], nextBurst := 0, progress := 0, firstDiff := none, diffs := 0, aborting := false, badBurst := none }

/-- The active descriptor ends with `st` and its values (14 R330). -/
def endActive (s : State) (ch : ChanId) (st v0 v1 : Nat) : State :=
  let d := (s.chan ch).active
  let s1 := modDma s ch fun k => { k with
    activeValid := false, state := if k.state == .busy then .idle else k.state, aborting := false }
  modDma (dmaEnd s1 ch d st v0 v1) ch moveShadow

/-- A write of a burst that was dropped has not returned. -/
def deadWrites (s : State) (ch : ChanId) : Bool :=
  s.memOut.any (fun r => r.owner == .dmaDead ch && r.write) || s.hostOut.any fun h => h.owner == .dmaDead ch && h.write

/-- The end of the active descriptor, once its bursts have gone and the writes of dropped ones have returned (13
R314): BUS_ERROR before ABORTED before the rest (14 R325 to R329). -/
def endTransfer (s : State) (ch : ChanId) : State :=
  let k := s.chan ch
  if !k.activeValid || !k.bursts.isEmpty || deadWrites s ch then s
  else
    match k.badBurst with
    | some b =>
      endActive (modDma s ch fun k => { k with busErrors := satInc k.busErrors }) ch stBus (4096 * b) 0
    | none =>
      if k.aborting then
        let rest := k.active.len.toNat - k.progress.toNat
        endActive (modDma s ch fun k => { k with residue := BitVec.ofNat 48 rest, aborts := satInc k.aborts }) ch
          stAborted rest 0
      else if k.moreBursts then s
      else if k.active.op == 2 then
        match k.firstDiff with
        | some o => endActive s ch stMismatch o k.diffs
        | none => endActive s ch stOk (2 ^ 64 - 1) 0
      else endActive s ch stOk 0 0

/-- A record of the descriptor that a set holds has not been written. -/
def recPending (s : State) (ch : ChanId) (d : DmaSet) : Bool :=
  (s.ctx (Fin.ofNat 16 d.ctx.toNat)).recs.any fun r => r.unit == .dma ch && r.c == d.c

/-- 14 R331: the drain of a channel has ended. -/
def drainOver (s : State) (ch : ChanId) : Bool :=
  let k := s.chan ch
  k.state == .draining && !k.activeValid && !memBusy s (· == .dmaDead ch)
  && !s.hostOut.any (fun h => h.owner == .dmaDead ch) && !recPending s ch k.active && !recPending s ch k.shadow

/-- The end of a drain: OFF, or IDLE under a pending enable. -/
def endChanDrain (s : State) (ch : ChanId) : State :=
  if drainOver s ch then
    modDma s ch fun k => { k with state := if k.enablePending then .idle else .off, enablePending := false }
  else s

/-- What a channel does of itself. -/
def settleDma (s : State) (ch : ChanId) : State :=
  let k := s.chan ch
  if k.state == .idle || k.state == .off then s
  else endChanDrain (endTransfer (startWrites (endBursts (discardBursts s ch) ch) ch) ch) ch

/-! ## Responses -/

/-- Bytes of a burst have arrived. -/
def dmaArrived (s : State) (ch : ChanId) (b : Nat) (second : Bool) (off : Nat) (data : List Byte) : State :=
  modBurst s ch b fun x =>
    if second then { x with snd := x.snd ++ [(off, data)] } else { x with src := x.src ++ [(off, data)] }

/-- bus_err: a bus error has occurred on the channel (14, NDE_DMA_STAT). -/
def dmaBusErr (s : State) (ch : ChanId) : State := modDma s ch fun k => { k with busErr := true }

/-- 14 R326: a bus error of burst `b`; its writes that have not been issued are not. -/
def dmaFailed (s : State) (ch : ChanId) (b : Nat) : State :=
  let s1 := { s with memWait := s.memWait.filter fun r => r.owner != .dmaWrite ch b }
  modDma (modBurst (dmaBusErr s1 ch) ch b fun x => { x with failed := true }) ch fun k =>
    { k with badBurst := minOpt k.badBurst (some b) }

end Sys2Proof.Machine
end

