-- ==== Sys2Proof/Machine/Tiles.lean ====
section
/-!
DEFINITION. What the tiles in flight do of themselves: a tile takes its Route Table bank (01 R10), its fill ends (05
R110, 08 R187), its Token Stage half is released (R10), and its tokens become ready for combine (08 R182).
-/
namespace Sys2Proof.Machine

/-- The job of a tile. -/
def tileJob (s : State) (t : Tile) : Option TpJob := (s.ctx t.ctx).tp.find? fun j => j.c == t.c

/-- The operands of a tile's descriptor. -/
def tileOps (s : State) (t : Tile) : TpOps := ((tileJob s t).map TpJob.ops).getD ⟨0, 0⟩

/-- A tensor that a descriptor in progress names, whether or not a later TDESC_DESTROY has named it. -/
def heldTensor (x : Ctx) (i : Nat) : Option TDesc := lookup i x.tensors

/-- `f` applied to the Route Table entries of a tile. -/
def modEntries (s : State) (t : Tile) (f : List (Nat × RtEntry) → List (Nat × RtEntry)) : State :=
  match t.bank with
  | some b => { s with banks := s.banks.set b { s.banks[b] with entries := f s.banks[b].entries } }
  | none => s

/-- 08 R181: the slot is expected. -/
def expected (s : State) (t : Tile) (i : Nat) : Bool := let r := tileEntry s t i; rtValid r && rtDisp r != 3

/-- Status code of 05 R111. -/
def TokStatus.code : TokStatus → Nat
  | .routed => 0
  | .exited => 1
  | .invalid => 2
  | .masked => 3

/-- Status of a code. -/
def statusOf (n : Nat) : TokStatus :=
  match n with
  | 0 => .routed
  | 1 => .exited
  | 2 => .invalid
  | _ => .masked

/-- Where token `i` of a tile is staged: enabled slice i mod m, and the byte of its Token Stage (02 R48). -/
def stagePlace (s : State) (t : Tile) (i : Nat) : Option SliceId × Nat :=
  let m := max 1 (enabledSlices s).length
  ((enabledSlices s)[i % m]?, t.stageAt + i / m * rowBytes t.d t.rowFmt)

/-- A row that staging must bring: every row of a TILE_ROUTE or TILE_REVERSE, the rows of status 1 to 3 of a
TILE_COMBINE (08 R196). -/
def Tile.wantsRow (t : Tile) (k : Tok) : Bool := t.kind != .combine || k.status != some .routed

/-- Every row of the tile is staged. -/
def Tile.staged (t : Tile) : Bool := t.toks.all fun k => !t.wantsRow k || k.row.isSome

/-- The tile may take a bank: stage 5 of the tile before has ended, and its stage 2 has a token
(DEDUCED, notes/assumptions/21.md). -/
def mayTakeBank (s : State) (t : Tile) : Bool :=
  t.bank.isNone && !t.dead && (olderTiles s t).all (·.filled)
  && (if t.kind == .route then t.toks.any (fun k => k.row.isSome) else t.staged)

/-- The entries of a log at their indices. -/
def logEntries (t : Tile) : List (Nat × RtEntry) := (indexed t.log).map fun p => (p.1, p.2)

/-- The tile takes a bank: its registers are written and its fill bits cleared; a log's entries are loaded, and for a
TILE_COMBINE every slot stands already. -/
def takeBank (s : State) (t : Tile) : State :=
  match (fins 2).find? fun b => !s.banks[b].busy with
  | none => s
  | some b =>
    let old := s.banks[b].entries
    let es := if t.kind == .route then old else logEntries t ++ old.filter fun e => t.log.length ≤ e.1
    let bank : Bank := ⟨es, true, BitVec.ofNat 4 t.ctx.val, BitVec.ofNat 4 (t.k - 1), BitVec.ofNat 13 t.n, t.epoch⟩
    modTile { s with banks := s.banks.set b bank } t.ctx t.epoch fun t => { t with
      bank := some b, fill := List.replicate (t.n * t.k) (t.kind == .combine), fillPos := if t.kind == .route then 0 else t.n }

/-- A token's k Route Table entries (05 R109, R110): those of its choices, or entries with valid 0. -/
def entriesOf (t k : Nat) (held : Bool) (cs : List (Nat × F32)) : List (Nat × RtEntry) :=
  tabulate k fun j => (t * k + j,
    match cs[j]? with
    | some (e, g) => rtFill t j k e g held
    | none => rtEmpty t j k)

/-- The tokens whose entries fill writes next: those with an outcome, in ascending order without a gap (05 R110). -/
def fillNext (t : Tile) : List (Nat × Tok) :=
  ((indexed t.toks).drop t.fillPos).takeWhile fun p => p.2.status.isSome

/-- Fill writes the entries whose turn has come: all n × k of a tile in ascending index (05 R110). -/
def fillMore (s : State) (t : Tile) : State :=
  let ps := fillNext t
  let es := ps.flatMap fun p => entriesOf p.1 t.k p.2.held p.2.choices
  if t.bank.isNone || ps.isEmpty then s
  else modTile (modEntries s t fun old => es.foldl (fun es e => insertKey e.1 e.2 es) old) t.ctx t.epoch fun t =>
    { t with fillPos := t.fillPos + ps.length }

/-- The compact index of each token, from a first one. -/
def withCompact : Nat → List Tok → List Tok
  | _, [] => []
  | c, k :: ks => { k with compact := c } :: withCompact (if k.kept then c + 1 else c) ks

/-- Route Table fill ends: the compact indices are fixed. A log's tile of TILE_COMBINE needs no dispatch. -/
def endFill (s : State) (t : Tile) : State :=
  let base := ((tileJob s t).map (·.compact)).getD 0
  let s1 := modTile s t.ctx t.epoch fun t => { t with
    filled := true, bucketed := t.kind == .combine, toks := withCompact base t.toks }
  modTp s1 t.ctx t.c fun j => { j with compact := j.compact + (t.toks.filter Tok.kept).length }

/-- Some packet of the tile is still to be fed. -/
def feeds (s : State) (t : Tile) : Bool :=
  s.queues.toList.any fun q => q.packets.any fun p => isPktOf t.ctx t.epoch p && p.state != .awaiting

/-- 01 R10: the tile may release its half. A TILE_COMBINE feeds nothing and sends nothing: its half is released once
the rows it stages are combined (DEDUCED, notes/assumptions/27.md). -/
def mayFreeHalf (s : State) (t : Tile) : Bool :=
  t.halfHeld && !t.dead && t.bucketed && t.later.isEmpty && t.writers.isEmpty && !feeds s t
  && !sending s (isSporeOf t.ctx t.epoch) && (olderTiles s t).all (fun x => !x.halfHeld)
  && (t.kind != .combine || t.toks.all fun k => !t.wantsRow k || k.combined)

/-- Token `i` of the tile is ready (08 R182). -/
def tokenReady (s : State) (t : Tile) (i : Nat) : Bool :=
  t.bucketed && (tabulate t.k fun j => t.k * i + j).all fun x => !expected s t x || t.fill.getD x false

/-- Tokens newly ready. -/
def newlyReady (s : State) (t : Tile) : List (CtxId × BitVec 16 × Nat) :=
  ((indexed t.toks).filter fun p => !p.2.combined && !p.2.mixing && !s.ready.contains (t.ctx, t.epoch, p.1) && tokenReady s t p.1).map
    fun p => (t.ctx, t.epoch, p.1)

/-- The tile again, after a change. -/
def again (s : State) (t : Tile) (f : State → Tile → State) : State :=
  match findTile s t.ctx t.epoch with
  | some t' => f s t'
  | none => s

/-- What one tile does of itself. -/
def settleTile (s : State) (t : Tile) : State :=
  let s1 := again s t fun s t => if mayTakeBank s t then takeBank s t else s
  let s2 := again (again s1 t fillMore) t fun s t =>
    if t.bank.isSome && !t.filled && t.fillPos == t.n then endFill s t else s
  let s3 := again s2 t fun s t => { s with ready := s.ready ++ newlyReady s t }
  again s3 t fun s t =>
    if mayFreeHalf s t then modTile s t.ctx t.epoch fun t => { t with halfHeld := false } else s

/-- A frame is in use until its token's output write has been issued (08 R192). -/
def frameUsed (s : State) (f : Frame) : Bool :=
  match findTile s f.ctx f.epoch with
  | some t => !((t.toks[f.tok]?).any (·.combined)) || s.memWait.any fun r => r.owner == .out f.ctx f.epoch f.tok
  | none => false

/-- Frames no longer in use are free. -/
def freeFrames (s : State) : State := { s with frames := s.frames.filter (frameUsed s) }

/-- What every tile in flight does of itself, oldest first (DEDUCED, notes/assumptions/33.md). -/
def settleTiles (s : State) : State :=
  let live := s.tiles.filter fun t => !t.dead
  let s1 := { s with ready := s.ready.filter fun r => live.any fun t => t.ctx == r.1 && t.epoch == r.2.1 }
  freeFrames (live.foldl settleTile s1)

end Sys2Proof.Machine
end

