-- ==== Sys2Proof/Machine/Drain.lean ====
section
/-!
DEFINITION. The core drain (06 R147, 08 R180, R181, 15 R341, R342): tags, the rows that results are assembled into, the
RESULTs of spore packets (07 R168), end-of-packet marks, and the drain lanes.
-/
namespace Sys2Proof.Machine

/-- `f` applied to the queue of a port. -/
def modQueue (s : State) (p : PortId) (f : CoreQ → CoreQ) : State := { s with queues := vmod s.queues p f }

/-- The context of a packet of this engine. -/
def pktCtx (k : Packet) : CtxId := Fin.ofNat 16 k.ctx.toNat

/-- `f` applied to the packet of a queue with a commit_seq. -/
def modPkt (n : BitVec 16) (f : Packet → Packet) (q : CoreQ) : CoreQ :=
  { q with packets := updFirst (fun k => k.seq == n) f q.packets }

/-! ## Tags (15 R341) -/

/-- mark -/
def tagMark (g : BitVec 128) : Bool := rb g.toNat 0 0
/-- last -/
def tagLast (g : BitVec 128) : Bool := rb g.toNat 0 1
/-- flit -/
def tagFlit (g : BitVec 128) : Nat := rf g.toNat 0 9 2
/-- result_slot -/
def tagSlot (g : BitVec 128) : Nat := rf g.toNat 0 25 10

/-- The tag names the packet: context, engine, spore, src_chip and epoch are its own. -/
def tagNames (g : BitVec 128) (k : Packet) : Bool :=
  let n := g.toNat
  (k.state == .feeding || k.state == .awaiting) && rf n 0 29 26 == k.ctx.toNat && rb n 0 30 == k.engine
    && rb n 0 31 == k.spore && rf n 4 15 0 == k.srcChip.toNat && rf n 4 31 16 == k.epoch.toNat

/-- The packet a flit belongs to: one that holds its slot, else the first that it names
(DEDUCED, notes/assumptions/26.md). -/
def drainPkt (s : State) (p : PortId) (g : BitVec 128) : Option Packet :=
  let ks := s.queues[p].packets.filter (tagNames g)
  match ks.find? fun k => k.slots.contains (tagSlot g) with
  | some k => some k
  | none => ks.head?

/-- A flit or mark that names no packet sets drain_bad. -/
def drainBad (s : State) : State := { s with portErr := { s.portErr with drainBad := true } }

/-! ## Results (07 R168, 08 R180, R181) -/

/-- A write of a slot has not returned. -/
def slotBusy (s : State) (t : Tile) (i : Nat) : Bool :=
  memBusy s fun o => match o with
    | .slot c e j => c == t.ctx && e == t.epoch && i == j
    | _ => false

/-- Where a slot's row lies (R180). -/
def slotAddr (s : State) (t : Tile) (i : Nat) : Nat :=
  let o := tileOps s t
  cbRes o + (t.tau0 * t.k + i) * rowBytes t.d (cbResFmt o)

/-- A result row of a tile is written to its slot. -/
def writeSlot (s : State) (t : Tile) (i : Nat) (row : List Byte) : State :=
  writeMem s (.slot t.ctx t.epoch i) (slotAddr s t i) row 3 (some t.ctx)

/-- A row for the slot is still to come: the slot lies in the tile, is expected, and has none (R181). -/
def localDue (s : State) (t : Tile) (i : Nat) : Bool :=
  i < t.n * t.k && expected s t i && !resultIn s t i && !slotBusy s t i

/-- A local row (R181): late rows are discarded, a second row for a slot or one that is not expected is counted
(DEDUCED, notes/assumptions/26.md). -/
def localRow (s : State) (k : Packet) (slot : Nat) (row : List Byte) : State :=
  match findTile s (pktCtx k) k.epoch with
  | none => s
  | some t =>
    if !localDue s t slot then teleEng s 7 1 else writeSlot s t slot row

/-- A floor covers an epoch of a source's context (07 R166). -/
def floored (s : State) (chip : BitVec 16) (engine : Bool) (ctx : BitVec 4) (e : BitVec 16) : Bool :=
  s.floors.any fun f => f.chip == chip && f.engine == engine && f.ctx == ctx && olderEpoch e f.floor

/-- The RESULT message of a row (R168), with the conversion events of its encoding. -/
def resultBytes (s : State) (port : PortId) (k : Packet) (g : BitVec 128) (row : List Byte) : List Byte × ConvCount :=
  let n := g.toNat
  let fmt := if k.lcomp then k.rowFmt else k.outFmt
  let hdr := leBytes 64 (pack [(0, 0, s.fuse.chipId.toNat), (0, 16, k.ctx.toNat), (0, 20, b2n s.fuse.engineId),
    (0, 21, b2n k.engine), (0, 24, fmt), (4, 0, k.epoch.toNat), (4, 16, rf n 8 3 0), (4, 20, rf n 8 15 4),
    (8, 0, tagSlot g), (8, 16, port.val)])
  let enc := linkEncode k.d k.outFmt (if k.lcomp then k.rowFmt else 0) row
  (hdr ++ enc.1, enc.2)

/-- A row of a spore packet: discarded where its home engine is lost or a floor covers it, else sent home
(DEDUCED, notes/assumptions/26.md). Its conversions count for the context whose number the packet carries (02 R45;
DESIGN CHOICE, notes/assumptions/24.md). -/
def sporeRow (s : State) (port : PortId) (k : Packet) (g : BitVec 128) (row : List Byte) : State :=
  if k.lost || destLost s k.srcChip k.engine then teleEng s 3 1
  else if floored s k.srcChip k.engine k.ctx k.epoch then s
  else
    let b := resultBytes s port k g row
    sendMsg (convCount s (pktCtx k) b.2) k.srcChip k.engine ⟨2, .result, b.1⟩

/-- The rows in assembly on a port: a flit takes its place. -/
def addFlit (g : BitVec 128) (data : List Byte) (q : CoreQ) : CoreQ :=
  let have' := if tagFlit g == 0 then [] else q.drainRow
  { q with drainTag := g, drainRow := padTo have' (256 * tagFlit g) ++ data }

/-- The last flit of a row has come. -/
def endRow (s : State) (port : PortId) (k : Packet) (g : BitVec 128) : State :=
  let row := padTo s.queues[port].drainRow (rowBytes k.d k.outFmt)
  let s1 := modQueue s port fun q =>
    modPkt k.seq (fun k => { k with returned := min k.choices (k.returned + 1) }) { q with drainRow := [] }
  if k.spore then sporeRow s1 port k g row else localRow s1 k (tagSlot g) row

/-- A drain flit is placed. -/
def drainFlit (s : State) (port : PortId) (g : BitVec 128) (data : List Byte) : State :=
  match drainPkt s port g with
  | none => drainBad s
  | some k =>
    let s1 := modQueue s port (addFlit g data)
    if tagLast g then endRow s1 port k g else s1

/-- The packet that an end-of-packet mark ends: the oldest AWAITING one it names with every result returned, else the
oldest it names (DEDUCED, notes/assumptions/26.md). -/
def markedPkt (s : State) (p : PortId) (g : BitVec 128) : Option Packet :=
  let ks := s.queues[p].packets.filter fun k => tagNames g k && k.state == .awaiting
  match ks.find? fun k => k.aborted || k.choices ≤ k.returned with
  | some k => some k
  | none => ks.head?

/-- An end-of-packet mark: its packet leaves AWAITING and its queue entry is free. A mark that names no packet in AWAITING
sets drain_bad and ends none, also where it names one in FEEDING (DESIGN CHOICE, notes/assumptions/26.md). -/
def endPacket (s : State) (port : PortId) (g : BitVec 128) : State :=
  match markedPkt s port g with
  | none => drainBad s
  | some k => modQueue s port fun q => { q with packets := q.packets.filter fun x => x.seq != k.seq }

/-! ## The drain lanes (06 R147, 15 R342) -/

/-- The row that a last flit ends cannot be placed: the memory port does not take its write now, or the stream home has
no credit for a RESULT and no room beside the 128 streams (DEDUCED, notes/assumptions/26.md). -/
def drainHeld (s : State) (k : Packet) (g : BitVec 128) : Bool :=
  if k.spore then
    !k.lost && s.up && match findTx s k.srcChip k.engine with
      | some t => !t.ended && t.general + t.reserved == 0
      | none => 128 ≤ s.tx.length
  else
    match findTile s (pktCtx k) k.epoch with
    | none => false
    | some t =>
      localDue s t (tagSlot g)
      && !(readReqs .dead (slotAddr s t (tagSlot g)) (rowBytes k.d k.outFmt) 3 (some t.ctx)).all (reqReady s)

/-- The flit or mark may leave its port's drain lane: all but the last flit of a row that cannot be placed. -/
def mayDrain (s : State) (l : PortId × BitVec 128 × List Byte) : Bool :=
  tagMark l.2.1 || !(tagLast l.2.1 && (drainPkt s l.1 l.2.1).any fun k => drainHeld s k l.2.1)

/-- The lane served next, round robin by ascending port (R147). -/
def laneTurn (s : State) : Option (PortId × BitVec 128 × List Byte) :=
  firstMin (fun a b => (a.1.val + 79 - s.drainLast.val) % 80 < (b.1.val + 79 - s.drainLast.val) % 80)
    (s.lanes.filter (mayDrain s))

/-- One flit or mark leaves its lane. -/
def drainLane (s : State) (l : PortId × BitVec 128 × List Byte) : State :=
  let s1 := { s with lanes := s.lanes.filter fun k => k.1 != l.1, drainLast := l.1 }
  if tagMark l.2.1 then endPacket s1 l.1 l.2.1 else drainFlit s1 l.1 l.2.1 l.2.2

/-- The lanes are served until each is free or held. -/
def drainLanes : Nat → State → State
  | 0, s => s
  | n + 1, s =>
    match laneTurn s with
    | none => s
    | some l => drainLanes n (drainLane s l)

/-- The drain's part of what follows of itself. -/
def settleDrain (s : State) : State := drainLanes s.lanes.length s

/-- A flit or mark comes on a port: it stands in the port's drain lane, which holds one. -/
def toLane (s : State) (port : PortId) (g : BitVec 128) (data : List Byte) : State :=
  { s with lanes := s.lanes ++ [(port, g, data)] }

/-- The port's drain lane holds a flit or mark that the engine has not placed. -/
def laneFull (s : State) (port : PortId) : Bool := s.lanes.any fun l => l.1 == port

end Sys2Proof.Machine
end

