-- ==== Sys2Proof/Machine/Owners.lean ====
section
/-!
DEFINITION. The owner's side of a distributed tensor: publishing an epoch (09 R214), and answering the READ_REQs of
other engines (07 R175, R176).
-/
namespace Sys2Proof.Machine

/-! ## Requests -/

/-- The fields of a READ_REQ (R176). -/
def reqFields : List (Nat × Nat × Nat) :=
  [(0, 16, 0), (4, 13, 0), (4, 31, 16), (8, 31, 0), (0xC, 16, 0), (0x10, 7, 0), (0x10, 31, 16), (0x14, 23, 0),
   (0x18, 23, 0)]

/-- owner_index -/
def rqIndex (p : PendRead) : Nat := rf p.raw.toNat 4 13 0
/-- need_epoch -/
def rqNeed (p : PendRead) : Nat := rf p.raw.toNat 4 31 16
/-- offset -/
def rqOffset (p : PendRead) : Nat := rf p.raw.toNat 8 31 0
/-- length -/
def rqLen (p : PendRead) : Nat := rf p.raw.toNat 0xC 16 0
/-- link_fmt -/
def rqLink (p : PendRead) : Nat := rf p.raw.toNat 0x10 3 0
/-- src_fmt -/
def rqFmt (p : PendRead) : Nat := rf p.raw.toNat 0x10 7 4
/-- tag -/
def rqTag (p : PendRead) : Nat := rf p.raw.toNat 0x10 31 16
/-- row_elems -/
def rqElems (p : PendRead) : Nat := rf p.raw.toNat 0x14 23 0
/-- row_bytes -/
def rqRow (p : PendRead) : Nat := rf p.raw.toNat 0x18 23 0

/-- Bytes of the block that an Owner Table entry describes. -/
def blockBytesOf (s : State) (e : Nat) : Nat :=
  match lookup e s.owner with
  | none => 0
  | some o => match lookup o.index (s.ctx o.ctx).tensors with
    | some t => blockFoot t (e - t.ownerBase)
    | none => 0

/-- The rows asked for are whole rows of a known format inside the block (DEDUCED, notes/assumptions/39.md). -/
def rowsOk (s : State) (p : PendRead) : Bool :=
  rqLen p == 0
  || (rqLen p % 64 == 0 && rqLen p ≤ 65536 && rqOffset p % 64 == 0 && linkOk (rqLink p) && rqRow p != 0
      && rqRow p == rowBytes (rqElems p) (rqFmt p) && rqLen p % rqRow p == 0
      && rqOffset p + rqLen p ≤ blockBytesOf s (rqIndex p))

/-- The engine has the block, and the request stays inside it. -/
def hasBlock (s : State) (p : PendRead) : Bool :=
  let raw := ownerRaw s (rqIndex p)
  reservedZero p.raw.toNat reqFields && owValid raw && owOwn raw && rowsOk s p

/-- The block has reached the required epoch. -/
def reqReached (s : State) (p : PendRead) : Bool := reachedEpoch (owEpoch (ownerRaw s (rqIndex p))) (rqNeed p)

/-! ## Answers -/

/-- A READ_DATA goes to the requester. -/
def sendData (s : State) (p : PendRead) (status fmt : Nat) (data : List Byte) : State :=
  let hdr := leBytes 64 (pack [(0, 0, selfWord s), (4, 0, status), (4, 4, fmt), (4, 16, rqTag p), (8, 0, data.length),
    (0xC, 0, owEpoch (ownerRaw s (rqIndex p)))])
  sendMsg s p.chip p.engine ⟨7, .readData, hdr ++ data⟩

/-- The format in which a request's rows travel. -/
def rqTravel (p : PendRead) : Nat := if rqLink p == 0 then rqFmt p else rqLink p

/-- Where a request's rows stand in chip memory. -/
def rqAddr (s : State) (p : PendRead) : Nat := owBase (ownerRaw s (rqIndex p)) + rqOffset p

/-- The rows as they travel, with the conversion events of their encoding. -/
def travelRows (p : PendRead) (bytes : List Byte) : List Byte × ConvCount :=
  let rows := (chunks (rqRow p) bytes).map fun r => linkEncode (rqElems p) (rqFmt p) (rqLink p) r
  (rows.flatMap (·.1), rows.foldl (fun n r => n.add r.2) ConvCount.zero)

/-- Conversion events of rows that travel count for the context whose tensor the block is of (02 R45; DESIGN CHOICE,
notes/assumptions/24.md). -/
def travelCount (s : State) (p : PendRead) (n : ConvCount) : State :=
  match lookup (rqIndex p) s.owner with
  | some o => convCount s o.ctx n
  | none => s

/-- Request number `n` is no longer being answered. -/
def endServe (s : State) (n : Nat) : State := { dropRead s (.serve n) with serving := eraseKey n s.serving }

/-- A request being answered: its rows are read from chip memory, uncharged, and go out. -/
def serveRead (s : State) (n : Nat) : State :=
  match lookup n s.serving with
  | none => s
  | some p =>
    if !hasBlock s p then sendData (endServe s n) p 2 (rqTravel p) []
    else
      reading s (.serve n) 7 none [(rqAddr s p, rqLen p)] fun s =>
        let rows := travelRows p (gotRead s (.serve n) (rqAddr s p) (rqLen p))
        sendData (travelCount (endServe s n) p rows.2) p 0 (rqTravel p) rows.1

/-- The read of a request's rows met a bus error: status 3 (07 R175). -/
def serveFailed (s : State) (n : Nat) : State :=
  match lookup n s.serving with
  | none => s
  | some p => sendData (killReads (endServe s n) (· == .serve n)) p 3 (rqTravel p) []

/-- A request whose block has reached its epoch is answered (DEDUCED, notes/assumptions/39.md). -/
def answerRead (s : State) (p : PendRead) : State :=
  if !hasBlock s p then sendData s p 2 (rqTravel p) []
  else if rqLen p == 0 then sendData s p 0 (rqTravel p) []
  else serveRead { s with serving := s.serving ++ [(s.nextServe, p)], nextServe := s.nextServe + 1 } s.nextServe

/-- A READ_REQ arrives: answered, kept in the pending list of 256, or refused (DEDUCED, notes/assumptions/39.md). -/
def acceptRead (s : State) (p : PendRead) : State :=
  if !hasBlock s p || reqReached s p then answerRead s p
  else if s.readPend.length < 256 then { s with readPend := s.readPend ++ [p] }
  else sendData s p 1 (rqTravel p) []

/-- Pending requests whose block has reached its epoch, or is gone, are answered. -/
def releaseReads (s : State) : State :=
  let go := fun p => !hasBlock s p || reqReached s p
  (s.readPend.filter go).foldl answerRead { s with readPend := s.readPend.filter fun p => !go p }

/-! ## Publishing (09 R214) -/

/-- The entry with its epoch set. -/
def withEpoch (raw : BitVec 128) (e : Nat) : BitVec 128 :=
  let n := raw.toNat
  BitVec.ofNat 128 (n - (owEpoch n <<< 32) + ((e % 65536) <<< 32))

/-- One own entry advances to an epoch that is newer than its own. -/
def publishOne (epoch : Nat) (s : State) (e : Nat) : State :=
  let raw := ownerRaw s e
  let k := subMod 16 epoch (owEpoch raw)
  if owOwn raw && 1 ≤ k && k ≤ 32767 then
    teleEng { s with owner := modKey e (fun o => { o with raw := withEpoch o.raw epoch }) s.owner } 8 1
  else s

/-- The entries a completed descriptor wrote to are published, which releases the reads that waited
(DEDUCED, notes/assumptions/39.md). -/
def publish (s : State) (epoch : Nat) (es : List Nat) : State := releaseReads (es.foldl (publishOne epoch) s)

end Sys2Proof.Machine
end

