-- ==== Sys2Proof/Machine/MoverUnit.lean ====
section
/-!
DEFINITION. A gather channel at work (09 R207 to R227): which source rows a destination row needs, its bytes, reads of
own and remote blocks, epoch waits, and the end of a mover descriptor.
-/
namespace Sys2Proof.Machine

/-! ## Operands (13 R305, R306) -/

/-- dst_tdesc -/
def mvDst (r : BitVec 512) : Nat := rf r.toNat 8 15 8
/-- chan -/
def mvChan (r : BitVec 512) : Nat := rf r.toNat 8 19 16
/-- rounding -/
def mvRound (r : BitVec 512) : Nat := rf r.toNat 8 21 20
/-- publish_en -/
def mvPublish (r : BitVec 512) : Bool := rb r.toNat 8 22
/-- rng_step_en -/
def mvReplay (r : BitVec 512) : Bool := rb r.toNat 8 24
/-- publish_epoch -/
def mvPubEpoch (r : BitVec 512) : Nat := rf r.toNat 0xC 15 0
/-- need_epoch -/
def mvNeedEpoch (r : BitVec 512) : Nat := rf r.toNat 0xC 31 16
/-- rnd_seq -/
def mvSeq (r : BitVec 512) : Nat := rf r.toNat 0x10 9 0
/-- rng_step -/
def mvStep (r : BitVec 512) : Nat := rf r.toNat 0x18 63 0
/-- fn of XFORM_COPY -/
def xfFn (r : BitVec 512) : Nat := rf r.toNat 0x20 3 0
/-- sfu_mode -/
def xfSwift (r : BitVec 512) : Bool := rb r.toNat 0x20 4
/-- bias_sel -/
def xfBiasSel (r : BitVec 512) : Bool := rb r.toNat 0x20 5
/-- scale_sel -/
def xfScaleSel (r : BitVec 512) : Nat := rf r.toNat 0x20 7 6
/-- scale -/
def xfScale (r : BitVec 512) : F32 := BitVec.ofNat 32 (rf r.toNat 0x24 31 0)
/-- bias_addr -/
def xfBiasAddr (r : BitVec 512) : Nat := rf r.toNat 0x28 47 0
/-- scale_addr -/
def xfScaleAddr (r : BitVec 512) : Nat := rf r.toNat 0x30 47 0
/-- g of GATHER and SCATTER_ACC -/
def gsDim (r : BitVec 512) : Nat := rf r.toNat 0x20 2 0
/-- acc_init -/
def scInit (r : BitVec 512) : Bool := rb r.toNat 0x20 3
/-- idx_count -/
def gsCount (r : BitVec 512) : Nat := rf r.toNat 0x24 24 0
/-- idx_addr -/
def gsAddr (r : BitVec 512) : Nat := rf r.toNat 0x28 47 0
/-- a of TRANSPOSE -/
def tpA (r : BitVec 512) : Nat := rf r.toNat 0x20 2 0
/-- b -/
def tpB (r : BitVec 512) : Nat := rf r.toNat 0x20 5 3
/-- pad_value of EXPAND -/
def exPad (r : BitVec 512) : F32 := BitVec.ofNat 32 (rf r.toNat 0x20 31 0)

/-- The numbers of one spatial dimension of an EXPAND (R224). -/
structure Spatial where
  kern : Nat
  stride : Nat
  dil : Nat
  up : Nat
  mode : Nat
  lo : Nat
  hi : Nat
  deriving DecidableEq, Repr

/-- Spatial dimension `i`, from 0 for width. -/
def exDim (r : BitVec 512) (i : Nat) : Spatial :=
  let a := 0x24 + 8 * i
  ⟨rf r.toNat a 3 0 + 1, rf r.toNat a 7 4 + 1, rf r.toNat a 15 8, rf r.toNat a 19 16 + 1, rf r.toNat a 21 20,
    rf r.toNat (a + 4) 7 0, rf r.toNat (a + 4) 15 8⟩

/-- Some function operand is named (04 R87). -/
def xfNamed (r : BitVec 512) : Bool := xfFn r != 0 || xfBiasSel r || xfScaleSel r != 0

/-! ## What a destination row needs -/

/-- 09 R215: an index along a dimension of size `n`. -/
def resolveIdx (wrap : Bool) (n : Nat) (v : BitVec 32) : Option Nat :=
  let i := v.toInt
  if 0 ≤ i && i < n then some i.toNat
  else if wrap && -(n : Int) ≤ i && i < 0 then some (i + n).toNat
  else none

/-- How one coordinate of an EXPAND resolves (R225). -/
inductive Tap where
  | at (x : Nat)
  | zero
  | const
  deriving DecidableEq, Repr

/-- 09 R225: the source coordinate of output `o` and tap `k` along a dimension of extent `n`. -/
def resolveTap (d : Spatial) (n o k : Nat) : Tap :=
  let xu : Int := (o * d.stride + k * d.dil : Nat) - (d.lo : Int)
  if 0 ≤ xu && xu < ((n - 1) * d.up + 1 : Nat) then
    if xu.toNat % d.up != 0 then .zero else .at (xu.toNat / d.up)
  else
    match d.mode with
    | 0 => .zero
    | 1 => .const
    | 2 =>
      if n == 1 then .at 0
      else
        let per := 2 * (n - 1)
        let y := (xu % (per : Int)).toNat
        .at (if n ≤ y then per - y else y)
    | _ => .at (if xu < 0 then 0 else n - 1)

/-- What one place in the mover's order is about. -/
structure RowPlan where
  /-- destination row, by row order -/
  dst : Nat
  /-- source rows, in the order of use -/
  needs : List Nat
  /-- the row holds this value in every element -/
  pad : Option F32
  /-- the row is out of bounds -/
  oob : Bool
  /-- the row is not written -/
  skip : Bool
  deriving DecidableEq, Repr

/-- A row made of source rows. -/
def planOf (dst : Nat) (needs : List Nat) : RowPlan := ⟨dst, needs, none, false, false⟩

/-- XFORM_COPY: the source rows that hold the elements of destination row `n` (R219). -/
def planXform (src dst : TDesc) (n : Nat) : RowPlan :=
  let dl := tdSize dst 0
  let sl := tdSize src 0
  let q := n * dl / sl
  planOf n (tabulate (((n + 1) * dl - 1) / sl - q + 1) (q + ·))

/-- GATHER (R216). -/
def planGather (r : BitVec 512) (src dst : TDesc) (idx : List (BitVec 32)) (n : Nat) : RowPlan :=
  let g := gsDim r
  let y := rowCoords dst n
  match resolveIdx src.wrap (tdSize src g) (idx.getD (y.getD (g - 1) 0) 0) with
  | some v => planOf n [rowIndex src (y.set (g - 1) v)]
  | none => ⟨n, [], some src.fill, true, false⟩

/-- SCATTER_ACC: every source position whose index resolves to the row, ascending (R217). -/
def planScatter (r : BitVec 512) (src dst : TDesc) (idx : List (BitVec 32)) (n : Nat) : RowPlan :=
  let g := gsDim r
  let y := rowCoords dst n
  let v := y.getD (g - 1) 0
  let ps := ((indexed idx).filter fun p => resolveIdx dst.wrap (tdSize dst g) p.2 == some v).map (·.1)
  ⟨n, ps.map fun p => rowIndex src (y.set (g - 1) p), none, false, ps.isEmpty⟩

/-- Coordinates with two dimensions exchanged. -/
def swapCoords (y : List Nat) (a b : Nat) : List Nat := (y.set (a - 1) (y.getD (b - 1) 0)).set (b - 1) (y.getD (a - 1) 0)

/-- The coordinates of plane `n` in dimensions 1 to 5 but `b`, which is 0. -/
def planeCoords (src : TDesc) (b n : Nat) : List Nat :=
  (((tabulate 5 (· + 1)).foldl (fun (acc : List Nat × Nat) i =>
    if i == b then (acc.1 ++ [0], acc.2) else (acc.1 ++ [acc.2 % tdSize src i], acc.2 / tdSize src i)) ([], n))).1

/-- TRANSPOSE: whole rows, or, for dimension 0, the rows of a plane in ascending source element (R220, R221). -/
def planTranspose (r : BitVec 512) (src dst : TDesc) (n : Nat) : RowPlan :=
  let a := tpA r
  let b := tpB r
  if a != 0 then planOf n [rowIndex src (swapCoords (rowCoords dst n) a b)]
  else
    let p := planeCoords src b (n / tdSize src 0)
    planOf (rowIndex dst (p.set (b - 1) (n % tdSize src 0)))
      (tabulate (tdSize src b) fun j => rowIndex src (p.set (b - 1) j))

/-- EXPAND (R225): a padding row takes the rule of the lowest dimension that resolves to padding. -/
def planExpand (r : BitVec 512) (src dst : TDesc) (n : Nat) : RowPlan :=
  let y := rowCoords dst n
  let d := exDim r
  let tap := y.getD 0 0
  let ks := [tap % (d 0).kern, tap / (d 0).kern % (d 1).kern, tap / ((d 0).kern * (d 1).kern)]
  let ts := tabulate 3 fun i => resolveTap (d i) (tdSize src (i + 1)) (y.getD (i + 1) 0) (ks.getD i 0)
  match ts.find? fun t => t == .zero || t == .const with
  | some .const => ⟨n, [], some (exPad r), false, false⟩
  | some _ => ⟨n, [], some zeroF, false, false⟩
  | none => planOf n [rowIndex src ((ts.map fun t => match t with | .at x => x | _ => 0) ++ [y.getD 4 0, 0])]

/-- The plan of place `n` (DEDUCED, notes/assumptions/40.md). -/
def rowPlan (r : BitVec 512) (src dst : TDesc) (idx : List (BitVec 32)) (n : Nat) : RowPlan :=
  match mvOp r with
  | 0x10 => planXform src dst n
  | 0x11 => planGather r src dst idx n
  | 0x12 => planScatter r src dst idx n
  | 0x13 => planTranspose r src dst n
  | _ => planExpand r src dst n

/-! ## The bytes of a destination row -/

/-- The source rows held after place `n`: EXPAND keeps the most recent ones that fit 512 KiB (R225); a row that the next
place of an XFORM_COPY or of a plane still needs is not read again (DEDUCED, notes/assumptions/40.md). -/
def keepRows (r : BitVec 512) (src : TDesc) (p : RowPlan) (n : Nat) (rows : List (Nat × Nat × List Byte)) :
    List (Nat × Nat × List Byte) :=
  match mvOp r with
  | 0x10 => rows.filter fun q => some q.1 == p.needs.getLast?
  | 0x13 => if tpA r == 0 && (n + 1) % tdSize src 0 != 0 then rows else []
  | 0x14 => rows.drop (rows.length - max 1 (524288 / max 1 (tdRow src)))
  | _ => []

/-- The destination's elements have fewer bits than the source's (02 R39) (DEDUCED, notes/assumptions/40.md). -/
def narrower (dst src : Nat) : Bool :=
  match fmtOf dst, fmtOf src with
  | some a, some b => elemBits a < elemBits b
  | _, _ => false

/-- The random bits of the casts of destination row `r` (02 R39 to R41, 11 R269, R270). A halo row that came compressed is
cast as the row of the tensor would be: with the descriptor's rounding, by the tensor's format and not the link's, though
07 R169 says that it is cast as a result row is, to nearest even (DESIGN CHOICE, notes/assumptions/40.md). -/
def moverBits (s : State) (m : MoverRun) (src dst : TDesc) (r : Nat) : Nat → Option Nat :=
  if mvRound m.raw == 1 && narrower dst.fmt src.fmt then
    match lookup (mvSeq m.raw) s.seqs with
    | some q => roundBits q.seed.toNat m.step.toNat r q.uid.toNat 0 4
    | none => rne
  else rne

/-- A row made. -/
structure MadeRow where
  bytes : List Byte
  cnt : ConvCount
  /-- results outside a function's domain (04 R96) -/
  dom : Nat

/-- The held source row of a number: format and bytes. -/
def heldRow (m : MoverRun) (q : Nat) : Nat × List Byte := (lookup q m.rows).getD (0, [])

/-- A whole source row copied, its padding written zero (R207), or cast. -/
def copyRow (src dst : TDesc) (us : Nat → Option Nat) (k : Nat × List Byte) : MadeRow :=
  if k.1 == dst.fmt then ⟨cleanRow (tdSize src 0) dst.fmt k.2, ConvCount.zero, 0⟩
  else
    let x := decodeRow (tdSize src 0) k.1 k.2
    let y := encodeRow dst.fmt us x.1
    ⟨y.1, x.2.add y.2, 0⟩

/-- A row with one value in every element. -/
def padRow (dst : TDesc) (us : Nat → Option Nat) (v : F32) : MadeRow :=
  let y := encodeRow dst.fmt us (List.replicate (tdSize dst 0) v)
  ⟨y.1, y.2, 0⟩

/-- The elements of destination row `n` of an XFORM_COPY: source row and column of each. -/
def xformPlaces (src dst : TDesc) (n : Nat) : List (Nat × Nat) :=
  tabulate (tdSize dst 0) fun e =>
    let k := n * tdSize dst 0 + e
    (k / tdSize src 0, k % tdSize src 0)

/-- An XFORM_COPY's row that no function changes, in a plain format: elements of source rows held in that format keep
their bits, the others are cast. -/
def xformBits (m : MoverRun) (src dst : TDesc) (us : Nat → Option Nat) (p : RowPlan) : MadeRow :=
  let w := dataBytes 1 ((fmtOf dst.fmt).getD ⟨elFp32, false⟩)
  let own := fun q => (heldRow m q).1 == dst.fmt
  let dec := (p.needs.filter fun q => !own q).map fun q =>
    (q, (decodeRow (tdSize src 0) (heldRow m q).1 (heldRow m q).2).1)
  let es := xformPlaces src dst p.dst
  let y := encodeRow dst.fmt us (es.map fun e => ((lookup e.1 dec).getD []).getD e.2 zeroF)
  ⟨padTo ((indexed es).map fun (i, e) =>
      if own e.1 then slice (heldRow m e.1).2 (w * e.2) w else slice y.1 (w * i) w).flatten (tdRow dst), y.2, 0⟩

/-- An XFORM_COPY's row (R219): bits unchanged, a whole MX row unchanged (R207), or each element through 04 R86. A row
of MX blocks that no function and no other format changes, but another dimension 0, is decoded and built by 02 R32. -/
def xformRow (m : MoverRun) (src dst : TDesc) (us : Nat → Option Nat) (p : RowPlan) : MadeRow :=
  let r := m.raw
  let asIs := !xfNamed r && p.needs.all fun q => (heldRow m q).1 == dst.fmt
  if asIs && tdSize src 0 == tdSize dst 0 then copyRow src dst us (heldRow m (p.needs.headD 0))
  else if !xfNamed r && !isMx dst.fmt then xformBits m src dst us p
  else
    let dec := p.needs.map fun q => (q, (decodeRow (tdSize src 0) (heldRow m q).1 (heldRow m q).2).1)
    let outs := (xformPlaces src dst p.dst).map fun e =>
      let x := ((lookup e.1 dec).getD []).getD e.2 zeroF
      let bias := if xfBiasSel r then some (m.bias.getD e.2 zeroF) else none
      let scale := match xfScaleSel r with
        | 1 => some (xfScale r)
        | 2 => some (m.scale.getD e.2 zeroF)
        | _ => none
      if xfNamed r then
        let v := sfuOp (xfFn r) (xfSwift r) bias scale x
        (v, b2n (sfuDomain bias scale x v))
      else (x, 0)
    let y := encodeRow dst.fmt us (outs.map (·.1))
    ⟨y.1, y.2, sumNat (outs.map (·.2))⟩

/-- Element `i` of every row of a plane, as a destination row. -/
def columnRow (m : MoverRun) (src dst : TDesc) (us : Nat → Option Nat) (p : RowPlan) (i : Nat) : MadeRow :=
  let xs := p.needs.map fun q => ((decodeRow (tdSize src 0) (heldRow m q).1 (heldRow m q).2).1).getD i zeroF
  let y := encodeRow dst.fmt us xs
  ⟨y.1, y.2, 0⟩

/-- The accumulated row of a SCATTER_ACC (R217), from its old bytes. -/
def scatterRow (m : MoverRun) (dst : TDesc) (us : Nat → Option Nat) (p : RowPlan)
    (old : List Byte) : MadeRow :=
  let d := tdSize dst 0
  let start := if scInit m.raw then (List.replicate d zeroF, ConvCount.zero) else decodeRow d dst.fmt old
  let acc := p.needs.foldl (fun (acc : List F32 × ConvCount) q =>
    let x := decodeRow d (heldRow m q).1 (heldRow m q).2
    (List.zipWith addF acc.1 x.1, acc.2.add x.2)) start
  let y := encodeRow dst.fmt us acc.1
  ⟨y.1, acc.2.add y.2, 0⟩

/-- The bytes of a planned row. -/
def makeRow (s : State) (m : MoverRun) (src dst : TDesc) (p : RowPlan) (old : List Byte) : MadeRow :=
  let us := moverBits s m src dst p.dst
  match p.pad with
  | some v => padRow dst us v
  | none =>
    match mvOp m.raw with
    | 0x10 => xformRow m src dst us p
    | 0x12 => scatterRow m dst us p old
    | 0x13 =>
      if tpA m.raw == 0 then columnRow m src dst us p (m.row % tdSize src 0)
      else copyRow src dst us (heldRow m (p.needs.headD 0))
    | _ => copyRow src dst us (heldRow m (p.needs.headD 0))

/-! ## Reading -/

/-- Where a source row lies: its Owner Table entry where the tensor is distributed, whether this engine holds it, and
its address here or offset in the owner's block (R212). -/
structure SrcPlace where
  entry : Option Nat
  own : Bool
  addr : Nat
  deriving DecidableEq, Repr

/-- The place of source row `q`. -/
def srcPlace (s : State) (t : TDesc) (q : Nat) : SrcPlace :=
  if t.dist then
    let xs := rowCoords t q
    let x := xs.getD (t.blockDim - 1) 0
    let b := x / (t.blockLen + 1)
    let off := strideSum t (xs.set (t.blockDim - 1) (x - b * (t.blockLen + 1)))
    let raw := ownerRaw s (t.ownerBase + b)
    if owOwn raw then ⟨some (t.ownerBase + b), true, owBase raw + off⟩ else ⟨some (t.ownerBase + b), false, off⟩
  else ⟨none, true, rowAddr t q⟩

/-- The run of a channel. -/
def State.mover (s : State) (ch : ChanId) : Option MoverRun := s.gather[ch].run

/-- `f` applied to the run of a channel. -/
def modRun (s : State) (ch : ChanId) (f : MoverRun → MoverRun) : State :=
  { s with gather := vmod s.gather ch fun g => { g with run := g.run.map f } }

/-- The run ends other than by its last row, with the lowest of the statuses that it meets (13 R315). -/
def failRun (s : State) (ch : ChanId) (st : Nat) : State := modRun s ch fun m => { m with failed := lowerSt m.failed st }

/-- A strict access outside a tensor: the descriptor ends with CTX_FAULT, and the context is FAULTED at once (R209, 12
R285). -/
def strictFault (s : State) (ch : ChanId) (c : CtxId) : State := faultCtx (failRun s ch stFault) c stFault none

/-- The rows of this format are decoded as they come: an XFORM_COPY that does more than copy bits, or the transposition
of a plane. -/
def decodes (m : MoverRun) (src dst : TDesc) (fmt : Nat) : Bool :=
  match mvOp m.raw with
  | 0x10 => xfNamed m.raw || fmt != dst.fmt || (tdSize src 0 != tdSize dst 0 && isMx fmt)
  | 0x13 => tpA m.raw == 0
  | _ => false

/-- Decoding a row that is decoded once counts its overflows then (02 R45) (DEDUCED, notes/assumptions/24.md). -/
def countDecode (s : State) (m : MoverRun) (src : TDesc) (fmt : Nat) (bytes : List Byte) : State :=
  if (lookup (mvDst m.raw) (s.ctx m.ctx).tensors).any fun dst => decodes m src dst fmt then
    convCount s m.ctx (decodeRow (tdSize src 0) fmt bytes).2
  else s

/-- A source row is held. -/
def holdRow (s : State) (ch : ChanId) (m : MoverRun) (src : TDesc) (q fmt : Nat) (bytes : List Byte) : State :=
  modRun (countDecode s m src fmt bytes) ch fun m => { m with rows := m.rows ++ [(q, fmt, bytes)] }

/-- The run reads rows of this engine's memory: rank 6, charged to the memory regulator (R210). -/
def moverReading (s : State) (ch : ChanId) (c : CtxId) (rs : List (Nat × Nat)) (k : State → State) : State :=
  reading s (.moverRead ch) 6 (some c) rs fun s => dropRead (k s) (.moverRead ch)

/-- What the run's reads brought of a range. -/
def moverGot (s : State) (ch : ChanId) (a n : Nat) : List Byte := gotRead s (.moverRead ch) a n

/-- The message of a READ_REQ in progress (07 R176). -/
def sendReq (s : State) (ch : ChanId) (m : MoverRun) (src : TDesc) (q : RReq) : State :=
  let raw := ownerRaw s q.entry
  let need := if mvNeed m.raw then mvNeedEpoch m.raw else (Config.openEpoch q.entry).toNat
  sendMsg s q.chip q.engine ⟨6, .readReq ch m.ctx,
    readReqBytes s (owIndex raw) need q.off (tdRow src) (owLink raw) src.fmt q.tag.toNat (tdSize src 0) (tdRow src)⟩

/-- A remote row is asked for, with at most 4 requests outstanding (07 R175). A row above 64 KiB cannot be
(notes/assumptions/31.md). -/
def askRow (s : State) (ch : ChanId) (m : MoverRun) (src : TDesc) (q e off : Nat) : State :=
  let raw := ownerRaw s e
  if m.reqs.any (fun x => x.row == q) || 4 ≤ m.reqs.length then s
  else if destLost s (owChip raw) (owEngine raw) then failRun s ch stPeerLost
  else if 65536 < tdRow src then failRun s ch stRange
  else
    let n := s.gather[ch].nextReq
    let x : RReq := ⟨BitVec.ofNat 16 (256 * ch.val + n % 256), q, e, off, owChip raw, owEngine raw, none⟩
    let s1 := modRun s ch fun m => { m with reqs := m.reqs ++ [x] }
    sendReq { s1 with gather := vmod s1.gather ch fun g => { g with nextReq := n + 1 } } ch m src x

/-- An own block has not reached the epoch that the descriptor needs (R226). -/
def epochLate (s : State) (m : MoverRun) (p : SrcPlace) : Bool :=
  match p.entry with
  | some e => mvNeed m.raw && !reachedEpoch (owEpoch (ownerRaw s e)) (mvNeedEpoch m.raw)
  | none => false

/-- The source rows of a plan that the run does not hold. -/
def missingRows (m : MoverRun) (p : RowPlan) : List Nat := p.needs.filter fun q => !m.rows.any fun r => r.1 == q

/-- A missing source row is asked for, where another engine has it. -/
def seekRemote (ch : ChanId) (src : TDesc) (s : State) (q : Nat) : State :=
  match s.mover ch with
  | none => s
  | some m =>
    let p := srcPlace s src q
    if m.failed.isSome || p.own then s else askRow s ch m src q (p.entry.getD 0) p.addr

/-- The missing source rows that this engine has, in blocks that have reached their epoch. -/
def ownRows (s : State) (m : MoverRun) (src : TDesc) (p : RowPlan) : List Nat :=
  (missingRows m p).filter fun q => let k := srcPlace s src q; k.own && !epochLate s m k

/-- The missing source rows of this engine are read and held. -/
def readOwn (s : State) (ch : ChanId) (m : MoverRun) (src : TDesc) (p : RowPlan) : State :=
  let qs := ownRows s m src p
  if qs.isEmpty then s
  else
    let addr := fun q => (srcPlace s src q).addr
    moverReading s ch m.ctx (qs.map fun q => (addr q, tdRow src)) fun t =>
      qs.foldl (fun t q => holdRow t ch m src q src.fmt (moverGot t ch (addr q) (tdRow src))) t

/-- The row waits on an epoch: a missing row lies in a block that is late or remote. -/
def haloWait (s : State) (m : MoverRun) (src : TDesc) (p : RowPlan) : Bool :=
  mvNeed m.raw && p.needs.any fun q =>
    !m.rows.any (fun r => r.1 == q) && (let k := srcPlace s src q; !k.own || epochLate s m k)

/-! ## Writing -/

/-- The wait of a channel ends and is counted. -/
def endHalo (s : State) (ch : ChanId) (m : MoverRun) : State :=
  match m.waiting with
  | none => s
  | some t => teleCtx (modRun s ch fun m => { m with waiting := none, halo := m.halo + s.since t }) m.ctx 24 (s.since t)

/-- The Owner Table entry of a destination row. -/
def dstEntry (t : TDesc) (r : Nat) : List Nat :=
  if t.dist then [t.ownerBase + (rowCoords t r).getD (t.blockDim - 1) 0 / (t.blockLen + 1)] else []

/-- The row is made and its write is issued; the next place follows. -/
def moveRow (s : State) (ch : ChanId) (m : MoverRun) (src dst : TDesc) (p : RowPlan) (a : Nat) (old : List Byte) :
    State :=
  let k := makeRow s m src dst p old
  let s1 := modRun s ch fun m => { m with
    row := m.row + 1, written := m.written + 1, oob := m.oob + (if p.oob then tdSize dst 0 else 0)
    touched := (m.touched ++ dstEntry dst p.dst).eraseDups, rows := keepRows m.raw src p m.row m.rows }
  let s0 := if mvOp m.raw == 0x10 && xfNamed m.raw then operandNow s1 .sfu (enabledSlices s1) else s1
  let s2 := teleCtx (teleCtx (convCount s0 m.ctx k.cnt) m.ctx 2 k.dom) m.ctx 26 1
  let s3 := teleCtx s2 m.ctx 21 (if p.oob then tdSize dst 0 else 0)
  let s4 := teleCtx s3 m.ctx 23 (if mvOp m.raw == 0x12 then p.needs.length - 1 else 0)
  writeMem s4 (.mover ch) a k.bytes 6 (some m.ctx)

/-- All source rows of a place are held: the row is written; a SCATTER_ACC first reads the old row, and an out-of-bounds
row under strict ends the descriptor (R209). -/
def finishRow (s : State) (ch : ChanId) (m : MoverRun) (src dst : TDesc) (p : RowPlan) : State :=
  match rowPlace s dst p.dst with
  | none => failRun s ch stRange
  | some a =>
    if p.oob && src.strict then strictFault s ch m.ctx
    else if mvOp m.raw == 0x12 && !scInit m.raw then
      moverReading s ch m.ctx [(a, tdRow dst)] fun s => moveRow s ch m src dst p a (moverGot s ch a (tdRow dst))
    else moveRow s ch m src dst p a []

/-- The row in progress goes on after a drain has stopped the run: its source rows are being read (12 R283)
(DEDUCED, notes/assumptions/40.md). -/
def midRow (s : State) (ch : ChanId) (m : MoverRun) : Bool :=
  m.loaded && m.failed == some (BitVec.ofNat 8 stAborted)
    && (memBusy s (· == .moverRead ch) || s.got.any fun g => g.1 == .moverRead ch)

/-- One place of the run, as far as it goes (DEDUCED, notes/assumptions/40.md). -/
def stepRow (s : State) (ch : ChanId) (m : MoverRun) (src dst : TDesc) : State :=
  let p := rowPlan m.raw src dst m.idx m.row
  if p.skip then modRun s ch fun m => { m with row := m.row + 1 }
  else
    let s1 := readOwn ((missingRows m p).foldl (seekRemote ch src) s) ch m src p
    match s1.mover ch with
    | none => s1
    | some m1 =>
      if m1.failed != m.failed then s1
      else if (missingRows m1 p).isEmpty then
        let s2 := endHalo s1 ch m1
        finishRow s2 ch ((s2.mover ch).getD m1) src dst p
      else if m1.waiting.isNone && haloWait s1 m1 src p then modRun s1 ch fun m => { m with waiting := some s.tick }
      else s1

/-! ## Beginning and ending a descriptor -/

/-- A descriptor that begins (11 R269, R271). -/
def newRun (s : State) (q : CtxId × BitVec 32 × BitVec 512) : MoverRun :=
  let step := if mvReplay q.2.2 then BitVec.ofNat 64 (mvStep q.2.2) else (s.ctx q.1).step
  ⟨q.1, q.2.1, q.2.2, step, false, [], [], [], 0, 0, 0, [], [], 0, none, [], none⟩

/-- Reads of the lists a descriptor names: index list, per-column bias and scale. -/
def listReads (m : MoverRun) (src : TDesc) : List (Nat × Nat) :=
  match mvOp m.raw with
  | 0x10 => (if xfBiasSel m.raw then [(xfBiasAddr m.raw, 4 * tdSize src 0)] else [])
    ++ (if xfScaleSel m.raw == 2 then [(xfScaleAddr m.raw, 4 * tdSize src 0)] else [])
  | 0x11 => [(gsAddr m.raw, 4 * gsCount m.raw)]
  | 0x12 => [(gsAddr m.raw, 4 * gsCount m.raw)]
  | _ => []

/-- The lists as read. -/
def withLists (s : State) (ch : ChanId) (src : TDesc) (m : MoverRun) : MoverRun :=
  let vec := fun a => f32s (tdSize src 0) (moverGot s ch a (4 * tdSize src 0))
  let m1 := { m with loaded := true }
  match mvOp m.raw with
  | 0x10 => { m1 with
      bias := if xfBiasSel m.raw then vec (xfBiasAddr m.raw) else []
      scale := if xfScaleSel m.raw == 2 then vec (xfScaleAddr m.raw) else [] }
  | 0x11 => { m1 with idx := f32s (gsCount m.raw) (moverGot s ch (gsAddr m.raw) (4 * gsCount m.raw)) }
  | 0x12 => { m1 with idx := f32s (gsCount m.raw) (moverGot s ch (gsAddr m.raw) (4 * gsCount m.raw)) }
  | _ => m1

/-- A SCATTER_ACC's out-of-bounds elements, found as it sorts (R217, R218): counted, or, under strict, the end. -/
def scatterOob (s : State) (ch : ChanId) (m : MoverRun) (src dst : TDesc) : State :=
  let bad := (m.idx.filter fun v => (resolveIdx dst.wrap (tdSize dst (gsDim m.raw)) v).isNone).length
  let n := bad * (tdRows src / max 1 (gsCount m.raw)) * tdSize src 0
  if mvOp m.raw != 0x12 || bad == 0 then s
  else if dst.strict then strictFault s ch m.ctx
  else teleCtx (modRun s ch fun m => { m with oob := n }) m.ctx 22 n

/-- The lists of a descriptor are read. -/
def loadLists (s : State) (ch : ChanId) (m : MoverRun) (src dst : TDesc) : State :=
  moverReading s ch m.ctx (listReads m src) fun s =>
    let s1 := modRun s ch (withLists s ch src)
    scatterOob s1 ch ((s1.mover ch).getD m) src dst

/-- The run leaves its channel, and what it still reads is of no use. -/
def dropRun (s : State) (ch : ChanId) : State :=
  let s1 := killReads s (· == .moverRead ch)
  { s1 with gather := vmod s1.gather ch fun g => { g with run := none, queue := g.queue.drop 1 } }

/-- The descriptor of a run completes, once its writes have returned (R214, 13 R316). -/
def endRun (s : State) (ch : ChanId) (m : MoverRun) : State :=
  let s0 := endHalo s ch m
  let halo := ((s0.mover ch).map fun m => m.halo).getD 0
  let s1 := dropRun s0 ch
  match (s1.ctx m.ctx).dealt.find? fun d => d.2.c == m.c with
  | none => s1
  | some d =>
    match m.failed with
    | some st => completeErr s1 m.ctx d.1 d.2 st.toNat
    | none =>
      let s2 := if mvPublish m.raw then publish s1 (mvPubEpoch m.raw) m.touched else s1
      complete s2 m.ctx d.1 d.2 stOk m.written m.oob (min halo (2 ^ 32 - 1))

/-- One step of a channel. -/
def moverStep (s : State) (ch : ChanId) : State :=
  match s.mover ch with
  | none =>
    match s.gather[ch].queue with
    | [] => s
    | q :: _ => { s with gather := vmod s.gather ch fun g => { g with run := some (newRun s q) } }
  | some m =>
    match heldTensor (s.ctx m.ctx) (mvSrc m.raw), heldTensor (s.ctx m.ctx) (mvDst m.raw) with
    | some src, some dst =>
      if (m.failed.isSome && !midRow s ch m) || (m.loaded && tdRows dst ≤ m.row) then
        if memBusy s (· == .mover ch) then s else endRun s ch m
      else if !m.loaded then loadLists s ch m src dst
      else if m.reqs.any fun q => q.retryAt.isSome then s
      else stepRow s ch m src dst
    | _, _ => if memBusy s (· == .mover ch) then s else endRun (failRun s ch stAborted) ch { m with failed := some 0x21 }

/-- The place that a channel has reached. -/
def moverPlace (s : State) (ch : ChanId) : Option (Nat × Bool × Bool) × Nat :=
  ((s.mover ch).map fun m => (m.row, m.loaded, m.failed.isSome), s.gather[ch].queue.length)

/-- A channel works until it must wait. -/
def moverLoop : Nat → State → ChanId → State
  | 0, s, _ => s
  | n + 1, s, ch =>
    let s1 := moverStep s ch
    if moverPlace s1 ch == moverPlace s ch then s1 else moverLoop n s1 ch

/-- A bound on the steps of a channel. -/
def moverFuel (s : State) (ch : ChanId) : Nat :=
  sumNat (s.gather[ch].queue.map fun q => ((heldTensor (s.ctx q.1) (mvDst q.2.2)).map tdRows).getD 0 + 4)

/-- A channel's part of what follows of itself. -/
def settleMover (s : State) (ch : ChanId) : State :=
  if s.gather[ch].queue.isEmpty then s else moverLoop (moverFuel s ch) s ch

/-- Every channel's part, again while one has published what another may wait for. -/
def settleMovers : Nat → State → State
  | 0, s => s
  | n + 1, s =>
    let s1 := (fins 16).foldl settleMover s
    if s1.owner == s.owner then s1 else settleMovers n s1

end Sys2Proof.Machine
end

