-- ==== Sys2Proof/Machine/SecUnit.lean ====
section
/-!
DEFINITION. The security unit between envelopes: the envelopes that wait and the one that is handled (16 R356, R357), the
read of its body (R355), and the provisioning writes (R359).
-/
namespace Sys2Proof.Machine

/-! ## Commands (R352) -/

/-- Least and greatest body length of a command; none for a code outside the table. -/
def critLen (cmd : Nat) : Option (Nat × Nat) :=
  match cmd with
  | 0x01 => some (128, 128) | 0x02 => some (64, 64) | 0x03 => some (64, 64) | 0x04 => some (64, 64)
  | 0x05 => some (128, 128) | 0x06 => some (64, 64) | 0x10 => some (64, 64) | 0x11 => some (0, 0)
  | 0x12 => some (64, 524288) | 0x20 => some (64, 64) | 0x21 => some (64, 64) | 0x30 => some (64, 64)
  | _ => none

/-- The bit of the permission mask that a command requires. -/
def critPerm (cmd : Nat) : Nat :=
  if cmd ≤ 0x06 then 0
  else match cmd with
    | 0x10 => 1 | 0x11 => 2 | 0x12 => 3 | 0x20 => 4 | 0x21 => 4 | _ => 5

/-! ## Checks 1 to 4 (R356) -/

/-- Checks 1 to 4; the check that fails first. -/
def earlyCheck (s : State) (p : CritPath) (e : Nat) : Option (Nat × Nat) :=
  let slot := s.slots[envSlot e]
  let lenOk := match critLen (envCmd e) with | some (lo, hi) => lo ≤ envLen e && envLen e ≤ hi | none => false
  let winOk := match p with
    | .setup => true
    | .ring c => envLen e == 0 || inWindows (s.ctx c) (envBody e) (envLen e)
  if !reservedZero e envFields || !lenOk || (envLen e == 0 && envBody e != 0) then some (1, stBad)
  else if envBody e % 64 != 0 || envLen e % 64 != 0 then some (2, stMisalign)
  else if !slot.valid || envChip e != s.fuse.chipId.toNat || envEngine e != s.fuse.engineId || !winOk then
    some (3, stRange)
  else if slot.counter == BitVec.allOnes 64 then some (4, stStale)
  else none

/-! ## The envelope being handled (R357) -/

/-- The CRIT descriptor of a context that the ring walker has dealt. -/
def critJob (x : Ctx) : Option Job := (x.dealt.find? fun d => d.1 == .security).map (·.2)

/-- The envelope that a path has presented. -/
def envelopeAt (s : State) : CritPath → Option Nat
  | .setup => s.sec.presented.map (·.toNat)
  | .ring c => (critJob (s.ctx c)).map fun j => j.n >>> 64

/-- An envelope is being handled, one at a time. An accepted CTX_MODE whose change waits holds the unit no longer: 11 R254
lets a second one be accepted while it waits (DEDUCED, notes/assumptions/14.md). -/
def critBusy (s : State) : Bool := s.sec.reading.isSome

/-- The body is read, once, into the body buffer: rank 7, charged to no regulator (R355)
(DEDUCED, notes/assumptions/14.md). -/
def readBody (s : State) (e : Nat) : State := reading s .crit 7 none [(envBody e, envLen e)] fun s => s

/-- The body as it has been read. -/
def bodyGot (s : State) (e : Nat) : List Byte := gotRead s .crit (envBody e) (envLen e)

/-- From check 5 on a FW_LOAD overwrites the store: the image is gone (17 R374). -/
def dropImage (s : State) (e : Nat) : State :=
  if envCmd e == 0x12 then { s with fw := { s.fw with valid := false, version := 0, image := [] } } else s

/-- The handling of an envelope begins: where checks 1 to 4 pass, its body is read. -/
def takeEnvelope (s : State) (p : CritPath) : State :=
  let s1 := { s with sec := { s.sec with reading := some p, order := s.sec.order.drop 1 } }
  match envelopeAt s p with
  | some e => if (earlyCheck s p e).isSome then s1 else readBody (dropImage s1 e) e
  | none => s1

/-! ## Provisioning (R359) -/

/-- One provisioning write acts on its slot. -/
def provision (s : State) : ProvWrite → State
  | .write i key perm floor => { s with slots := s.slots.set i ⟨true, key, perm, floor, kcvOf key⟩ }
  | .zero i => { s with slots := s.slots.set i keySlotReset }

/-- The writes that wait act, in order. -/
def provisionAll (s : State) : State := s.provWait.foldl provision { s with provWait := [] }

/-- Provisioning writes wait: until step 10 has ended, from the entry on of a self-test that came from OFF, and, on any
other entry, while step 10 runs; while the slots are erased (R364); and between the check of an envelope and its
completion. In LOCKED, where no envelope completes, an erase alone holds them (DEDUCED, notes/assumptions/15.md). -/
def provHeld (s : State) : Bool :=
  s.sec.erasing || (s.eng != .locked && (critBusy s
    || (s.eng == .selftest && s.st.keyStepPending && (s.st.fromOff || stepNow s == 10))))

/-- The security unit goes on: between two envelopes the provisioning writes that wait act, then the next envelope is
taken. In LOCKED neither path executes anything. -/
def settleSec (s : State) : State :=
  if critBusy s || s.eng == .locked then s
  else
    let s1 := if provHeld s then s else provisionAll s
    match s1.sec.order with
    | p :: _ => takeEnvelope s1 p
    | [] => s1

end Sys2Proof.Machine
end

