-- ==== Sys2Proof/Machine/Settle.lean ====
section
/-!
DEFINITION. What follows of itself after a command: abandoned tiles whose time has come are gone (01 R10), tiles take
banks and release halves (R10), tile-path
descriptors that waited for a route context are checked (13 R311), contexts become QUEUED, are pre-empted or leave
RUNNING and PREEMPTING (12 R275 to R281), updates of biases take effect (05 R122), the drain lanes are served (15 R342),
movers and DMA channels work on (09, 14), requests and records that may go, go,
and the security unit takes its next envelope (16 R357).
-/
namespace Sys2Proof.Machine

/-- A descriptor of the context fetched before number `k`, dealt to unit `u` and meeting `p`, has not completed. -/
def dealtBefore (x : Ctx) (k : BitVec 32) (u : UnitId) (p : Job → Bool) : Bool :=
  x.dealt.any fun d => d.1 == u && p d.2 && before d.2.c k

/-- 13 R311: what a tile-path descriptor waits for before it is checked: for a TILE_ROUTE, every earlier MODEL_LOAD and
MODEL_PIN (DEDUCED, notes/assumptions/22.md). The TDESC_CREATEs of what it names hold it once its block is known
(`checkTp`). -/
def tpWaits (x : Ctx) (j : TpJob) : Bool := tpOp j.ops == 1 && dealtBefore x j.c .hotSet fun _ => true

/-- A tile-path job that has not been checked is checked, unless an earlier descriptor holds it. -/
def checkJob (c : CtxId) (s : State) (j : TpJob) : State :=
  if j.checked || tpWaits (s.ctx c) j then s else checkTp s c j

/-- Every context's tile-path jobs that can be checked are. -/
def checkJobs (s : State) : State := (fins 16).foldl (fun s c => (s.ctx c).tp.foldl (checkJob c) s) s

/-- 12 R275: a tile-path descriptor of the context may begin. -/
def mayBegin (x : Ctx) : Bool := x.tp.any TpJob.more

/-- IDLE to QUEUED. While a self-test request is carried out no context becomes QUEUED (17 R370). -/
def queueCtx (s : State) (c : CtxId) : State :=
  let x := s.ctx c
  if x.state == .idle && x.enabled && !x.drainBusy && s.quiesce == .none && mayBegin x then
    modCtx s c fun x => { x with state := .queued }
  else s

/-- A context of the class is QUEUED. -/
def queuedOf (s : State) (lc : Bool) : Bool := s.ctxs.toList.any fun x => x.state == .queued && x.lc == lc

/-- Some tile of the context holds resources. -/
def holdsTiles (s : State) (c : CtxId) : Bool := s.tiles.any fun t => t.ctx == c

/-- 12 R278: the running context has reached its class's quantum while another of its class is QUEUED. -/
def overQuantum (s : State) (c : CtxId) : Bool :=
  let x := s.ctx c
  let q := if x.lc then s.sched.quantumLc else s.sched.quantumBe
  x.state == .running && q != 0 && 1000 * q.toNat ≤ s.since s.sched.runSince && queuedOf s x.lc

/-- The running context: pre-empted by an LC context or by its quantum (12 R278), leaving RUNNING for want of work, or, in
PREEMPTING, abandoning tiles that have come to wait on a remote chip. -/
def settleRunning (s : State) (c : CtxId) : State :=
  let x := s.ctx c
  if x.state == .running then
    if (!x.lc && queuedOf s true) || overQuantum s c then preempt s c
    else if !holdsTiles s c && !mayBegin x then writeSave (modCtx s c fun x => { x with state := .idle }) c
    else s
  else
    if (tilesOf s c).any (waitsRemote s) then abandonAll s c true else s

/-- PREEMPTING with no tile left: the record is written once, and its response will end that state. -/
def settleSave (s : State) (c : CtxId) : State :=
  if (s.ctx c).state == .preempting && !holdsTiles s c && (s.ctx c).leaving.isNone then
    let s1 := writeSave s c
    modCtx s1 c fun x => { x with leaving := some x.saves }
  else s

/-- The scheduler's part. -/
def settleSched (s : State) : State :=
  if !s.up then s
  else
    let s1 := (fins 16).foldl queueCtx s
    match s1.running with
    | none => s1
    | some c => settleSave (reap (settleRunning s1 c)) c

/-- The descriptor that holds its context in the ring walker (13 R309, R310). -/
def holder (x : Ctx) (op : Nat) : Option Job := (x.dealt.find? fun d => d.1 == .walker && d.2.op == op).map (·.2)

/-- entry of an EPOCH_WAIT -/
def ewEntry (j : Job) : Nat := rf j.n 0xC 13 0
/-- epoch -/
def ewEpoch (j : Job) : Nat := rf j.n 0x10 15 0

/-- The EPOCH_WAIT of a context completes and releases the later descriptors. -/
def endWait (s : State) (c : CtxId) (j : Job) (st v0 : Nat) : State :=
  complete (modCtx s c fun x => { x with hold := none }) c .walker j st v0 0 0

/-- 13 R310: an EPOCH_WAIT on an own block that has reached its epoch completes. -/
def ownWait (s : State) (c : CtxId) : State :=
  match (s.ctx c).hold, holder (s.ctx c) 0x51 with
  | some (.epochOwner _ _), some j =>
    let raw := ownerRaw s (ewEntry j)
    if owOwn raw && reachedEpoch (owEpoch raw) (ewEpoch j) then endWait s c j stOk (owEpoch raw) else s
  | _, _ => s

/-- 13 R299: a bad descriptor that has come to the front of the ring walker completes with BAD_OPCODE. -/
def dropBad : Nat → CtxId → State → State
  | 0, _, s => s
  | n + 1, c, s =>
    match (s.ctx c).hold, (s.ctx c).walker with
    | none, j :: rest =>
      if badDescriptor j.n then
        dropBad n c (completeErr (modCtx s c fun x => { x with walker := rest }) c (unitOf j) j stBad)
      else s
    | _, _ => s

/-- 13 R311: every earlier descriptor of the context has completed; those that wait for a step boundary do not count. -/
def allBefore (x : Ctx) : Bool := x.dealt.all fun d => d.2.boundary

/-- A CRIT descriptor at the front of the ring walker begins its way to the security unit once every earlier descriptor
has completed: it holds every later one, and its envelope stands after those that wait there (R311, 16 R357). -/
def dealCrit (s : State) (c : CtxId) : State :=
  match (s.ctx c).hold, (s.ctx c).walker with
  | none, j :: rest =>
    if s.up && j.op == 0x70 && allBefore (s.ctx c) then
      modCtx { s with sec := { s.sec with order := s.sec.order ++ [.ring c] } } c fun x => { x with
        walker := rest, dealt := x.dealt ++ [(.security, j)], hold := some .crit }
    else s
  | _, _ => s

/-- The ring walker's part. -/
def settleWalker (s : State) (c : CtxId) : State :=
  let s1 := ownWait s c
  dealCrit (dropBad (s1.ctx c).walker.length c s1) c

/-- A tile-path descriptor whose tiles have all committed, and all of whose writes have returned, publishes and completes
(09 R214, 13 R314, R315). -/
def endJob (s : State) (c : CtxId) (k : BitVec 32) : State :=
  match (s.ctx c).tp.find? fun j => j.c == k, (s.ctx c).dealt.find? fun d => d.2.c == k with
  | some j, some d =>
    if !j.allCommitted || staleWrites s c then s
    else
      let st := accStatus j
      let s1 := modCtx s c fun x => { x with tp := x.tp.filter fun j => j.c != k }
      let s2 := if tpPublish j.ops && (st == stOk || st == stDeferred) then publish s1 (tpPubEpoch j.ops) j.touched else s1
      completeTp s2 c d.2 j st
  | _, _ => s

/-- The tile-path descriptors of a context that can complete do. -/
def settleTps (s : State) (c : CtxId) : State :=
  (s.ctx c).tp.foldl (fun s j => endJob s c j.c) (endTps s c)

/-- Everything that follows of itself; nothing does in OFF, SELFTEST or LOCKED. -/
def settle (s : State) : State :=
  if !s.live then s
  else
    let s1 := settleSched (settleTiles (checkJobs (hotPump ((fins 16).foldl settleWalker (settleMovers 16 (reap s))))))
    let s2 := pumpMem s1.memWait.length s1
    let s3 := update (settleDrain ((fins 16).foldl settleDma s2))
    pumpRecs ((fins 16).foldl settleTps (settleSec (releaseRows s3)))

/-- The effect of an event on units that work, with what follows of it (DESIGN CHOICE, notes/assumptions/9.md). -/
def working (s : State) (c : Bool) (f : State → State) : Res := guarded s (s.live && c) fun s => settle (f s)

/-- The same for work that READY and RUN alone do (DESIGN CHOICE, notes/assumptions/9.md). -/
def running (s : State) (c : Bool) (f : State → State) : Res := guarded s (s.up && c) fun s => settle (f s)

end Sys2Proof.Machine
end

