-- ==== Sys2Proof/Machine/Rings.lean ====
section
/-!
DEFINITION. Host rings (13): doorbells, fetching, dealing a descriptor to its unit, FENCE and EPOCH_WAIT.
-/
namespace Sys2Proof.Machine

/-! ## Doorbells (13 R294 to R296) -/

/-- 13 R296: the context's doorbell is polled. -/
def polled (x : Ctx) : Bool :=
  x.enabled && (x.state == .idle || x.state == .queued || x.state == .running || x.state == .preempting)

/-- DOORBELL_POLL: the interval has passed, and the doorbell word is read. -/
def execDoorbellPoll (c : CtxId) (s : State) : Res :=
  let x := s.ctx c
  let due := match x.lastPoll with | none => true | some t => 250 * x.pollNow.toNat ≤ s.since t
  working s (polled x && due && !x.dbReading) fun s =>
    modCtx s c fun x => { x with lastPoll := some s.tick, dbReading := true }

/-- 13 R295: the tail count is no more than a ring ahead, and the head count no more than a queue behind. -/
def doorbellOk (x : Ctx) (tail head : BitVec 32) : Bool :=
  (tail - x.fetched).toNat ≤ 2 ^ x.sqLog2.toNat && (x.written - head).toNat ≤ 2 ^ x.cqLog2.toNat

/-- The next poll interval (13 R296). -/
def nextPoll (x : Ctx) (changed : Bool) : BitVec 9 :=
  if changed then 1 else BitVec.ofNat 9 (min (2 * x.pollNow.toNat) (max 1 x.pollMax.toNat))

/-- A record write that failed is made again (13 R317) (DEDUCED, notes/assumptions/30.md). -/
def retryRecord (s : State) (c : CtxId) : State :=
  let x := s.ctx c
  match x.recs with
  | r :: _ =>
    if x.recBusy && !s.hostOut.any fun h => h.owner == .record c then
      hostIssue s (.record c) true (recAddr x) 32 (recBytes c x r)
    else s
  | [] => s

/-- DOORBELL_READ_DONE: `word` is none on a bus error, which counts as no change (13 R317)
(DEDUCED, notes/assumptions/30.md). -/
def execDoorbellReadDone (c : CtxId) (word : Option (BitVec 64)) (s : State) : Res :=
  working s (s.ctx c).dbReading fun s =>
    if !polled (s.ctx c) then modCtx s c fun x => { x with dbReading := false }
    else
      retryRecord (modCtx s c fun x =>
        let x1 := { x with dbReading := false, fetchFailed := false }
        match word with
        | none => { x1 with hostErr := true, pollNow := nextPoll x false }
        | some w =>
          let tail := w.extractLsb' 0 32
          let head := w.extractLsb' 32 32
          if doorbellOk x tail head then
            { x1 with tail := tail, head := head, pollNow := nextPoll x (tail != x.tail || head != x.head) }
          else { x1 with badDoorbell := true, pollNow := nextPoll x false }) c

/-! ## Dealing (13 R298, R299) -/

/-- How many descriptors of a unit, of every context or of one, have been dealt and have not completed. -/
def dealtTo (s : State) (only : Option CtxId) (u : UnitId) : Nat :=
  sumNat ((fins 16).map fun c =>
    match only with
    | some d => if c == d then ((s.ctx c).dealt.filter fun p => p.1 == u).length else 0
    | none => ((s.ctx c).dealt.filter fun p => p.1 == u).length)

/-- 13 R299: the unit holds as many as it accepts; a DMA channel that drains accepts none (14 R331). -/
def unitFull (s : State) (c : CtxId) (u : UnitId) : Bool :=
  match u with
  | .tilePath => 4 ≤ dealtTo s (some c) u
  | .dma ch => (s.chan ch).shadowValid || (s.chan ch).state == .draining
  | .gather _ => 4 ≤ dealtTo s none u
  | .hotSet => 8 ≤ dealtTo s none u
  | .stepBuilder => 1 ≤ dealtTo s (some c) u
  | .table => false
  | .walker => false
  | .security => false

/-- The descriptor at the front of the ring walker, when no earlier one holds it. -/
def frontJob (s : State) (c : CtxId) : Option Job :=
  match (s.ctx c).hold with
  | none => (s.ctx c).walker.head?
  | some _ => none

/-- unit_blocked: the front descriptor's unit is full. -/
def unitBlocked (s : State) (c : CtxId) : Bool :=
  match frontJob s c with
  | some j => unitFull s c (unitOf j)
  | none => false

/-- The completion queue has no room for another descriptor's record. -/
def cqFull (x : Ctx) : Bool := 2 ^ x.cqLog2.toNat ≤ (x.fetched - x.head).toNat

/-- The tensor entries that a descriptor of a mover or of the table unit names. -/
def tensorsNamed (j : Job) : List Nat :=
  if 0x10 ≤ j.op && j.op ≤ 0x14 then [rf j.n 8 7 0, rf j.n 8 15 8]
  else if j.op == 0x60 || j.op == 0x61 then [rf j.n 8 7 0]
  else []

/-- 13 R311: an earlier TDESC_CREATE of an entry that the descriptor names has not completed. -/
def creating (x : Ctx) (j : Job) : Bool :=
  (tensorsNamed j).any fun i => x.dealt.any fun d => d.2.op == 0x60 && rf d.2.n 8 7 0 == i

/-- The front descriptor with opcode `op` that meets `p` is dealt to its unit, which then does `f`
(DESIGN CHOICE, notes/assumptions/9.md). -/
def dealing (s : State) (c : CtxId) (op : Nat) (p : Job → Bool) (f : State → Job → State) : Res :=
  match frontJob s c with
  | none => finish s s
  | some j =>
    running s (j.op == op && p j && !unitFull s c (unitOf j) && !creating (s.ctx c) j) fun s =>
      f (modCtx s c fun x => { x with walker := x.walker.drop 1, dealt := x.dealt ++ [(unitOf j, j)] }) j

/-- The same for a descriptor that a check of fetch may end: it then takes no place in its unit. `seen` happens whether
or not the check ends it (DEDUCED, notes/assumptions/30.md). -/
def dealChecked (s : State) (c : CtxId) (op : Nat) (p : Job → Bool) (check : Job → Option Nat)
    (seen f : State → Job → State) : Res :=
  match frontJob s c with
  | none => finish s s
  | some j =>
    match if j.op == op && p j && !creating (s.ctx c) j then check j else none with
    | some st =>
      running s true fun s =>
        completeErr (modCtx (seen s j) c fun x => { x with walker := x.walker.drop 1 }) c (unitOf j) j st
    | none => dealing s c op p fun s j => f (seen s j) j

/-! ## Fetching (13 R297, R300) -/

/-- How many descriptors a ring read would bring. -/
def fetchCount (x : Ctx) : Nat :=
  let size := 2 ^ x.sqLog2.toNat
  min 8 (min (x.tail - x.fetched).toNat
    (min (2 ^ x.cqLog2.toNat - (x.fetched - x.head).toNat) (size - x.fetched.toNat % size)))

/-- The conditions of 13 R297, room in the completion queue apart. -/
def wouldFetch (s : State) (c : CtxId) : Bool :=
  let x := s.ctx c
  polled x && x.fetching.isNone && !x.fetchFailed && x.tail != x.fetched && !unitBlocked s c

/-- The conditions of 13 R297. -/
def canFetch (s : State) (c : CtxId) : Bool := wouldFetch s c && !cqFull (s.ctx c)

/-- cq_blocked: the queue's room alone stops fetching (13 R297). -/
def cqBlocked (s : State) (c : CtxId) : Bool := wouldFetch s c && cqFull (s.ctx c)

/-- The first context of a list in cyclic order after the last one served. -/
def cyclicAfter (last : Option CtxId) (cs : List CtxId) : Option CtxId :=
  match last with
  | none => cs.head?
  | some l => firstMin (fun a b => subMod 4 a.val (l.val + 1) < subMod 4 b.val (l.val + 1)) cs

/-- The context whose turn it is: LC before BE, round robin within a class. -/
def fetchTurn (s : State) : Option CtxId :=
  let able := (fins 16).filter (canFetch s)
  match cyclicAfter s.sched.fetchLc (able.filter fun c => (s.ctx c).lc) with
  | some c => some c
  | none => cyclicAfter s.sched.fetchBe (able.filter fun c => !(s.ctx c).lc)

/-- Where the descriptor with fetch count F lies: SQ base + 64 × (F mod ring size) (13 R292). -/
def sqAddr (x : Ctx) : Nat := x.sqBase.toNat + 64 * (x.fetched.toNat % 2 ^ x.sqLog2.toNat)

/-- The next ring read: its descriptors and their address; in SAFE it takes their headers alone (13 R300). -/
def nextRead (s : State) (x : Ctx) : FetchRead := ⟨fetchCount x, sqAddr x, s.eng == .safe⟩

/-- DESCRIPTOR_FETCH: one host read is issued in the context's turn. -/
def execDescriptorFetch (c : CtxId) (s : State) : Res :=
  working s (fetchTurn s == some c) fun s =>
    let s1 := modCtx s c fun x => { x with fetching := some (nextRead s x) }
    { s1 with sched := if (s.ctx c).lc then { s1.sched with fetchLc := some c } else { s1.sched with fetchBe := some c } }

/-- One descriptor has arrived: F advances. In SAFE it is answered at once (13 R300); else it waits in the ring walker.
A read of headers brings the first 8 bytes alone. -/
def arrive (c : CtxId) (headers : Bool) (s : State) (raw : BitVec 512) : State :=
  let j : Job := ⟨(s.ctx c).fetched, if headers then (raw.setWidth 64).setWidth 512 else raw, false⟩
  let s1 := modCtx s c fun x => { x with fetched := x.fetched + 1 }
  if s.eng == .safe then completeErr s1 c .walker j stSafe
  else modCtx s1 c fun x => { x with walker := x.walker ++ [j] }

/-- DESCRIPTOR_ARRIVAL: `descs` is none on a bus error; F then does not advance (13 R317). -/
def execDescriptorArrival (c : CtxId) (descs : Option (List (BitVec 512))) (s : State) : Res :=
  if Instr.wf (.descriptorArrival c descs) then
    match descs with
    | none =>
      working s (s.ctx c).fetching.isSome fun s =>
        modCtx s c fun x => { x with fetching := none, fetchFailed := true, hostErr := true }
    | some ds =>
      match (s.ctx c).fetching with
      | none => finish s s
      | some f =>
        working s (f.count == ds.length) fun s =>
          ds.foldl (arrive c f.headers) (modCtx s c fun x => { x with fetching := none })
  else .refused (.illFormed "a ring read brings 1 to 8 descriptors")

/-! ## FENCE (13 R309) -/

/-- all -/
def fnAll (j : Job) : Bool := rb j.n 8 0
/-- tile -/
def fnTile (j : Job) : Bool := rb j.n 8 1
/-- other -/
def fnOther (j : Job) : Bool := rb j.n 8 2
/-- dma_mask -/
def fnDma (j : Job) : Nat := rf j.n 0xC 15 0
/-- chan_mask -/
def fnChan (j : Job) : Nat := rf j.n 0xC 31 16

/-- all with another scope bit, or no scope at all. -/
def fenceBad (j : Job) : Bool :=
  let some' := fnTile j || fnOther j || fnDma j != 0 || fnChan j != 0
  if fnAll j then some' else !some'

/-- A dealt descriptor is in the scope of a FENCE; one that waits for a step boundary is not
(DEDUCED, notes/assumptions/29.md). -/
def inScope (f : Job) (d : UnitId × Job) : Bool :=
  !d.2.boundary && d.2.c != f.c
  && (fnAll f ||
    match d.1 with
    | .tilePath => fnTile f
    | .gather ch => bitAt (fnChan f) ch.val
    | .dma ch => bitAt (fnDma f) ch.val
    | .stepBuilder => fnOther f
    | .hotSet => fnOther f
    | .security => fnOther f
    | .walker => fnOther f
    | .table => fnOther f && d.2.op == 0x61)

/-- FENCE: later descriptors are held until its scope has completed. -/
def execFence (c : CtxId) (s : State) : Res :=
  dealing s c 0x50 (fun _ => true) fun s j =>
    if fenceBad j then completeErr s c .walker j stBad else modCtx s c fun x => { x with hold := some .fence }

/-- FENCE_RELEASE: every earlier descriptor in scope has completed. -/
def execFenceRelease (c : CtxId) (s : State) : Res :=
  let x := s.ctx c
  match x.hold, holder x 0x50 with
  | some .fence, some f =>
    working s (!x.dealt.any (inScope f)) fun s =>
      complete (modCtx s c fun x => { x with hold := none }) c .walker f stOk 0 0 0
  | _, _ => finish s s

/-! ## EPOCH_WAIT (13 R310) -/

/-- source -/
def ewSource (j : Job) : Nat := rf j.n 8 1 0
/-- word_addr -/
def ewWord (j : Job) : Nat := rf j.n 0x18 47 0
/-- target -/
def ewTarget (j : Job) : Nat := rf j.n 0x20 63 0
/-- The tag of a context's next EPOCH_WAIT: no two of its 2,048 latest requests share one (notes/assumptions/10.md). -/
def ewTag (x : Ctx) (c : CtxId) : BitVec 16 := BitVec.ofNat 16 (0x8000 + 16 * x.waitNo.toNat + c.val)

/-- The READ_REQ of length 0 of an EPOCH_WAIT on a remote block. -/
def askEpoch (s : State) (c : CtxId) (j : Job) (tag : BitVec 16) : State :=
  let raw := ownerRaw s (ewEntry j)
  let e := (Config.emptyReq (ewEntry j)).toNat
  sendMsg s (owChip raw) (owEngine raw) ⟨6, .epochReq c,
    readReqBytes s (owIndex raw) (ewEpoch j) 0 0 (fld e 3 0) (fld e 7 4) tag.toNat (fld e 31 8) (fld e 55 32)⟩

/-- An EPOCH_WAIT with source 0 holds the later descriptors of its context. -/
def holdEpoch (s : State) (c : CtxId) : State :=
  modCtx s c fun x => { x with hold := some (.epochOwner (ewTag x c) none), waitNo := x.waitNo + 1 }

/-- EPOCH_WAIT with source 0 (a reserved source completes with BAD_OPCODE). -/
def execEpochWaitOwner (c : CtxId) (s : State) : Res :=
  dealing s c 0x51 (fun j => ewSource j != 1) fun s j =>
    let raw := ownerRaw s (ewEntry j)
    if ewSource j != 0 then completeErr s c .walker j stBad
    else if !owValid raw then completeErr s c .walker j stRange
    else if owOwn raw then holdEpoch s c
    else if destLost s (owChip raw) (owEngine raw) then completeErr s c .walker j stPeerLost
    else askEpoch (holdEpoch s c) c j (ewTag (s.ctx c) c)

/-- The word of an EPOCH_WAIT is read: rank 5, charged to the memory regulator. -/
def readWord (s : State) (c : CtxId) (j : Job) : State :=
  request (modCtx s c fun x => { x with hold := some (.epochWord true s.tick) })
    (readReqs (.wait c) (ewWord j) 8 5 (some c))

/-- EPOCH_WAIT with source 1. -/
def execEpochWaitWord (c : CtxId) (s : State) : Res :=
  dealing s c 0x51 (fun j => ewSource j == 1) fun s j =>
    match worst [(ewWord j % 64 != 0, stMisalign), (!inWindows (s.ctx c) (ewWord j) 8, stRange)] with
    | some st => completeErr s c .walker j st
    | none => readWord s c j

/-- EPOCH_WAIT_POLL: 500 ticks after the last read the word is read again. -/
def execEpochWaitPoll (c : CtxId) (s : State) : Res :=
  match (s.ctx c).hold, holder (s.ctx c) 0x51 with
  | some (.epochWord reading last), some j =>
    working s (!reading && 500 ≤ s.since last) fun s => readWord s c j
  | _, _ => finish s s

/-- The word has arrived: the wait ends when (word − target) mod 2^64 is below 2^63. -/
def wordArrived (s : State) (c : CtxId) (w : Nat) : State :=
  match (s.ctx c).hold, holder (s.ctx c) 0x51 with
  | some (.epochWord _ last), some j =>
    if subMod 64 w (ewTarget j) < 2 ^ 63 then endWait s c j stOk w
    else modCtx s c fun x => { x with hold := some (.epochWord false last) }
  | _, _ => s

end Sys2Proof.Machine
end

