-- ==== Sys2Proof/Machine/Streams.lean ====
section
/-!
DEFINITION. What the units share of the Basol streams (07): rewinding (R162), refusals (R165), and the loss of a
destination (R123, R171, R173, R175).
-/
namespace Sys2Proof.Machine

/-! ## Refusals and rewinding (R162, R165) -/

/-- A REFUSE frame to an engine, for its stream as it stands; for a stream no longer held its generation and block are
free values, and the port is that of traffic to the engine (DESIGN CHOICE, notes/assumptions/35.md). Outside READY and
RUN the engine refuses first blocks alone (R165). -/
def refuseTo (s : State) (chip : BitVec 16) (engine : Bool) : State :=
  if !s.up then s
  else
    match findRx s chip engine with
    | none =>
      let v := Config.goneStream (engKey chip engine)
      sendFrame s (portTo s chip engine) chip engine (v.extractLsb' 32 8) 4 (v.extractLsb' 0 32) 0
    | some r => sendFrame s r.port chip engine r.gen 4 (r.expect - 1) 0

/-- 07 R162: the message partly received is lost, and its blocks are freed. -/
def rewind (s : State) (chip : BitVec 16) (engine : Bool) : State :=
  match findRx s chip engine with
  | none => s
  | some r =>
    if r.partBlocks == 0 then s
    else freePlaces (teleEng (modRx s chip engine fun r => { r with part := [], partBlocks := 0 }) 4 1) chip engine
      r.partBlocks

/-- The spore packets that meet `p` are removed by 06 R143; those not yet fed free their places. -/
def dropSpores (s : State) (p : Packet → Bool) : State :=
  let hit := fun (k : Packet) => k.spore && p k
  let gone := (s.queues.toList.flatMap fun q => q.packets.filter fun k => hit k && k.state == .committed)
    ++ (s.sporeWriters.filter fun w => hit w.2).map (·.2)
  let s1 := abortPackets { s with sporeWriters := s.sporeWriters.filter fun w => !hit w.2 } hit
  gone.foldl (fun s k => freePlaces s k.srcChip k.engine k.places) s1

/-! ## Adaptation groups (05 R123, 19 R396) -/

/-- The levels of the tree that a member's rank uses: up to its lowest set bit, with a partner below the count. -/
def levelsOf (x : Ctx) : List (Fin 16) :=
  let r := x.grpRank.toNat
  (fins 16).filter fun l => r % 2 ^ l.val == 0 && r ^^^ 2 ^ l.val < x.grpMembers.toNat + 1

/-- An engine is a partner of the context's member. -/
def hasPartner (x : Ctx) (chip : BitVec 16) (engine : Bool) : Bool :=
  (levelsOf x).any fun l => let g := x.grpPeers[l]; g.valid && g.chip == chip && g.engine == engine

/-- A member of the group is lost before the reductions complete: the biases keep their values. The next TILE_ROUTE ends
with PEER_LOST, and its context goes to FAULTED: at once where one has been dealt, which waits for the update or comes
after it, else when one is (R123, 12 R285) (DEDUCED, notes/assumptions/38.md). -/
def loseGroup (s : State) (c : CtxId) : State :=
  if (s.ctx c).reductions.isEmpty then s
  else
    let s1 := modCtx s c fun x => { x with reductions := [] }
    match (s1.ctx c).tp.find? fun j => tpOp j.ops == 1 with
    | some j => faultCtx s1 c stPeerLost (some j.c)
    | none => modCtx s1 c fun x => { x with groupLost := true }

/-! ## Loss of a destination (07 R171, R173, R175) -/

/-- The EPOCH_WAIT of a context waits for an engine. -/
def waitsFor (s : State) (chip : BitVec 16) (engine : Bool) (c : CtxId) : Option Job :=
  match (s.ctx c).hold, holder (s.ctx c) 0x51 with
  | some (.epochOwner _ _), some j =>
    let raw := ownerRaw s (ewEntry j)
    if !owOwn raw && owChip raw == chip && owEngine raw == engine then some j else none
  | _, _ => none

/-- Tiles waiting on the engine are abandoned, with every tile of their contexts, and run again. -/
def rerunTiles (s : State) (cs : List CtxId) : State :=
  cs.foldl (fun s c => abandonAll (teleCtx s c 15 (tilesOf s c).length) c false) s

/-- Remote reads of the engine end with PEER_LOST. -/
def failReads (s : State) (chip : BitVec 16) (engine : Bool) : State :=
  let hit := fun (r : MoverRun) => r.reqs.any fun q => q.chip == chip && q.engine == engine
  let s1 := { s with gather := vmap (fun g => { g with
    run := g.run.map fun r => if hit r then { r with failed := lowerSt r.failed stPeerLost } else r }) s.gather }
  (fins 16).foldl (fun s c =>
    match waitsFor s chip engine c with
    | some j => endWait s c j stPeerLost 0
    | none => s) s1

/-- 07 R173: what the engine serves for a lost home engine. -/
def dropHome (s : State) (chip : BitVec 16) (engine : Bool) : State :=
  let of := fun (k : Packet) => k.srcChip == chip && k.engine == engine
  let s1 := dropSpores (rewind s chip engine) fun k => of k && k.state != .feeding
  mapQueues s1 fun q => { q with packets := q.packets.map fun k => if k.spore && of k then { k with lost := true } else k }

/-- The RESULTs to an engine that have not been sent whole: one whose blocks have all been sent once, though not all are
acknowledged, is not late (DESIGN CHOICE, notes/assumptions/37.md: R173 does not say when a RESULT counts as sent). -/
def unsentResults (s : State) (chip : BitVec 16) (engine : Bool) : Nat :=
  let of := fun (o : MsgOwner) => b2n (o == .result)
  sumNat ((s.tx.filter (isTx chip engine)).map fun t =>
      sumNat (t.queue.map fun m => of m.owner) + (match t.cur with | some m => of m.1.owner | none => 0))
    + sumNat ((s.txWait.filter fun w => w.1 == chip && w.2.1 == engine).map fun w => of w.2.2.owner)

/-- The outbound stream to an engine ends: nothing more is sent on it, and its unsent RESULTs count as late (R173). -/
def endTx (s : State) (chip : BitVec 16) (engine : Bool) : State :=
  teleEng { s with
    tx := s.tx.map fun t => if isTx chip engine t then
      { t with cur := none, queue := [], unacked := [], resend := [], ended := true, idleSince := s.tick } else t
    txWait := s.txWait.filter fun w => !(w.1 == chip && w.2.1 == engine) } 3 (unsentResults s chip engine)

/-- A destination is lost, refused or degraded: its entry leaves ACTIVE unless it is OFF, and everything that waits on
it ends (DEDUCED, notes/assumptions/37.md). -/
def loseDest (s : State) (chip : BitVec 16) (engine : Bool) (st : PeerState) : State :=
  let cs := (fins 16).filter fun c => s.tiles.any fun t => t.ctx == c && waitsOn s chip engine t
  let s1 := endTx (modPeer s chip engine fun p => if p.state == .off then p else { p with state := st }) chip engine
  let s2 := failReads (rerunTiles s1 cs) chip engine
  let s3 := (fins 16).foldl (fun s c => if hasPartner (s.ctx c) chip engine then loseGroup s c else s) s2
  if st == .degraded then s3 else dropHome s3 chip engine

end Sys2Proof.Machine
end

