-- ==== Sys2Proof/Machine/Models.lean ====
section
/-!
DEFINITION. The commands of the model hot set (10 R244, R247, R249).
-/
namespace Sys2Proof.Machine

/-- A descriptor joins the hot-set manager's queue; what the manager does with it follows of itself (`hotPump`). -/
def enqueueHot (c : CtxId) (s : State) (j : Job) : State :=
  { s with hotq := s.hotq ++ [⟨c, j.c, j.raw, none, 0⟩] }

/-- MODEL_LOAD. -/
def execModelLoad (c : CtxId) (s : State) : Res := dealing s c 0x40 (fun _ => true) (enqueueHot c)

/-- MODEL_PIN with op 0. -/
def execModelUnpin (c : CtxId) (s : State) : Res := dealing s c 0x41 (fun j => mpOp j.raw == 0) (enqueueHot c)

/-- MODEL_PIN with op 1 (and with the reserved op 3, which completes with BAD_OPCODE). -/
def execModelPin (c : CtxId) (s : State) : Res :=
  dealing s c 0x41 (fun j => mpOp j.raw == 1 || mpOp j.raw == 3) (enqueueHot c)

/-- MODEL_PIN with op 2. -/
def execModelForget (c : CtxId) (s : State) : Res := dealing s c 0x41 (fun j => mpOp j.raw == 2) (enqueueHot c)

/-- The tile at a place, oldest first: at most four hold a half or a bank (01 R10)
(DESIGN CHOICE, notes/assumptions/11.md). -/
def tileNo (s : State) (i : Fin 4) : Option Tile := s.tiles[i.val]?

/-- The directory entry that a tile names. -/
def tileDir (s : State) (t : Tile) : Option (Nat × HotEntry) := dirFind s t.model.toNat t.layer.toNat

/-- The tile misses: its scoring stalls, and the fetch begins once room can be made. -/
def missFetch (s : State) (t : Tile) (i : Nat) (e : HotEntry) : State :=
  let s1 := if t.fetching then s else
    let s0 := modTile s t.ctx t.epoch fun t => { t with missed := true, fetching := true, missTick := s.tick }
    if t.missed then s0 else teleCtx s0 t.ctx 31 1
  if e.loading then s1
  else
    match makeRoom s1 e.units with
    | none => s1
    | some (s2, _) => startLoad s2 i 1 t.ctx (loadRngs e)

/-- HOTSET_MISS_FETCH: a tile whose route context is not resident. -/
def execHotsetMissFetch (i : Fin 4) (s : State) : Res :=
  match tileNo s i with
  | none => finish s s
  | some t =>
    match tileDir s t with
    | none => finish s s
    | some (d, e) =>
      running s (!t.dead && t.kind == .route && !t.sharesDealt && !e.resident) fun s => missFetch s t d e

end Sys2Proof.Machine
end

