-- ==== Sys2Proof/Machine/TilePath.lean ====
section
/-!
DEFINITION. The front part of the tile path (01 R9 stages 1 to 5): the tile-path descriptors, staging by the Bond,
pre-norm, shares of the slices (03 R55 to R57), weight sets (R69 to R71), scoring, the hold test and selection.
-/
namespace Sys2Proof.Machine

/-! ## Descriptors -/

/-- A tile-path descriptor joins its context's jobs; its checks of fetch (13 R304) follow of themselves. -/
def joinTp (c : CtxId) (s : State) (j : Job) : State :=
  modCtx s c fun x => { x with tp := x.tp ++ [⟨j.c, j.raw, 0, 0, 0, false, 0, 0, 0, 0, 0, 0, 0, 0, false, false, []⟩] }

/-- TILE_ROUTE. After the loss of a member of its adaptation group it completes with PEER_LOST, and its context goes to
FAULTED (05 R123). -/
def execTileRoute (c : CtxId) (s : State) : Res :=
  dealing s c 0x01 (fun _ => true) fun s j =>
    if (s.ctx c).groupLost then
      faultCtx (modCtx (joinTp c s j) c fun x => { x with groupLost := false }) c stPeerLost (some j.c)
    else joinTp c s j

/-- TILE_COMBINE. -/
def execTileCombine (c : CtxId) (s : State) : Res := dealing s c 0x02 (fun _ => true) (joinTp c)

/-- TILE_REVERSE. -/
def execTileReverse (c : CtxId) (s : State) : Res := dealing s c 0x03 (fun _ => true) (joinTp c)

/-! ## TILE_STAGE_BEGIN (01 R10, R21, 02 R48, R50, 07 R166, 10 R242, 13 R312) -/

/-- The job whose next tile is to be staged: the oldest with a tile left, when every earlier one is staged whole and the
one before has at most one tile in flight (DEDUCED, notes/assumptions/21.md). -/
def stageJob (s : State) : Option (CtxId × TpJob) :=
  match s.running with
  | none => none
  | some c =>
    let x := s.ctx c
    let before' := x.tp.takeWhile fun j => j.checked && !j.more
    match x.tp.drop before'.length with
    | [] => none
    | j :: _ =>
      let ahead := match before'.getLast? with
        | none => 0
        | some p => (s.tiles.filter fun t => t.ctx == c && t.c == p.c).length
      if x.state == .running && x.resumed && x.pendMode.isNone && j.checked && ahead ≤ 1 then some (c, j) else none

/-- Rows that a tile of `n` tokens takes in each enabled slice. -/
def stageRows (s : State) (n : Nat) : Nat := ceilDiv n (max 1 (enabledSlices s).length)

/-- 01 R10, 02 R50: a half is free for `n` rows of `len` bytes (DEDUCED, notes/assumptions/21.md). -/
def halfFree (s : State) (n len : Nat) : Bool :=
  let held := s.tiles.filter (·.halfHeld)
  held.length < 2
  && ((enabledSlices s).length == 8
    || stageRows s n * len + sumNat (held.map fun t => stageRows s t.n * rowBytes t.d t.rowFmt) ≤ 4194304)

/-- The byte of each slice's Token Stage at which the tile's rows begin: with eight slices the lower or the upper half
that is free, else the lower or the upper end of the region (02 R50). -/
def stageBase (s : State) (n len : Nat) : Nat :=
  if !(s.tiles.any fun t => t.halfHeld && t.stageAt == 0) then 0
  else if (enabledSlices s).length == 8 then 2097152
  else 4194304 - stageRows s n * len

/-- What a tile will be. -/
structure TileSpec where
  kind : TileKind
  tau0 : Nat
  n : Nat
  k : Nat
  d : Nat
  model : Nat
  layer : Nat
  hdr : List Byte
  fmt : Nat
  step : BitVec 64
  log : List RtEntry
  status : List (Option TokStatus)
  deriving DecidableEq, Repr

/-- The next tile of a TILE_ROUTE under its route context's header; with rng_step_en its streams use rng_step (11
R271). -/
def routeSpec (x : Ctx) (j : TpJob) (inT : TDesc) (hdr : List Byte) : TileSpec :=
  let o := j.ops
  let h := leNat hdr
  let n := min (tileMax (hD h) (hE h) (hK h) inT.fmt (cbResFmt o)) (j.count - j.nextPos)
  ⟨.route, j.nextPos, n, hK h, hD h, tpModel o, tpLayer o, hdr, inT.fmt,
    if tpReplay o then BitVec.ofNat 64 (tpRngStep o) else x.step, [], List.replicate n none⟩

/-- What staging has read, beside the rows, of a range. -/
def prepGot (s : State) (c : CtxId) (a n : Nat) : List Byte := gotRead s (.prep c) a n

/-- Staging reads ranges beside the rows: rank 2, charged to the memory regulator. -/
def prepRead (s : State) (c : CtxId) (rs : List (Nat × Nat)) (k : State → State) : State :=
  reading s (.prep c) 2 (some c) rs k

/-- Where the next log of a TILE_COMBINE or TILE_REVERSE lies. -/
def nextLog (j : TpJob) : Nat := cbLog j.ops + j.nextTile * cbLogStride j.ops

/-- The header of that log, as read. -/
def logHead (s : State) (c : CtxId) (j : TpJob) : List Byte := prepGot s c (nextLog j) 64

/-- The rest of that log: its statuses and entries. -/
def logRest (s : State) (c : CtxId) (j : TpJob) : Nat × Nat :=
  let h := leNat (logHead s c j)
  (nextLog j + 64, logLen (lgTokens h) (lgK h) - 64)

/-- The tile of that log, as read. -/
def logSpec (s : State) (c : CtxId) (j : TpJob) (inT : TDesc) : TileSpec :=
  let hb := logHead s c j
  let h := leNat hb
  let n := lgTokens h
  let body := prepGot s c (logRest s c j).1 (logRest s c j).2
  ⟨if tpOp j.ops == 2 then .combine else .reverse, lgFirst h, n, lgK h, lgD h, lgModel h, lgLayer h, hb, inT.fmt,
    BitVec.ofNat 64 (lgStep h),
    tabulate (n * lgK h) fun i => BitVec.ofNat 128 (leAt body (logStatus n + 16 * i) 16),
    tabulate n fun t => some (statusOf (leAt body (t / 4) 1 / 4 ^ (t % 4) % 4))⟩

/-- The range of the position list that a tile needs. -/
def posRngs (o : TpOps) (p : TileSpec) : List (Nat × Nat) :=
  if cbPosIn o == 0 then [] else [(cbPosIn o + 64 + 4 * p.tau0, 4 * p.n)]

/-- P(τ) of a tile's tokens (08 R187). -/
def origPos (s : State) (c : CtxId) (o : TpOps) (p : TileSpec) : List Nat :=
  match posRngs o p with
  | r :: _ => let bs := prepGot s c r.1 r.2; tabulate p.n fun t => leAt bs (4 * t) 4
  | [] => tabulate p.n fun t => p.tau0 + t

/-- The pass's sequence entry is needed (08 R196, 13 R304). -/
def needsSeq (o : TpOps) : Bool := tpOp o == 1 || cbRounding o == 1

/-- 08 R179, 10 R242: the positions of a list fit the sequence and the tensors they place rows in. -/
def posFit (s : State) (c : CtxId) (o : TpOps) (ps : List Nat) : Bool :=
  let x := s.ctx c
  let len := fun i => ((heldTensor x i).map fun t => tdSize t 1).getD 0
  cbPosIn o == 0
  || ((!needsSeq o || match seqFor s c (tpSeq o) (tpUid o) with
        | some q => ps.all fun p => tpPosBase o + p < q.tokens
        | none => false)
      && (cbOrder o != 1 || ps.all (· < len (cbRestore o)))
      && (cbOrder o != 2 || ps.all (· < len (cbOut o))))

/-- The range of the token mask that a tile needs (13 R302). -/
def maskRngs (o : TpOps) (p : TileSpec) : List (Nat × Nat) :=
  let lo := p.tau0 / 8
  if tpOp o != 1 || tpMask o == 0 then [] else [(tpMask o + lo, ceilDiv (p.tau0 + p.n) 8 - lo)]

/-- Bits of the token mask, one a token. -/
def maskBits (s : State) (c : CtxId) (o : TpOps) (p : TileSpec) : List Bool :=
  match maskRngs o p with
  | r :: _ =>
    let bs := prepGot s c r.1 r.2
    tabulate p.n fun t => bitAt (leAt bs ((p.tau0 + t) / 8 - p.tau0 / 8) 1) ((p.tau0 + t) % 8)
  | [] => List.replicate p.n false

/-- The exit records of a tile's tokens (05 R113). -/
def exitRngs (s : State) (c : CtxId) (o : TpOps) (ps : List Nat) : List (Nat × Nat) :=
  match if tpOp o == 1 then (seqFor s c (tpSeq o) (tpUid o)).filter (·.exitEn) else none with
  | none => []
  | some q => ps.map fun pos => (q.exitBase + 2 * (tpPosBase o + pos), 2)

/-- Exited tokens by the pass's exit map (05 R113, 03 R55). -/
def exitBits (s : State) (c : CtxId) (o : TpOps) (ps : List Nat) : List Bool :=
  match exitRngs s c o ps with
  | [] => List.replicate ps.length false
  | rs => rs.map fun r => bitAt (leNat (prepGot s c r.1 r.2)) 8

/-- A token before staging. -/
def freshTok (orig pos : Nat) (status : Option TokStatus) : Tok where
  orig := orig
  pos := pos
  row := none
  slice := none
  y := none
  nanInput := false
  halt := zeroF
  sets := 0
  part := []
  badLogit := false
  allNegInf := true
  sel := ⟨ninfF, zeroF, []⟩
  choices := []
  sketch := none
  holdRec := []
  held := false
  status := status
  compact := 0
  mixing := false
  combined := false

/-- The tile of a specification under an epoch. -/
def specTile (c : CtxId) (j : TpJob) (e : BitVec 16) (p : TileSpec) (toks : List Tok) : Tile where
  ctx := c
  c := j.c
  kind := p.kind
  i := j.nextTile
  tau0 := p.tau0
  n := p.n
  k := p.k
  d := p.d
  epoch := e
  model := BitVec.ofNat 16 p.model
  layer := BitVec.ofNat 8 p.layer
  hdr := p.hdr
  toks := toks
  rowFmt := p.fmt
  step := p.step
  replay := p.kind == .route && tpReplay j.ops
  bank := none
  halfHeld := true
  stageAt := 0
  adaptive := false
  sharesDealt := false
  missed := false
  missTick := 0
  fetching := false
  bufs := false
  bufUnits := []
  sets := []
  scoreFrom := Vector.replicate 8 none
  streamed := Vector.replicate 8 0
  fillPos := 0
  filled := false
  bucketed := false
  bucketTick := 0
  cores := []
  course := 0
  later := []
  coursesRun := 0
  writers := []
  fill := []
  spilled := []
  closed := false
  logged := false
  log := p.log
  bcast := 0
  committing := false
  undo := []
  dead := false
  committed := false

/-- The reads that stage a tile: rank 2 (01 R24). -/
def stageReqs (s : State) (t : Tile) (inT : TDesc) : List MemReq :=
  (indexed t.toks).flatMap fun p =>
    if t.wantsRow p.2 then
      match rowPlace s inT (t.tau0 + p.1) with
      | some a => readReqs (.stage t.ctx t.epoch p.1) a (rowBytes t.d t.rowFmt) 2 (some t.ctx)
      | none => []
    else []

/-- The tile takes its epoch and its half, and its rows are read. -/
def beginTile (s : State) (c : CtxId) (j : TpJob) (inT : TDesc) (p : TileSpec) (ps : List Nat) (masked : List Bool) :
    State :=
  let toks := (indexed (List.zip ps (List.zip p.status masked))).map fun (_, orig, st, m) =>
    freshTok orig (tpPosBase j.ops + orig) (if m then some .masked else st)
  let t := { specTile c j (s.ctx c).epoch p toks with stageAt := stageBase s p.n (rowBytes p.d p.fmt) }
  let s1 := modCtx (dropRead s (.prep c)) c fun x => { x with epoch := x.epoch + 1, lastEpoch := some s.tick }
  let s2 := modTp { s1 with tiles := s1.tiles ++ [t] } c j.c fun j =>
    { j with nextTile := j.nextTile + 1, nextPos := p.tau0 + p.n }
  request s2 (stageReqs s2 t inT)

/-- A check of the tile fails: its descriptor completes once no tile before it is in flight
(DEDUCED, notes/assumptions/21.md). -/
def stageFail (s : State) (c : CtxId) (j : TpJob) (st : Nat) : State :=
  if s.tiles.any (fun t => t.ctx == c) || !((s.ctx c).tp.head?.any fun h => h.c == j.c) then s
  else
    match (s.ctx c).dealt.find? fun d => d.2.c == j.c with
    | some d => completeTp (modCtx s c fun x => { x with tp := x.tp.filter fun t => t.c != j.c }) c d.2 j st
    | none => s

/-- The tile's reads of positions, mask and exit map, and its staging. -/
def stageWith (s : State) (c : CtxId) (j : TpJob) (inT : TDesc) (p : TileSpec) : State :=
  let o := j.ops
  if !halfFree s p.n (rowBytes p.d p.fmt) then s
  else
    prepRead s c (posRngs o p) fun s =>
      let ps := origPos s c o p
      if !posFit s c o ps then stageFail s c j stRange
      else
        prepRead s c (maskRngs o p ++ exitRngs s c o ps) fun s =>
          beginTile s c j inT p ps (List.zipWith (· || ·) (maskBits s c o p) (exitBits s c o ps))

/-- The next tile of a job is staged, or ends its descriptor. -/
def stageNext (s : State) (c : CtxId) (j : TpJob) : State :=
  let o := j.ops
  match heldTensor (s.ctx c) (tpIn o) with
  | none => s
  | some inT =>
    if needsSeq o && (seqFor s c (tpSeq o) (tpUid o)).isNone then stageFail s c j stRange
    else if tpOp o == 1 then
      match dirFind s (tpModel o) (tpLayer o) with
      | none => stageFail s c j stRange
      | some (_, e) => stageWith s c j inT (routeSpec (s.ctx c) j inT e.hdr)
    else
      prepRead s c [(nextLog j, 64)] fun s =>
        prepRead s c [logRest s c j] fun s => stageWith s c j inT (logSpec s c j inT)

/-- What staging reads beside the rows has come: the tile that waits for it is staged. -/
def stageOn (s : State) (c : CtxId) : State :=
  match stageJob s with
  | some (c', j) => if c' == c then stageNext s c j else s
  | none => s

/-- A read of a tile's staging meets a bus error: its descriptor ends, and the tiles in flight are abandoned (15 R339). -/
def stageBus (s : State) (c : CtxId) : State :=
  let s1 := killReads s (· == .prep c)
  match stageJob s1 with
  | some (c', j) => if c' == c then failTp s1 c j.c stBus else s1
  | none => s1

/-- TILE_STAGE_BEGIN: the running context stages its next tile. A context begins at most one epoch in 256 ticks (07
R166), and a tile that runs again reads the records that its abandoned run has left as they were (05 R119). -/
def execTileStageBegin (s : State) : Res :=
  match stageJob s with
  | none => finish s s
  | some (c, j) =>
    let spaced := match (s.ctx c).lastEpoch with | none => true | some t => 256 ≤ s.since t
    running s (spaced && (s.tiles.filter (·.halfHeld)).length < 2 && !memBusy s (· == .undo c)) fun s => stageNext s c j

/-! ## Tokens -/

/-- Token `i` of a tile. -/
def tokAt (t : Tile) (i : Nat) : Option Tok := t.toks[i]?

/-- `f` applied to token `i` of a tile. -/
def modTok (s : State) (t : Tile) (i : Nat) (f : Tok → Tok) : State :=
  modTile s t.ctx t.epoch fun t => { t with toks := updAt i f t.toks }

/-- A tile and its token, for the commands that name both. -/
def tileTok (s : State) (ti : Fin 4) (i : BitVec 12) : Option (Tile × Tok) :=
  (tileNo s ti).bind fun t => (tokAt t i.toNat).map fun k => (t, k)

/-- Bytes [off, off + n) of a route context image, from the Router Weight Store (01 R18). -/
def imgSlice (e : HotEntry) (off n : Nat) : List Byte := slice e.store off n

/-- The halt logit of a token from the image's halt column. -/
def haltOf (e : HotEntry) (h : Nat) (y : List F32) : F32 :=
  haltLogit h (zeros (imgHalt h) ++ imgSlice e (imgHalt h) (hD h * hWBytes h)) y

/-- Where the hold record of a token lies (10 R242). -/
def holdAddr (q : Seq) (o : TpOps) (k : Nat) (pos : Nat) : Nat :=
  q.holdBase + tpHold o * (ceilDiv (q.tokens * (16 + 8 * q.holdKmax)) 64 * 64) + pos * holdLen k

/-- The hold record that a token's hold test reads (05 R116). -/
def holdRng (s : State) (t : Tile) (k : Tok) : Option (Nat × Nat) :=
  if hHold (leNat t.hdr) then
    (lookup (tpSeq (tileOps s t)) s.seqs).map fun q => (holdAddr q (tileOps s t) t.k k.pos, holdLen t.k)
  else none

/-- The hold record of token `i` is read: rank 2, charged to the memory regulator. -/
def readHold (s : State) (t : Tile) (i : Nat) (k : Tok) : State :=
  match holdRng s t k with
  | some r => request s (readReqs (.sel t.ctx t.epoch i) r.1 r.2 2 (some t.ctx))
  | none => s

/-- The hold record of token `i` has come. -/
def holdCame (s : State) (t : Tile) (i : Nat) : State :=
  match (tokAt t i).bind (holdRng s t) with
  | some r =>
    let bs := gotRead s (.sel t.ctx t.epoch i) r.1 r.2
    modTok (dropRead s (.sel t.ctx t.epoch i)) t i fun k => { k with holdRec := bs }
  | none => s

/-- The slice whose SFU lanes take a token: any enabled one, until the shares are dealt
(DESIGN CHOICE, notes/assumptions/43.md). -/
def lanesOf (s : State) (k : Tok) : List SliceId := match k.slice with | some l => [l] | none => enabledSlices s

/-- TOKEN_PRENORM: an unmasked staged token of a tile with a bank gets its router input (03 R59 to R64), and its hold
record is read. -/
def execTokenPrenorm (tile : Fin 4) (token : BitVec 12) (s : State) : Res :=
  match tileTok s tile token with
  | none => finish s s
  | some (t, k) =>
    match k.row with
    | some row =>
      running s (!t.dead && t.kind == .route && t.bank.isSome && k.status.isNone && k.y.isNone) fun s =>
        let p := prenorm (leNat t.hdr) t.rowFmt row
        let s1 := modTok (operandNow s .sfu (lanesOf s k)) t token.toNat fun k =>
          { k with y := some p.y, nanInput := p.y.any isNan }
        readHold (teleCtx (convCount s1 t.ctx p.cnt) t.ctx 2 p.dom) t token.toNat k
    | none => finish s s

/-! ## Shares (03 R55 to R57) -/

/-- Tokens of each enabled slice under fixed shares. -/
def fixedShares (n m : Nat) : List Nat := tabulate m fun i => n / m + b2n (i < n % m)

/-- Tokens of each enabled slice under adaptive shares: floors, then one each by largest fraction, ties to the lower
slice. -/
def adaptiveShares (n : Nat) (rho : List Nat) : List Nat :=
  let sum := sumNat rho
  let base := rho.map fun r => n * r / sum
  let order := sortBy (fun a b : Nat × Nat => b.2 < a.2) ((indexed rho).map fun (i, r) => (i, n * r % sum))
  let extra := (order.take (n - sumNat base)).map (·.1)
  (indexed base).map fun (i, c) => c + b2n (extra.contains i)

/-- Positions dealt in ascending order, each to the next slice in cyclic order whose count is not filled: the indices
of the slices. -/
def dealPositions : Nat → Nat → List Nat → List Nat
  | 0, _, _ => []
  | n + 1, cur, left =>
    let m := left.length
    match (tabulate m fun j => (cur + j) % m).find? fun i => left.getD i 0 != 0 with
    | some i => i :: dealPositions n (i + 1) (updAt i (· - 1) left)
    | none => []

/-- Positions of the unmasked tokens of a tile. -/
def unmasked (t : Tile) : List Nat :=
  ((indexed t.toks).filter fun p => p.2.status != some .masked).map (·.1)

/-- Each listed token gets its slice. -/
def assignSlices (toks : List Tok) (who : List (Nat × SliceId)) : List Tok :=
  who.foldl (fun ks w => updAt w.1 (fun k => { k with slice := some w.2 }) ks) toks

/-- a / b to nearest, ties to even. -/
def roundQuot (a b : Nat) : Nat :=
  let q := a / b
  let r := 2 * (a % b)
  if r < b then q else if b < r then q + 1 else q + q % 2

/-- The rate of a slice from its last complete beat window: its beats × 256 / 65,536
(DEDUCED, notes/assumptions/23.md). -/
def windowRho (l : Slice) : Nat := roundQuot (l.beatWin.toNat * 256) 65536

/-- The rate of a slice over a tile it scored. -/
def measuredRho (beats ticks : Nat) : Nat :=
  if ticks == 0 then Config.shortRho beats else roundQuot (beats * 256) ticks

/-- The shares are dealt when a tile begins scoring. A slice that takes no token ends the tile's scoring at once, with
the rate of its last window (DEDUCED, notes/assumptions/23.md). -/
def dealShares (s : State) (t : Tile) : State :=
  let en := enabledSlices s
  let us := unmasked t
  let rho := en.map fun l => s.slices[l].rho
  let fixed := fixedShares us.length en.length
  let adaptive := !(s.ctx t.ctx).det && s.sched.shareAdapt && s.sched.scored && sumNat rho != 0
  let counts := if adaptive then adaptiveShares us.length rho else fixed
  let who := List.zip us ((dealPositions us.length 0 counts).map fun i => en.getD i 0)
  let s1 := modTile { s with
    sched := { s.sched with scored := true }
    slices := (List.zip en counts).foldl (fun v (l, n) => vmod v l fun x =>
      if n == 0 then { x with shareTokens := 0, shareAdaptive := adaptive, rho := windowRho x } else x) s.slices }
    t.ctx t.epoch fun t => { t with adaptive := adaptive, sharesDealt := true, toks := assignSlices t.toks who }
  tdcEvent s1 0 (b2n (counts != fixed)) (some t.ctx)

/-! ## Beginning to score (03 R71, 05 R123, 10 R246 to R248, R251) -/

/-- 05 R123: the layer's update of the step before has not been applied. -/
def adaptWaits (s : State) (t : Tile) : Bool :=
  let mine := fun (l : LayerStat) => l.model == t.model && l.layer == t.layer
  hAdapt (leNat t.hdr)
    && ((s.ctx t.ctx).reductions.any (fun r => mine r.stat) || (s.ctx t.ctx).updates.any fun u => mine u.stat)

/-- The tile may be scored: it is a routed tile with a bank whose route context is resident. -/
def mayScore (s : State) (t : Tile) (e : HotEntry) : Bool :=
  !t.dead && t.kind == .route && t.bank.isSome && !t.filled && e.resident && !e.loading && !adaptWaits s t

/-- The tile begins scoring: it takes set buffers for a streamed route context, a recency stamp and its shares; none
while the buffers find no room (DEDUCED, notes/assumptions/23.md). -/
def beginScoring (s : State) (t : Tile) (i : Nat) (e : HotEntry) : Option State :=
  if t.sharesDealt then some s
  else
    let room := if e.streamed then (makeRoom s 256).map (·.1) else some s
    room.map fun s =>
      let s1 := stampDir (modTile s t.ctx t.epoch fun t => { t with
        bufs := e.streamed, bufUnits := if e.streamed then freeUnits s 256 else [] }) i
      dealShares (if t.missed then s1 else teleCtx s1 t.ctx 30 1) t

/-! ## Weight sets (03 R69 to R71) -/

/-- Sets of a route context. -/
def setsOf (h : Nat) : Nat := hL h * hP h

/-- The tokens of a slice's share, with their positions in it. -/
def shareOf (t : Tile) (l : SliceId) : List (Nat × Nat × Tok) :=
  indexed ((indexed t.toks).filter fun p => p.2.slice == some l)

/-- The group of a place in a share (R70). -/
def groupOf (h place : Nat) : Nat := if hP h == 1 then 0 else place / 256

/-- A token needs no further set. -/
def Tok.scored (k : Tok) (h : Nat) : Bool := k.held || setsOf h ≤ k.sets

/-- The slice has done with every set of the tile before number `b` of its walk. -/
def slicePast (t : Tile) (l : SliceId) (b : Nat) : Bool :=
  let h := leNat t.hdr
  let g := b / setsOf h
  (shareOf t l).all fun (place, _, k) =>
    k.scored h || g < groupOf h place || (groupOf h place == g && b % setsOf h ≤ k.sets)

/-- Set number `b` of a tile's walk. -/
def setNo (t : Tile) (b : Nat) : BitVec 24 × Nat × Nat :=
  let h := leNat t.hdr
  (keyOf t.model t.layer, b % setsOf h / hP h, b % hP h)

/-- The tiles being scored. -/
def scoring (s : State) : List Tile := s.tiles.filter fun t => !t.dead && t.kind == .route && !t.filled

/-- Sets that a tile's walk still has after those broadcast; before its shares are dealt one group is known. -/
def setsLeft (s : State) (t : Tile) : Nat :=
  let h := leNat t.hdr
  let most := (enabledSlices s).foldl (fun m l => max m (shareOf t l).length) 0
  let groups := if !t.sharesDealt || hP h == 1 then 1 else ceilDiv most 256
  if (unmasked t).isEmpty then 0 else groups * setsOf h - t.bcast

/-- Every enabled slice holds the tile's only set already (R71). -/
def holdsOnly (s : State) (t : Tile) : Bool :=
  setsOf (leNat t.hdr) == 1 && (enabledSlices s).all fun l => s.slices[l].active == some (setNo t 0)

/-- Every token of the slice in the tiles before `t` is scored. -/
def beforeDone (s : State) (t : Tile) (l : SliceId) : Bool :=
  (scoring s).takeWhile (fun x => x.epoch != t.epoch || x.ctx != t.ctx) |>.all fun x =>
    (unmasked x).isEmpty || (x.sharesDealt && (shareOf x l).all fun p => p.2.2.scored (leNat x.hdr))

/-- A slice swaps to its shadow once the set before has its last element: a tile's first set once the tiles before are
scored, a later one once the slice's whole share has streamed through the set before (DEDUCED, notes/assumptions/23.md). -/
def swapSlice (s : State) (l : SliceId) : State :=
  match s.slices[l].shadow with
  | none => s
  | some w =>
    match (scoring s).find? fun t => t.bcast != 0 && setNo t (t.bcast - 1) == w with
    | some t =>
      if beforeDone s t l && (t.bcast == 1 || (t.sharesDealt && slicePast t l (t.bcast - 1))) then
        { s with slices := vmod s.slices l fun x => { x with active := some w, shadow := none } }
      else s
    | none => { s with slices := vmod s.slices l fun x => { x with shadow := none } }

/-- Every enabled slice swaps that may. A shadow that no tile will use is free. -/
def swapAll (s : State) : State := (enabledSlices s).foldl swapSlice s

/-- The tile whose next set is broadcast next: the oldest with sets left. -/
def nextBroadcast (s : State) : Option Tile :=
  (scoring s).find? fun t => setsLeft s t != 0 && !(t.bcast == 0 && holdsOnly s t)

/-- Bytes of the weight rows of set (l, q) of one expert. -/
def setRow (h e q : Nat) : Nat × Nat := (weightAt h e q, passLen h q * hWBytes h)

/-- The ranges of set number `b` of a tile's walk in its image. -/
def setRngs (t : Tile) (e : HotEntry) (b : Nat) : List (Nat × Nat) :=
  let h := leNat t.hdr
  let w := setNo t b
  tabulate (tileExperts h w.2.1) fun i => let r := setRow h (256 * w.2.1 + i) w.2.2; (e.image + r.1, r.2)

/-- The set is broadcast into the shadow of every enabled slice. -/
def broadcast (s : State) (t : Tile) : State :=
  let w := setNo t t.bcast
  swapAll (modTile { s with slices := (enabledSlices s).foldl (fun v l => vmod v l fun x =>
    { x with shadow := some w }) s.slices } t.ctx t.epoch fun t => { t with bcast := t.bcast + 1 })

/-- Every enabled slice has made its shadow free (R69). -/
def shadowsFree (s : State) : Bool := (enabledSlices s).all fun l => s.slices[l].shadow.isNone

/-- Set number `b` of a streamed route context has come: it stands in a set buffer, beside the one before, and is
broadcast (10 R248). -/
def setCame (s : State) (t : Tile) (e : HotEntry) : State :=
  let own := MemOwner.set t.ctx t.epoch
  let bytes := (setRngs t e t.bcast).flatMap fun r => gotRead s own r.1 r.2
  let s1 := modTile (teleCtx (dropRead s own) t.ctx 33 1) t.ctx t.epoch fun t => { t with
    sets := (t.sets.filter fun x => t.bcast ≤ x.1 + 1) ++ [(t.bcast, bytes)] }
  again s1 t fun s t => if shadowsFree s then broadcast s t else s

/-- The next set of a tile is loaded. A streamed route context's set is read from its image, into a set buffer, once its
tile has begun scoring: rank 1, as a fetch of the hot set (DESIGN CHOICE, notes/assumptions/23.md). -/
def loadSet (s : State) (t : Tile) : State :=
  match tileDir s t with
  | none => s
  | some (i, e) =>
    if !e.resident || e.loading then s
    else if !e.streamed then broadcast s t
    else if (lookup t.bcast t.sets).isSome then broadcast s t
    else if !mayScore s t e then s
    else
      match beginScoring s t i e with
      | none => s
      | some s1 => again s1 t fun s t =>
          reading s (.set t.ctx t.epoch) 1 (some t.ctx) (setRngs t e t.bcast) fun s => setCame s t e

/-- A set's reads have returned. -/
def setOn (s : State) (t : Tile) : State :=
  match tileDir s t with
  | none => s
  | some (_, e) => setCame s t e

/-- WEIGHT_SET_LOAD: with every enabled slice's shadow free, the next weight set is broadcast. -/
def execWeightSetLoad (s : State) : Res :=
  let s0 := swapAll s
  running s (shadowsFree s0) fun _ =>
    match nextBroadcast s0 with
    | some t => loadSet s0 t
    | none => s0

/-! ## TOKEN_SCORE -/

/-- The handshakes known to pass as one token streams: its streaming, stall and swap beats, which are apart (19 R397). -/
def handshakes (w : Waits) (beats : Nat) : BitVec 64 :=
  BitVec.ofNat 64 beats + w.stall.setWidth 64 + w.swap.setWidth 64

/-- The measured waits and the streaming beats of one token are counted (03 R76, R78, 12 R290, 19 R397)
(DESIGN CHOICE, notes/assumptions/7.md). -/
def countBeats (s : State) (t : Tile) (l : SliceId) (w : Waits) (beats : Nat) : State :=
  let s1 := { s with slices := vmod s.slices l fun x => { x with
    beats := x.beats + handshakes w beats, seen := x.seen + handshakes w beats
    stream := x.stream + BitVec.ofNat 64 beats, stall := x.stall + w.stall.setWidth 64
    fill := x.fill + w.fill.setWidth 64, swap := x.swap + w.swap.setWidth 64 } }
  let s2 := modTile s1 t.ctx t.epoch fun t => { t with
    scoreFrom := vmod t.scoreFrom l fun f => some (f.getD s.tick)
    streamed := vmod t.streamed l fun b => b + BitVec.ofNat 64 beats }
  acctAdd s2 t.ctx 5 beats

/-- The slice has scored the last token of its share: its share and rate are published. -/
def endShare (s : State) (t : Tile) (l : SliceId) : State :=
  let mine := shareOf t l
  if mine.all fun p => p.2.2.scored (leNat t.hdr) then
    let ticks := match t.scoreFrom[l] with | some f => s.since f | none => 0
    { s with slices := vmod s.slices l fun x => { x with
      shareTokens := BitVec.ofNat 13 mine.length, shareAdaptive := t.adaptive
      rho := measuredRho t.streamed[l].toNat ticks } }
  else s

/-- Logits of logit tile `l`, with their biases (R67). -/
def logitsOf (e : HotEntry) (h l : Nat) (sums : List F32) : List F32 :=
  let bs := f32s (tileExperts h l) (imgSlice e (256 + 4 * (256 * l)) (4 * tileExperts h l))
  List.zipWith addF sums bs

/-- Keys of logit tile `l` (05 R102, R103). -/
def keysOf (e : HotEntry) (q : Option Seq) (t : Tile) (k : Tok) (l : Nat) (zs : List F32) : List F32 :=
  let h := leNat t.hdr
  let seed := (q.map fun q => q.seed.toNat).getD 0
  let uid := (q.map fun q => q.uid.toNat).getD 0
  (indexed zs).map fun (i, z) =>
    let x := 256 * l + i
    let a := if hSelBias h then addF z (e.bias.getD x zeroF) else z
    if hNoise h then addF a (noiseOf (hNoiseStd h) seed t.step.toNat k.pos uid t.layer.toNat x) else a

/-- The weights of expert `x` in the set with number `b` of a tile's walk: from the store, or from the set buffers of a
streamed route context (10 R248). -/
def weightRow (t : Tile) (e : HotEntry) (b x : Nat) : List F32 :=
  let h := leNat t.hdr
  let w := setNo t b
  let r := setRow h x w.2.2
  let bytes := if e.streamed then slice ((lookup b t.sets).getD []) ((x - 256 * w.2.1) * r.2) r.2 else imgSlice e r.1 r.2
  weights h (passLen h w.2.2) bytes

/-- The token streams through set number `b` of its tile's walk: sums, and after the last pass of a logit tile the logits
go to selection; with SFU domain events. Its halt logit is formed with the first set (R65). -/
def streamTok (e : HotEntry) (q : Option Seq) (t : Tile) (b : Nat) (k : Tok) (y : List F32) : Tok × Nat :=
  let h := leNat t.hdr
  let l := k.sets / hP h
  let p := k.sets % hP h
  let sums := streamSet h l p (weightRow t e b) y k.part
  let k1 := { k with
    sets := k.sets + 1, part := sums
    halt := if k.sets == 0 && hHalt h then haltOf e h y else k.halt }
  if p + 1 != hP h then (k1, 0)
  else
    let zs := logitsOf e h l sums
    let r := selectTile (hGateMode h) (hK h) l k.sel zs (keysOf e q t k l zs)
    ({ k1 with
        part := [], sel := r.1
        badLogit := k.badLogit || zs.any fun z => isNan z || z == pinfF
        allNegInf := k.allNegInf && zs.all (· == ninfF) }, r.2)

/-- The place of token `i` in the share of a slice. -/
def sharePlace (t : Tile) (l : SliceId) (i : Nat) : Nat :=
  (((shareOf t l).find? fun p => p.2.1 == i).map (·.1)).getD 0

/-- The number of the set that token `i` streams through next, in its tile's walk. -/
def walkNo (t : Tile) (l : SliceId) (i : Nat) (k : Tok) : Nat :=
  let h := leNat t.hdr
  groupOf h (sharePlace t l i) * setsOf h + k.sets

/-- The turn of a token in its slice's walk, and the set it needs in the cells (R70). -/
def tokTurn (s : State) (t : Tile) (i : Nat) (k : Tok) : Bool :=
  let h := leNat t.hdr
  match k.slice with
  | none => false
  | some l =>
    let share := shareOf t l
    let place := sharePlace t l i
    !k.scored h && s.slices[l].active == some (setNo t k.sets)
    && share.all fun (p, j, x) =>
      j == i || x.scored h
      || (groupOf h p == groupOf h place && (if p < place then k.sets < x.sets else k.sets ≤ x.sets))
      || groupOf h place < groupOf h p

/-- The hold test of a token at its first set (05 R115, R116): its sketch, and whether its record holds it. -/
def holdTest (t : Tile) (k : Tok) (y : List F32) : Tok :=
  let h := leNat t.hdr
  let sk := sketchOf h y
  { k with sketch := some sk, held := !k.nanInput && holds h sk k.holdRec }

/-- The conversions of the normalise pass, which runs again for each set after the first (R70, 02 R45). -/
def againCount (s : State) (t : Tile) (k : Tok) : State :=
  match k.row with
  | some row => if k.sets == 0 then s else convCount s t.ctx (prenorm (leNat t.hdr) t.rowFmt row).cnt
  | none => s

/-- The token after its streaming is stored and counted. -/
def putScored (s : State) (t : Tile) (i : Nat) (l : SliceId) (k : Tok) (w : Waits) (beats dom : Nat) : State :=
  let s1 := teleCtx (countBeats (modTok s t i fun _ => k) t l w beats) t.ctx 2 dom
  swapAll (again s1 t fun s t => endShare s t l)

/-- One token is streamed through one set, or is held instead. A held token's d / 128 beats of the sketch stream count as
streaming beats, and a fresh token's sketch, formed beside its first set, adds none (DESIGN CHOICE,
notes/assumptions/7.md). -/
def scoreTok (s : State) (t : Tile) (i : Nat) (k : Tok) (l : SliceId) (e : HotEntry) (y : List F32) (w : Waits) : State :=
  let h := leNat t.hdr
  let q := lookup (tpSeq (tileOps s t)) s.seqs
  let k1 := if (holdRng s t k).isSome && k.sets == 0 then holdTest t k y else k
  if k1.held then putScored s t i l k1 w (hD h / 128) 0
  else
    let r := streamTok e q t (walkNo t l i k) k1 y
    putScored (againCount s t k) t i l r.1 w (passLen h (k.sets % hP h) / 32) r.2

/-- The hold record that the token's test needs has come. -/
def holdReady (s : State) (t : Tile) (k : Tok) : Bool := k.sets != 0 || (holdRng s t k).isNone || !k.holdRec.isEmpty

/-- The units of its slice that a token's set uses: the sketch adders where the token is tested for a hold, and the Fronds
(03 R77, R80). -/
def scoreUnits (s : State) (t : Tile) (k : Tok) (l : SliceId) : State :=
  let tested := (holdRng s t k).isSome && k.sets == 0
  operandNow (if tested then operandNow s .sketch [l] else s) .frond [l]

/-- TOKEN_SCORE: in its turn a token streams through the set in its slice's cells
(DESIGN CHOICE, notes/assumptions/7.md). -/
def execTokenScore (tile : Fin 4) (token : BitVec 12) (waits : Waits) (s : State) : Res :=
  match tileNo s tile with
  | none => finish s s
  | some t0 =>
    match tileDir s t0 with
    | none => finish s s
    | some (d, e) =>
      running s (mayScore s t0 e) fun s =>
        match beginScoring s t0 d e with
        | none => s
        | some s1 =>
          let s2 := swapAll s1
          match tileTok s2 tile token with
          | none => s
          | some (t, k) =>
            match k.slice, k.y with
            | some l, some y =>
              if tokTurn s2 t token.toNat k && holdReady s2 t k then
                scoreTok (scoreUnits s2 t k l) t token.toNat k l e y waits
              else s
            | _, _ => s

/-! ## TOKEN_SELECT (05 R104, R107 to R112, R116, R118) -/

/-- What a token is routed to: its choices with gates in rank order. -/
def freshChoices (h : Nat) (k : Tok) : List (Nat × F32) × Nat :=
  let g := gatesOf (hGateMode h) (hGateScale h) k.sel
  (List.zip (k.sel.cands.map (·.e)) g.1, g.2)

/-- The outcome of a token, its choices, and SFU domain events. -/
def outcomeOf (h : Nat) (k : Tok) : TokStatus × List (Nat × F32) × Nat :=
  if k.held then
    if holdExited k.holdRec then (.exited, [], 0) else (.routed, holdChoices (hK h) k.holdRec, 0)
  else if k.badLogit || k.allNegInf || (hHalt h && isNan k.halt) then (.invalid, [], 0)
  else if hHalt h && ltF (hHaltThr h) k.halt then (.exited, [], 0)
  else let c := freshChoices h k; (.routed, c.1, c.2)

/-- The token's selection ends; its entries follow in their turn (05 R110). -/
def selectTok (s : State) (t : Tile) (i : Nat) (k : Tok) : State :=
  let o := outcomeOf (leNat t.hdr) k
  let s1 := modTok s t i fun k => { k with status := some o.1, choices := o.2.1 }
  let s2 := teleCtx (teleCtx s1 t.ctx 2 o.2.2) t.ctx 5 (b2n k.held)
  match o.1 with
  | .invalid => teleCtx s2 t.ctx 3 1
  | .exited => teleCtx s2 t.ctx 4 1
  | _ => s2

/-- TOKEN_SELECT: a token with every logit tile scored, or held. -/
def execTokenSelect (tile : Fin 4) (token : BitVec 12) (s : State) : Res :=
  match tileTok s tile token with
  | none => finish s s
  | some (t, k) =>
    running s (!t.dead && t.kind == .route && t.bank.isSome && k.status.isNone && k.y.isSome && k.slice.isSome
        && k.scored (leNat t.hdr)) fun s =>
      selectTok (operandNow s .sfu (lanesOf s k)) t token.toNat k

end Sys2Proof.Machine
end

