-- ==== Sys2Proof/Machine/Placement.lean ====
section
/-!
DEFINITION. Stage 6 of the tile path: the bucket list and the capacity pass (06 R126 to R134), the choice of peers (07
R150 to R154), courses and bins (06 R135 to R137), spores (07 R163, R164), and the packets that the bins become (06
R139, R145, 15 R340).
-/
namespace Sys2Proof.Machine

/-! ## Parameters (06 R126, R128, R133, 08 R198) -/

/-- The capacity parameters a tile runs under. -/
structure CapPlan where
  quota : Nat
  share : Nat
  mode : Nat
  cap : Nat
  spillQuota : Nat
  deadline : Nat
  deriving DecidableEq, Repr

/-- 06 R133: ⌈cap_factor × n′ × k / (256 × E)⌉. -/
def dropCap (h n : Nat) : Nat := ceilDiv (hCapFactor h * n * hK h) (256 * hE h)

/-- The number of a route context's key. -/
def keyNat (t : Tile) : Nat := t.model.toNat + t.layer.toNat <<< 16

/-- The parameters of a tile. A TILE_REVERSE runs as NONE, with the quota and share of the route context its log names;
where the directory holds none, they are free (notes/assumptions/1.md). -/
def capPlan (s : State) (t : Tile) : CapPlan :=
  if t.kind == .route then
    let h := leNat t.hdr
    ⟨hQuota h, hMinShare h, hCapMode h, dropCap h (unmasked t).length, hSpillQuota h, hDeadline h⟩
  else
    match tileDir s t with
    | some (_, e) => let h := leNat e.hdr; ⟨hQuota h, hMinShare h, 0, 0, 0, 0⟩
    | none => ⟨16 + Config.revShare false (keyNat t) % 65520, 1 + Config.revShare true (keyNat t) % 4096, 0, 0, 0, 0⟩

/-! ## Choosing the peer (07 R151 to R154) -/

/-- An entry is not a duplicate: it is the one used for its engine. -/
def ownEntry (s : State) (n : Fin 32) : Bool := usedPeer s s.peers[n].chip s.peers[n].engine == some n

/-- The masked and enabled entries of a context that are not duplicates. -/
def wantedPeers (s : State) (c : CtxId) : List (Fin 32) :=
  (fins 32).filter fun n => bvBit (s.ctx c).spillMask n.val && s.peers[n].enable && ownEntry s n

/-- The active list (R151). -/
def activeList (s : State) (c : CtxId) : List (Fin 32) := (wantedPeers s c).filter fun n => s.peers[n].state == .active

/-- 07 R153, of a global token id and a layer. -/
def tokHash (gid layer : Nat) : Nat :=
  (((gid ^^^ (layer <<< 56)) * 0x9E3779B97F4A7C15) % 2 ^ 64) >>> 32

/-- The tok_hash of token `i` of a tile. -/
def hashOf (s : State) (t : Tile) (i : Nat) : Nat :=
  let p := match tokAt t i with | some k => k.pos | none => 0
  tokHash (tpUid (tileOps s t) <<< 32 + p % 2 ^ 32) t.layer.toNat

/-- The variables of spill_pick (R152). -/
structure PickSt where
  left : List Nat
  eff : List Nat
  last : Option (Nat × Nat)
  deriving DecidableEq, Repr

/-- Quota that a peer has left. -/
def PickSt.open' (ps : PickSt) (p : Nat) : Bool := ps.left.getD p 0 != 0

/-- The peer that the DET rule names. -/
def detPeer (ps : PickSt) (hash : Nat) : Option Nat :=
  let a := ps.left.length
  (tabulate a fun i => (((hash * a) >>> 32) + i) % a).find? ps.open'

/-- The peer with the least effective load. -/
def loadPeer (ps : PickSt) : Option Nat :=
  firstMin (fun p q => ps.eff.getD p 0 < ps.eff.getD q 0) ((tabulate ps.left.length id).filter ps.open')

/-- The peer named for a choice of token `t`: it stays with the token's last peer while that has quota. -/
def pickPeer (det : Bool) (ps : PickSt) (t hash : Nat) : Option Nat :=
  match ps.last with
  | some (t', p) => if t' == t && ps.open' p then some p else if det then detPeer ps hash else loadPeer ps
  | none => if det then detPeer ps hash else loadPeer ps

/-- take. -/
def takePeer (ps : PickSt) (t p : Nat) : PickSt :=
  ⟨updAt p (· - 1) ps.left, updAt p (fun e => min (e + 1) (2 ^ 24 - 1)) ps.eff, some (t, p)⟩

/-- The start of a tile's pass over its active list. -/
def pickStart (s : State) (act : List (Fin 32)) (quota : Nat) : PickSt :=
  ⟨act.map fun _ => quota,
    act.map fun n => min (s.peers[n].load.toNat + s.peers[n].outstanding) (2 ^ 24 - 1), none⟩

/-! ## The capacity pass (06 R130 to R132) -/

/-- What the pass makes of a choice: local in a course, spilled to a place of the active list (and whether the DET peer
is another), or dropped. -/
inductive Fate where
  | loc (course : Nat)
  | spill (p : Nat) (differs : Bool)
  | drop
  deriving DecidableEq, Repr

/-- The variables of the pass. -/
structure CapSt where
  used : Nat
  course : Nat
  kept : List (Nat × Nat)
  later : List Nat
  pick : PickSt
  out : List (Nat × Fate)
  deriving DecidableEq, Repr

/-- set_local, after the course step of R132. -/
def capLocal (slots : Nat) (c : CapSt) (x : Nat) : CapSt :=
  let c1 := if c.used == slots then { c with course := c.course + 1, used := 0 } else c
  { c1 with used := c1.used + 1, out := (x, .loc c1.course) :: c1.out }

/-- One choice: index, expert, token and the token's hash. -/
def capStep (pl : CapPlan) (det : Bool) (slots : Nat) (c : CapSt) (x : Nat × Nat × Nat × Nat) : CapSt :=
  let (i, e, t, hash) := x
  let n := (lookup e c.kept).getD 0
  if pl.mode == 2 && pl.cap ≤ n then { c with out := (i, .drop) :: c.out }
  else
    let c1 := if pl.mode == 2 then { c with kept := insertKey e (n + 1) c.kept } else c
    if pl.mode == 1 && c.course == 0 && c.used == slots then
      match pickPeer det c1.pick t hash with
      | some p => { c1 with
          pick := takePeer c1.pick t p
          out := (i, .spill p (!det && pickPeer true c1.pick t hash != some p)) :: c1.out }
      | none => { c1 with later := i :: c1.later }
    else capLocal slots c1 i

/-- The choices that found no room at a peer take courses from 1. -/
def capLater (slots : Nat) (c : CapSt) (x : Nat) : CapSt :=
  capLocal slots (if c.course == 0 then { c with used := slots } else c) x

/-- The whole pass: the fate of every choice, by rising index. -/
def capacity (pl : CapPlan) (det : Bool) (slots : Nat) (ps : PickSt) (xs : List (Nat × Nat × Nat × Nat)) :
    List (Nat × Fate) :=
  let c := xs.foldl (capStep pl det slots) ⟨0, 0, [], [], ps, []⟩
  sortBy (fun a b => a.1 < b.1) ((c.later.reverse.foldl (capLater slots) c).out.reverse)

/-! ## Packets (06 R139, R145, 15 R340) -/

/-- PKT_START. -/
def startWord (p : Packet) (model layer : Nat) : BitVec 128 :=
  BitVec.ofNat 128 (pack [(0, 0, 1), (0, 4, p.srcChip.toNat), (0, 20, p.ctx.toNat), (0, 24, b2n p.lc),
    (0, 25, b2n p.spore), (0, 26, b2n p.engine), (4, 0, p.epoch.toNat), (4, 16, p.course.toNat), (8, 0, model),
    (8, 16, layer), (8, 24, p.d / 256 % 64), (0xC, 0, p.rowFmt), (0xC, 4, p.outFmt), (0xC, 8, p.choices)])

/-- ITEM. -/
def itemWord (e : Nat) (rev : Bool) (n : Nat) : BitVec 128 :=
  BitVec.ofNat 128 (pack [(0, 0, 2), (0, 4, e), (0, 14, b2n rev), (4, 0, n)])

/-- A choice of an item. -/
structure Choice where
  tok : Nat
  rank : Nat
  slot : Nat
  gate : F32
  deriving DecidableEq, Repr

/-- CHOICE. -/
def choiceWord (fresh : Bool) (ref : Nat) (c : Choice) : BitVec 128 :=
  BitVec.ofNat 128 (pack [(0, 0, 3), (0, 4, b2n fresh), (0, 5, ref), (0, 18, c.rank), (4, 0, c.tok), (8, 0, c.slot),
    (0xC, 0, c.gate.toNat)])

/-- PKT_END. -/
def endWord : BitVec 128 := 4#128

/-- W, the rows that a core's row buffer holds. -/
def bufferRows (d fmt : Nat) : Nat := 2097152 / flitBytes d fmt

/-- The list of R145 as it grows: rows listed, oldest first, with their places; rows fed so far; the feed program. -/
structure FeedSt where
  rows : List (Nat × Nat)
  fed : Nat
  prog : List FeedUnit
  deriving DecidableEq, Repr

/-- One choice is fed, with its row when the token is not on the list. -/
def feedChoice (w flits : Nat) (f : FeedSt) (c : Choice) : FeedSt :=
  match f.rows.find? fun r => r.1 == c.tok with
  | some r => { f with prog := f.prog ++ [.item (choiceWord false r.2 c)] }
  | none =>
    let ref := f.fed % w
    ⟨(if f.rows.length < w then f.rows else f.rows.drop 1) ++ [(c.tok, ref)], f.fed + 1,
      f.prog ++ .item (choiceWord true ref c) :: tabulate flits fun i => .flit c.tok i⟩

/-- One item: its expert and choices. -/
def feedItem (w flits : Nat) (rev : Bool) (f : FeedSt) (it : Nat × List Choice) : FeedSt :=
  it.2.foldl (feedChoice w flits) { f with prog := f.prog ++ [.item (itemWord it.1 rev it.2.length)] }

/-- The feed program of a packet. -/
def feedProgram (p : Packet) (model layer : Nat) (rev : Bool) (items : List (Nat × List Choice)) : List FeedUnit :=
  let f := items.foldl (feedItem (bufferRows p.d p.rowFmt) (flitBytes p.d p.rowFmt / 256) rev)
    ⟨[], 0, [.item (startWord p model layer)]⟩
  f.prog ++ [.item endWord]

/-- A packet's items and slots filled in, with the program that feeds them. -/
def packetOf (p : Packet) (model layer : Nat) (rev : Bool) (items : List (Nat × List Choice)) : Packet :=
  let all : List Choice := items.flatMap (·.2)
  let p1 := { p with items := items.length, choices := all.length, slots := all.map Choice.slot }
  { p1 with feed := feedProgram p1 model layer rev items }

/-! ## Courses and bins (06 R135 to R138) -/

/-- The local choices in bucket-list order, cut into bins of `n`. A course with no choice, such as course 0 of a tile
whose choices are all spilled or dropped or that has none, is cut into no bin: R136's procedure would close an empty one,
and a packet holds 1 or more choices (R139) (DESIGN CHOICE, notes/assumptions/25.md). -/
def cutBins {α : Type} (n : Nat) : Nat → List α → List (List α)
  | 0, _ => []
  | fuel + 1, xs => if xs.isEmpty then [] else xs.take n :: cutBins n fuel (xs.drop n)

/-- Neighbours of one expert joined into items. -/
def itemsOf : List (Nat × Choice) → List (Nat × List Choice)
  | [] => []
  | (e, c) :: rest =>
    match itemsOf rest with
    | (e', cs) :: more => if e' == e then (e, c :: cs) :: more else (e, [c]) :: (e', cs) :: more
    | [] => [(e, [c])]

/-- Bucket-list order: ascending expert, then ascending index. -/
def bucketList (s : State) (t : Tile) (xs : List Nat) : List (Nat × Nat) :=
  sortBy (fun a b => a.1 < b.1) (xs.map fun x => (rtExpert (tileEntry s t x), x))

/-- The position a bin goes to: the first free from `st` in cyclic order, or the fixed one. -/
def binPos (s : State) (t : Tile) (det : Bool) (st b : Nat) : Nat :=
  let c := t.cores.length
  let fixed := (st + b) % c
  if det then fixed
  else
    (firstMin (fun p q => pendingAt s (t.cores.getD p 0) < pendingAt s (t.cores.getD q 0))
      (tabulate c fun i => (st + i) % c)).getD fixed

/-- Where the list of a packet lies whose first choice has index `x` (DESIGN CHOICE, notes/assumptions/1.md). -/
def ownList (t : Tile) (x : Nat) : BitVec 32 := Config.listPtr ((t.bank.map (·.val)).getD 0) x

/-- A packet of this engine, before its items are filled in. -/
def ownPacket (s : State) (t : Tile) (course first : Nat) : Packet where
  srcChip := s.fuse.chipId
  ctx := BitVec.ofNat 4 t.ctx.val
  lc := (s.ctx t.ctx).lc
  spore := false
  engine := s.fuse.engineId
  course := BitVec.ofNat 8 course
  epoch := t.epoch
  items := 0
  choices := 0
  listPtr := ownList t first
  seq := 0
  state := .committed
  feed := []
  returned := 0
  rowFmt := t.rowFmt
  outFmt := cbResFmt (tileOps s t)
  d := t.d
  lcomp := false
  row := []
  places := 0
  aborted := false
  lost := false
  since := s.tick
  slots := []

/-- A choice as its Route Table entry gives it. -/
def choiceOf (r : RtEntry) (x : Nat) : Choice := ⟨rtTok r, rtRank r, x, rtGate r⟩

/-- Bin `b` is dealt: its choices' entries are dispatched, and its packet waits to be written
(DEDUCED, notes/assumptions/25.md). -/
def dealBin (course : Nat) (s : State) (t : Tile) (b : Nat) (xs : List (Nat × Nat)) : State :=
  let det := (s.ctx t.ctx).det
  let st := t.i % t.cores.length
  let pos := binPos s t det st b
  let port := t.cores.getD pos 0
  let items := itemsOf (xs.map fun (e, x) => (e, choiceOf (tileEntry s t x) x))
  let pk := packetOf (ownPacket s t course ((xs.head?.map (·.2)).getD 0)) t.model.toNat t.layer.toNat (t.kind == .reverse) items
  let s1 := modEntries s t fun es => xs.foldl (fun es (_, x) =>
    modKey x (fun r => rtDispatch r (if course == 0 then 0 else 2) s.fuse.chipId.toNat port.val course) es) es
  let s2 := modTile s1 t.ctx t.epoch fun t => { t with writers := t.writers ++ [(port, pk)] }
  tdcEvent (teleCtx s2 t.ctx 13 1) 1 (b2n (pos != (st + b) % t.cores.length)) (some t.ctx)

/-- A course's bins are cut and dealt. -/
def dealCourse (pl : CapPlan) (s : State) (t : Tile) (course : Nat) (xs : List Nat) : State :=
  let size := min pl.quota (max (ceilDiv xs.length t.cores.length) pl.share)
  let bins := cutBins size xs.length (bucketList s t xs)
  (indexed bins).foldl (fun s (b, ys) => again s t fun s t => dealBin course s t b ys) s

/-! ## Spores (07 R163, R164) -/

/-- The message of one spore: header, route entries, row in its link format; with its conversion events. -/
def sporeBytes (s : State) (t : Tile) (n : Fin 32) (tok : Nat) (xs : List Nat) : List Byte × ConvCount :=
  let p := s.peers[n]
  let link := p.linkFmt.toNat
  let es := xs.map (tileEntry s t)
  let k := tokAt t tok
  let row := linkEncode t.d t.rowFmt link ((k.bind (·.row)).getD [])
  let hdr := leBytes 64 (pack [(0, 0, s.fuse.chipId.toNat), (0, 16, t.ctx.val), (0, 20, b2n (s.ctx t.ctx).lc),
    (0, 21, b2n s.fuse.engineId), (0, 22, b2n (s.ctx t.ctx).det), (0, 23, b2n (link != 0)),
    (0, 24, if link == 0 then t.rowFmt else link), (0, 28, cbResFmt (tileOps s t)), (4, 0, t.epoch.toNat),
    (4, 16, sumNat (es.map fun e => 2 ^ rtRank e)), (8, 0, t.model.toNat), (8, 16, t.layer.toNat),
    (0xC, 0, t.d / 256 % 64), (0xC, 6, tok), (0x10, 0, hashOf s t tok)])
  (hdr ++ (es.flatMap fun e => leBytes 16 e.toNat) ++ row.1, row.2)

/-- One spore is given to its peer's stream. -/
def sendSpore (s : State) (t : Tile) (n : Fin 32) (tok : Nat) (xs : List Nat) : State :=
  let b := sporeBytes s t n tok xs
  let p := s.peers[n]
  sendMsg (convCount s t.ctx b.2) p.chip p.engine ⟨1, .spore t.ctx t.epoch xs.length, b.1⟩

/-- The spilled choices grouped by token and place in the active list, by ascending token. -/
def sporeGroups (s : State) (t : Tile) (xs : List (Nat × Nat)) : List (Nat × Nat × List Nat) :=
  let keys := (xs.map fun (x, p) => (rtTok (tileEntry s t x), p)).eraseDups
  keys.map fun (k, p) => (k, p, (xs.filter fun y => y.2 == p && rtTok (tileEntry s t y.1) == k).map (·.1))

/-- Every spore of the tile. -/
def sendSpores (act : List (Fin 32)) (s : State) (t : Tile) (xs : List (Nat × Nat)) : State :=
  (sporeGroups s t xs).foldl (fun s (tok, p, ys) => sendSpore s t (act.getD p 0) tok ys) s

/-! ## BUCKETING -/

/-- The choices that the pass settles: the valid entries, for a TILE_REVERSE the expected ones. -/
def passChoices (s : State) (t : Tile) : List (Nat × Nat × Nat × Nat) :=
  (tabulate (t.n * t.k) id).filterMap fun x =>
    let r := tileEntry s t x
    if rtValid r && (t.kind == .route || rtDisp r != 3) then some (x, rtExpert r, rtTok r, hashOf s t (rtTok r))
    else none

/-- Choices with a local fate in course `c`. -/
def inCourse (fs : List (Nat × Fate)) (c : Nat) : List Nat :=
  (fs.filter fun f => f.2 == .loc c).map (·.1)

/-- The number of courses. -/
def courseCount (fs : List (Nat × Fate)) : Nat :=
  fs.foldl (fun m f => match f.2 with | .loc c => max m (c + 1) | _ => m) 0

/-- Spilled choices with their places in the active list. -/
def spilledOf (fs : List (Nat × Fate)) : List (Nat × Nat) :=
  fs.filterMap fun f => match f.2 with | .spill p _ => some (f.1, p) | _ => none

/-- Dropped choices. -/
def droppedOf (fs : List (Nat × Fate)) : List Nat := (fs.filter fun f => f.2 == .drop).map (·.1)

/-- The entries of the spilled and dropped choices are dispatched (R138), and the choices counted (R148). -/
def setFates (act : List (Fin 32)) (s : State) (t : Tile) (fs : List (Nat × Fate)) : State :=
  let chip := fun (p : Nat) => s.peers[act.getD p 0].chip
  let s1 := modEntries s t fun es => fs.foldl (fun es f =>
    match f.2 with
    | .spill p _ => modKey f.1 (fun r => rtDispatch r 1 (chip p).toNat 127 0) es
    | .drop => modKey f.1 (fun r => rtDispatch r 3 0 0 0) es
    | .loc _ => es) es
  let sp := spilledOf fs
  let s2 := sp.foldl (fun s (_, p) =>
    { s with peers := vmod s.peers (act.getD p 0) fun q => { q with outstanding := min (q.outstanding + 1) (2 ^ 24 - 1) } }) s1
  let s3 := modTile s2 t.ctx t.epoch fun t => { t with
    spilled := sp.map fun (x, p) => (x, chip p, s.peers[act.getD p 0].engine) }
  teleCtx (teleCtx (teleCtx s3 t.ctx 6 (inCourse fs 0).length) t.ctx 8 sp.length) t.ctx 9 (droppedOf fs).length

/-- Spores whose DET peer differs for some choice (R154). -/
def tdcSpores (s : State) (t : Tile) (fs : List (Nat × Fate)) : Nat :=
  ((fs.filterMap fun f => match f.2 with
    | .spill p true => some (rtTok (tileEntry s t f.1), p)
    | _ => none).eraseDups).length

/-- The capacity pass of a tile, its spores and its course 0; a shrunk active list counts in every mode (11 R257)
(DEDUCED, notes/assumptions/25.md). -/
def dispatchTile (s : State) (t : Tile) (pl : CapPlan) : State :=
  let act := if pl.mode == 1 then activeList s t.ctx else []
  let shrunk := (activeList s t.ctx).length < (wantedPeers s t.ctx).length
  let s0 := tdcEvent s 5 (b2n shrunk) (some t.ctx)
  let fs := capacity pl (s.ctx t.ctx).det (pl.quota * t.cores.length) (pickStart s act pl.spillQuota) (passChoices s t)
  let s1 := setFates act s0 t fs
  let s2 := modTile s1 t.ctx t.epoch fun t => { t with
    bucketed := true, later := tabulate (courseCount fs - 1) fun c => inCourse fs (c + 1) }
  let s3 := again s2 t fun s t => dealCourse pl s t 0 (inCourse fs 0)
  let s4 := again s3 t fun s t => tdcEvent s 2 (tdcSpores s t fs) (some t.ctx)
  again s4 t fun s t => sendSpores act s t (spilledOf fs)

/-- The dispatch unit has done with a tile: its bins are written, and no course is left (R140, R149). -/
def Tile.dispatched (t : Tile) : Bool := t.bucketed && t.writers.isEmpty && t.later.isEmpty

/-- BUCKETING: once fill has ended, in the order of the context's tiles: a tile's packets are committed after every
packet of the older one, which is fed first on every core (R149) (DEDUCED, notes/assumptions/25.md). With fewer than
256 local slots the tile is abandoned and its descriptor completes with RANGE (R128). -/
def execBucketing (tile : Fin 4) (s : State) : Res :=
  match tileNo s tile with
  | none => finish s s
  | some t =>
    running s (!t.dead && t.kind != .combine && t.bank.isSome && t.filled && !t.bucketed
        && (olderTiles s t).all Tile.dispatched) fun s =>
      let pl := capPlan s t
      let cores := coreSet s t.ctx
      if pl.quota * cores.length < 256 then failTp s t.ctx t.c stRange
      else
        again (modTile s t.ctx t.epoch fun t => { t with cores := cores, bucketTick := s.tick }) t fun s t =>
          dispatchTile s t pl

/-! ## COURSE_START (06 R134, R135) -/

/-- The course's turn has passed its deadline. -/
def courseLate (s : State) (t : Tile) (pl : CapPlan) : Bool :=
  pl.mode == 2 && pl.deadline != 0 && !(s.ctx t.ctx).det && 256 * pl.deadline < s.since t.bucketTick

/-- The courses left are not run: their choices become dropped. -/
def dropCourses (s : State) (t : Tile) : State :=
  let xs := t.later.flatten
  let s1 := modEntries s t fun es => xs.foldl (fun es x => modKey x (fun r => rtDispatch r 3 0 0 0) es) es
  let s2 := modTile s1 t.ctx t.epoch fun t => { t with later := [] }
  tdcEvent (teleCtx s2 t.ctx 9 xs.length) 4 t.later.length (some t.ctx)

/-- The next course is run. -/
def runCourse (s : State) (t : Tile) (pl : CapPlan) (xs : List Nat) : State :=
  let c := t.course + 1
  let s1 := modTile s t.ctx t.epoch fun t => { t with
    course := c, later := t.later.drop 1, coursesRun := t.coursesRun + 1 }
  let s2 := teleCtx (teleCtx s1 t.ctx 7 xs.length) t.ctx 10 1
  again s2 t fun s t => dealCourse pl s t c xs

/-- COURSE_START: the core feed has taken the last flit of every packet of the course before. -/
def execCourseStart (tile : Fin 4) (s : State) : Res :=
  match tileNo s tile with
  | none => finish s s
  | some t =>
    running s (!t.dead && t.bucketed && t.writers.isEmpty && !feeds s t) fun s =>
      match t.later with
      | [] => s
      | xs :: _ => let pl := capPlan s t; if courseLate s t pl then dropCourses s t else runCourse s t pl xs

end Sys2Proof.Machine
end

