-- ==== Sys2Proof/Machine/Cores.lean ====
section
/-!
DEFINITION. Core work queues and the core feed (06 R139 to R147, 15 R340), the flits and marks that come to the drain lanes
(15 R341, R342), and failed ports (15 R343).
-/
namespace Sys2Proof.Machine

/-! ## PACKET_WRITE (R140, R141) -/

/-- The class in the PKT_START word that heads a feed program. -/
def setClass (lc : Bool) : List FeedUnit → List FeedUnit
  | .item w :: us => .item (bvSetBit w 24 lc) :: us
  | us => us

/-- A packet is of its context's class when it is committed (12 R273); a spore's class is its sender's. -/
def classed (s : State) (k : Packet) : Packet :=
  if k.spore then k else let lc := (s.ctx (pktCtx k)).lc; { k with lc := lc, feed := setClass lc k.feed }

/-- Commit: the packet takes the queue's next number. -/
def commitTo (s : State) (p : PortId) (k : Packet) : State :=
  modQueue s p fun q =>
    let n := q.lastCommit + 1
    { q with
      packets := q.packets ++ [{ classed s k with seq := n, state := .committed, since := s.tick }], lastCommit := n }

/-- The packet that the dispatch unit writes next, where its bin was dealt to the port: the unit writes packets in the
order of their tiles and bins, and waits with all of them while the queue of the first is full (R140)
(DEDUCED, notes/assumptions/25.md). -/
def tileWriter (s : State) (p : PortId) : Option (Tile × Packet) :=
  match s.tiles.find? fun t => !t.writers.isEmpty with
  | some t => (t.writers.head?.filter fun w => w.1 == p).map fun w => (t, w.2)
  | none => none

/-- The next packet for a port is written: a tile's, else the oldest spore's where it waits for this port: the spore
receive side waits with the later ones (R140). -/
def writePacket (s : State) (p : PortId) : State :=
  match tileWriter s p with
  | some (t, k) => commitTo (modTile s t.ctx t.epoch fun t => { t with writers := t.writers.drop 1 }) p k
  | none =>
    match s.sporeWriters with
    | w :: ws => if w.1 == p then commitTo { s with sporeWriters := ws } p w.2 else s
    | [] => s

/-- PACKET_WRITE: the queue has a free entry. -/
def execPacketWrite (port : PortId) (s : State) : Res :=
  running s (s.queues[port].packets.length < 64) fun s => writePacket s port

/-! ## PACKET_SELECT (R142, 18 R381) -/

/-- The oldest COMMITTED packet of a class: the queue lists its packets in commit order, which R149 keeps within a class.
R381's distance from last_taken finds it as long as no LC packet with a higher commit_seq has been taken before a BE one;
where one has, the formula and R381's "always finds the oldest" part, and the oldest is taken (DESIGN CHOICE,
notes/assumptions/26.md). -/
def lowestSeq (q : CoreQ) (lc : Bool) : Option Packet :=
  q.packets.find? fun k => k.state == .committed && k.lc == lc

/-- The packet selected: LC before BE. -/
def selected (q : CoreQ) : Option Packet :=
  match lowestSeq q true with
  | some k => some k
  | none => lowestSeq q false

/-- PACKET_SELECT: no packet of the port is in FEEDING. -/
def execPacketSelect (port : PortId) (s : State) : Res :=
  let q := s.queues[port]
  match selected q with
  | none => finish s s
  | some k =>
    running s (!q.packets.any fun k => k.state == .feeding) fun s =>
      modQueue s port fun q =>
        modPkt k.seq (fun k => { k with state := .feeding, since := s.tick }) { q with lastTaken := k.seq }

/-! ## FEED_FLIT_GRANT (R145 to R147, 12 R289, 15 R342) -/

/-- The packet in FEEDING on a port. -/
def feedingOn (s : State) (p : PortId) : Option Packet := s.queues[p].packets.find? fun k => k.state == .feeding

/-- A data flit of this engine's packet is charged to its context's feed regulator. -/
def charged (k : Packet) : Bool :=
  !k.spore && (match k.feed with | u :: _ => u.isFlit | [] => false)

/-- The regulator holds the port's next unit; the flits that finish the row of an aborted packet are never held. -/
def feedHeld (s : State) (k : Packet) : Bool := charged k && !k.aborted && !feedOpen s (pktCtx k)

/-- The port has a unit that may be granted. -/
def mayGrant (s : State) (ready : BitVec 80) (p : PortId) : Bool :=
  bvBit ready p.val && (match feedingOn s p with | some k => !k.feed.isEmpty && !feedHeld s k | none => false)

/-- The port's next unit is a data flit. -/
def nextIsFlit (s : State) (p : PortId) : Bool := (feedingOn s p).any fun k => k.feed.head?.any FeedUnit.isFlit

/-- The port whose turn it is: an item word goes before any flit and takes no turn (15 R342); the flits go round robin by
ascending port (DESIGN CHOICE, notes/assumptions/26.md). -/
def grantTurn (s : State) (ready : BitVec 80) : Option PortId :=
  let ps := (fins 80).filter (mayGrant s ready)
  let items := ps.filter fun p => !nextIsFlit s p
  firstMin (fun a b => (a.val + 79 - s.feedLast.val) % 80 < (b.val + 79 - s.feedLast.val) % 80)
    (if items.isEmpty then ps else items)

/-- The row that a data flit belongs to: the spore's own, or a staged row of the tile, in flight or abandoned. -/
def feedRow (s : State) (k : Packet) (t : Nat) : List Byte :=
  if k.spore then k.row
  else
    match s.tiles.find? fun x => x.ctx == pktCtx k && x.epoch == k.epoch with
    | some x => ((tokAt x t).bind (·.row)).getD []
    | none => []

/-- What goes out on the port. -/
def feedOut (s : State) (p : PortId) (k : Packet) : FeedUnit → Out
  | .item w => .item p w
  | .flit t f => .flit p (padTo (slice (feedRow s k t) (256 * f) 256) 256)

/-- A CHOICE word that is granted is counted: a row fed or saved, and a reverse choice (06 R148, 08 R200). -/
def countChoice (s : State) (k : Packet) (w : BitVec 128) : State :=
  if k.spore || rf w.toNat 0 3 0 != 3 then s
  else
    let c := pktCtx k
    let s1 := if rb w.toNat 0 4 then teleCtx s c 11 1 else teleCtx s c 12 1
    let rev := s.tiles.any fun x => x.ctx == c && x.epoch == k.epoch && x.kind == .reverse
    teleCtx s1 c 20 (b2n rev)

/-- The packet's last unit has been granted: it awaits its results; a spore is consumed (R141, 07 R160). -/
def endFeed (s : State) (p : PortId) (k : Packet) : State :=
  let s1 := modQueue s p (modPkt k.seq fun k => { k with state := .awaiting, places := 0 })
  if k.spore then freePlaces s1 k.srcChip k.engine k.places else s1

/-- The next unit of the port's packet is granted. -/
def grantUnit (s : State) (p : PortId) (k : Packet) : State :=
  match k.feed with
  | [] => s
  | u :: rest =>
    let s1 := { s with outbox := s.outbox ++ [feedOut s p k u], feedLast := if u.isFlit then p else s.feedLast }
    let s2 := if charged k then feedCharge s1 (pktCtx k) 256 else s1
    let s3 := match u with | .item w => countChoice s2 k w | .flit _ _ => s2
    let s4 := modQueue s3 p (modPkt k.seq fun k => { k with feed := rest, since := s.tick })
    if rest.isEmpty then endFeed s4 p k else s4

/-- FEED_FLIT_GRANT: one unit goes to the next port in turn among those whose core is ready. What is FEEDING is fed in
SAFE too: an abandoned packet ends there with its ABORT (R143). -/
def execFeedFlitGrant (ready : BitVec 80) (s : State) : Res :=
  match grantTurn s ready with
  | none => finish s s
  | some p =>
    match feedingOn s p with
    | none => finish s s
    | some k => working s true fun s => grantUnit s p k

/-! ## DRAIN_FLIT, END_OF_PACKET_MARK (15 R341, R342) -/

/-- DRAIN_FLIT: a core puts a flit into its port's drain lane, from which the drain takes it (R147, `settleDrain`). -/
def execDrainFlit (port : PortId) (tag : BitVec 128) (data : List Byte) (s : State) : Res :=
  if Instr.wf (.drainFlit port tag data) then
    working s (!tagMark tag && !laneFull s port) fun s => toLane s port tag data
  else .refused (.illFormed "a drain flit is 256 bytes")

/-- END_OF_PACKET_MARK. -/
def execEndOfPacketMark (port : PortId) (tag : BitVec 128) (s : State) : Res :=
  working s (tagMark tag && !laneFull s port) fun s => toLane s port tag []

/-! ## CORE_TIMEOUT (15 R343) -/

/-- core_timeout in ticks. -/
def coreTicks (s : State) : Nat := 1000 * s.coreTimeout.toNat

/-- A packet has been AWAITING for longer than core_timeout, or FEEDING with no unit taken for it. -/
def coreStuck (s : State) (p : PortId) : Bool :=
  s.queues[p].packets.any fun k =>
    (k.state == .awaiting && coreTicks s < s.since k.since) || (k.state == .feeding && coreTicks s ≤ s.since k.since)

/-- The tile has a packet on the port, a bin dealt to it, or courses still to deal over a core set with it. -/
def usesPort (s : State) (p : PortId) (t : Tile) : Bool :=
  !t.dead && ((t.writers.any fun w => w.1 == p) || (s.queues[p].packets.any (isPktOf t.ctx t.epoch))
    || (!t.later.isEmpty && t.cores.contains p))

/-- The home engines of the spores on a port are refused, one frame for each packet. -/
def refuseSpores (s : State) (ks : List Packet) : State :=
  ks.foldl (fun s k => refuseTo (freePlaces s k.srcChip k.engine k.places) k.srcChip k.engine) s

/-- The port fails. -/
def failPort (s : State) (p : PortId) : State :=
  let cs := (fins 16).filter fun c => s.tiles.any fun t => t.ctx == c && usesPort s p t
  let spores := (s.queues[p].packets.filter (·.spore)) ++ (s.sporeWriters.filter fun w => w.1 == p).map (·.2)
  let s1 := { modQueue s p (fun q => { q with packets := [], drainRow := [] }) with
    lanes := s.lanes.filter fun l => l.1 != p
    coreFail := bvSetBit s.coreFail p.val true
    sporeWriters := s.sporeWriters.filter fun w => w.1 != p }
  let s2 := cs.foldl (fun s c => abandonAll s c ((s.ctx c).state == .preempting)) s1
  refuseSpores s2 spores

/-- CORE_TIMEOUT. -/
def execCoreTimeout (port : PortId) (s : State) : Res := working s (coreStuck s port) fun s => failPort s port

end Sys2Proof.Machine
end

