-- ==== Sys2Proof/Machine/Combine.lean ====
section
/-!
DEFINITION. The Mortar (08): combine of a token in rank order, output rows and casts, gate gradients, route logs, the
records of a commit (05 R113, R117), TILE_COMMIT and the statistics of a step (05 R120).
-/
namespace Sys2Proof.Machine

/-! ## Operands of a tile's combine -/

/-- What the combine of a tile adds, from the descriptor or, for TILE_COMBINE and TILE_REVERSE, from the log. -/
structure MixOps where
  sharedN : Nat
  sharedPos : Nat
  weight : Nat → F32
  resid : Bool

/-- The operands of a tile's combine. -/
def mixOps (s : State) (t : Tile) : MixOps :=
  let o := tileOps s t
  if t.kind == .route then ⟨cbSharedN o, cbSharedPos o, cbSharedW o, cbResid o⟩
  else let h := leNat t.hdr; ⟨lgSharedN h, lgSharedPos h, lgSharedW h, lgResid h⟩

/-- The next token of the tile's section: enabled slice `i mod m` takes ready tokens in the order in which they became
ready (R191, R192). -/
def sectionTurn (s : State) (t : Tile) (i : Nat) : Bool :=
  let m := max 1 (enabledSlices s).length
  (s.ready.find? fun r => r.2.2 % m == i % m) == some (t.ctx, t.epoch, i)

/-! ## Reads (R183, R184) -/

/-- A row that the combine of a token reads: the weight of its term, its format and its address. -/
structure Src where
  w : F32
  fmt : Nat
  addr : Nat

/-- Row `row` of a tensor of the tile's descriptor, as a term of weight `w`. -/
def rowSrc (s : State) (t : Tile) (idx : Nat) (w : F32) (row : Nat) : Option Src :=
  (heldTensor (s.ctx t.ctx) idx).bind fun td => (rowPlace s td row).map fun a => ⟨w, td.fmt, a⟩

/-- The shared experts added before rank 0, or after the last rank. -/
def sharedSrcs (m : MixOps) (after : Bool) (s : State) (t : Tile) (i : Nat) : List Src :=
  ((tabulate m.sharedN id).filter fun n => bitAt m.sharedPos n == after).filterMap fun n =>
    rowSrc s t (cbSharedT (tileOps s t) n) (m.weight n) (t.tau0 + i)

/-- The expected slots of a token. -/
def expectedOf (s : State) (t : Tile) (i : Nat) : List Nat :=
  (tabulate t.k fun j => t.k * i + j).filter (expected s t)

/-- The slots of a token, in ascending rank, with their gates. -/
def slotSrcs (s : State) (t : Tile) (i : Nat) : List Src :=
  (expectedOf s t i).map fun x => ⟨rtGate (tileEntry s t x), cbResFmt (tileOps s t), slotAddr s t x⟩

/-- Every term of a routed token but the residual, in the order of R183. -/
def termSrcs (m : MixOps) (s : State) (t : Tile) (i : Nat) : List Src :=
  sharedSrcs m false s t i ++ slotSrcs s t i ++ sharedSrcs m true s t i

/-- The residual row that is read from memory; that of a TILE_REVERSE is its staged δ row. -/
def residSrc (m : MixOps) (s : State) (t : Tile) (i : Nat) : Option Src :=
  if m.resid && t.kind != .reverse then rowSrc s t (cbResidT (tileOps s t)) zeroF (t.tau0 + i) else none

/-- The gate gradients are formed (R197). -/
def grads (s : State) (t : Tile) : Bool := t.kind == .reverse && cbFwd (tileOps s t) != 0

/-- The forward rows that a token's gate gradients need, by rank: none for a slot that is not expected (R197). -/
def gradSrcs (s : State) (t : Tile) (i : Nat) : List (Option Src) :=
  let fmt := lgResFmt (leNat t.hdr)
  if grads s t then
    tabulate t.k fun j =>
      if expected s t (t.k * i + j) then
        some ⟨zeroF, fmt, cbFwd (tileOps s t) + ((t.tau0 + i) * t.k + j) * rowBytes t.d fmt⟩
      else none
  else []

/-- The ranges that the combine of a token reads, in the order of its terms. -/
def combRngs (s : State) (t : Tile) (i : Nat) (k : Tok) : List (Nat × Nat) :=
  let m := mixOps s t
  let terms := if k.status == some .routed then termSrcs m s t i ++ (residSrc m s t i).toList else []
  (terms ++ (gradSrcs s t i).filterMap id).map fun x => (x.addr, rowBytes t.d x.fmt)

/-- A row that has been read, decoded. -/
def srcRow (s : State) (t : Tile) (i : Nat) (x : Src) : List F32 × ConvCount :=
  decodeRow t.d x.fmt (gotRead s (.comb t.ctx t.epoch i) x.addr (rowBytes t.d x.fmt))

/-! ## Sums -/

/-- One term added: fma, or for a TILE_REVERSE a plain addition (R199). -/
def addTerm (rev : Bool) (acc : List F32) (term : F32 × List F32) : List F32 :=
  List.zipWith (fun a y => if rev then addF a y else fmaF term.1 y a) acc term.2

/-- The FP32 row of a routed token (R183). -/
def mix (rev : Bool) (d : Nat) (terms : List (F32 × List F32)) (resid : Option (List F32)) : List F32 :=
  let acc := terms.foldl (addTerm rev) (List.replicate d zeroF)
  match resid with
  | some r => List.zipWith addF acc r
  | none => acc

/-! ## Output rows (R185, R187, R190) -/

/-- Where a token's row goes: tensor index and row; none where it writes none. -/
def outPlace (t : Tile) (o : TpOps) (i : Nat) (k : Tok) : Option (Nat × Nat) :=
  match cbOrder o, k.status with
  | 0, some .masked => if cbSkip o then none else some (cbOut o, t.tau0 + i)
  | 0, _ => some (cbOut o, t.tau0 + i)
  | _, some .masked => none
  | 1, some .exited => some (cbRestore o, k.orig)
  | 1, _ => some (cbOut o, k.compact)
  | _, _ => some (cbOut o, k.orig)

/-- The random bits of a token's cast (11 R269). -/
def castBits (s : State) (t : Tile) (k : Tok) (o : TpOps) : Nat → Option Nat :=
  if cbRounding o == 1 then
    let q := lookup (tpSeq o) s.seqs
    roundBits ((q.map fun q => q.seed.toNat).getD 0) t.step.toNat k.pos ((q.map fun q => q.uid.toNat).getD 0)
      t.layer.toNat (if t.kind == .reverse then 3 else 2)
  else rne

/-- The bytes of a token's row in a format: the mixed row, or the input row, copied where its format is the output's and
nothing is drawn; its padding is zero (02 R35). -/
def outBytes (t : Tile) (k : Tok) (fmt : Nat) (us : Nat → Option Nat) (copy : Bool) (mixed : Option (List F32)) :
    List Byte × ConvCount :=
  match mixed with
  | some xs => encodeRow fmt us xs
  | none =>
    let row := k.row.getD []
    if copy && fmt == t.rowFmt then (cleanRow t.d fmt row, ConvCount.zero)
    else
      let x := decodeRow t.d t.rowFmt row
      let y := encodeRow fmt us x.1
      (y.1, x.2.add y.2)

/-- The Owner Table entry of the block that row `r` of a tensor lies in. -/
def ownerOf (td : TDesc) (r : Nat) : List Nat :=
  if td.dist then [td.ownerBase + (rowCoords td r).getD (td.blockDim - 1) 0 / (td.blockLen + 1)] else []

/-- A write of a token's Mortar section: its row, its place in the position list, its gate gradients. -/
def outWrite (s : State) (t : Tile) (i a : Nat) (data : List Byte) : State :=
  writeMem s (.out t.ctx t.epoch i) a data 3 (some t.ctx)

/-- A write of the tile's log, of its records, or of the position list's header. -/
def tileWrite (s : State) (t : Tile) (a : Nat) (data : List Byte) (rank : Nat) : State :=
  writeMem s (.tile t.ctx t.epoch) a data rank (some t.ctx)

/-- The row is written to its tensor and counted (R200). -/
def writeRow (s : State) (t : Tile) (i : Nat) (k : Tok) (td : TDesc) (idx row : Nat) (data : List Byte) : State :=
  match rowPlace s td row with
  | none => s
  | some a =>
    let s1 := modTp (outWrite s t i a data) t.ctx t.c fun j => { j with touched := (j.touched ++ ownerOf td row).eraseDups }
    let o := tileOps s t
    let s2 := teleCtx s1 t.ctx (if k.status == some .routed then 16 else 17) 1
    teleCtx s2 t.ctx 18 (b2n (cbOrder o == 1 && k.status == some .exited && idx == cbRestore o))

/-- The output row of a token, and its place in the position list. -/
def putRow (s : State) (t : Tile) (i : Nat) (k : Tok) (mixed : Option (List F32)) : State :=
  let o := tileOps s t
  match outPlace t o i k with
  | none => s
  | some (idx, row) =>
    match heldTensor (s.ctx t.ctx) idx with
    | none => s
    | some td =>
      let b := outBytes t k td.fmt (castBits s t k o) (cbRounding o != 1) mixed
      let s1 := convCount (writeRow s t i k td idx row b.1) t.ctx b.2
      if cbOrder o == 1 && k.kept then outWrite s1 t i (cbPosOut o + 64 + 4 * k.compact) (leBytes 4 k.orig) else s1

/-! ## Gate gradients (R197) -/

/-- Σ δ_i × y_i: 128 lanes and the tree of 03 R61. -/
def dotRows (xs ys : List F32) : F32 :=
  treeSum ((List.zip (laneRows xs) (laneRows ys)).foldl (fun acc p =>
    List.zipWith (fun a xy => fmaF xy.1 xy.2 a) acc (List.zip p.1 p.2)) (List.replicate 128 zeroF))

/-- The gate gradients of a token's bank entries, with the conversion events of the rows decoded for them. -/
def gateGrads (s : State) (t : Tile) (i : Nat) (delta : List F32) : List F32 × ConvCount :=
  (gradSrcs s t i).foldl (fun (acc : List F32 × ConvCount) x =>
    match x with
    | some x => let y := srcRow s t i x; (acc.1 ++ [dotRows delta y.1], acc.2.add y.2)
    | none => (acc.1 ++ [zeroF], acc.2)) ([], ConvCount.zero)

/-- The gate gradients of a token are written (DEDUCED, notes/assumptions/27.md). -/
def putGrads (s : State) (t : Tile) (i : Nat) (k : Tok) : State :=
  if grads s t then
    let x := decodeRow t.d t.rowFmt (k.row.getD [])
    let g := gateGrads s t i x.1
    outWrite (convCount s t.ctx (x.2.add g.2)) t i (cbGg (tileOps s t) + 4 * ((t.tau0 + i) * t.k))
      (g.1.flatMap fun y => leBytes 4 y.toNat)
  else s

/-! ## Records of a commit (05 R113, R117, R119) -/

/-- A record of the tile's commit is written, and what stood there is kept until the commit ends: an abandoned tile leaves
none of its records (05 R119). -/
def recordWrite (s : State) (t : Tile) (a : Nat) (bs : List Byte) : State :=
  tileWrite (modTile s t.ctx t.epoch fun x => { x with undo := x.undo ++ [(a, memRead s.chip a bs.length)] }) t a bs 3

/-- The exit record of a token that exited. -/
def exitRecord (t : Tile) (q : Seq) (s : State) (k : Tok) : State :=
  if q.exitEn && k.status == some .exited then
    recordWrite s t (q.exitBase + 2 * k.pos) (leBytes 2 (t.layer.toNat + 256))
  else s

/-- The hold record of a token after the step. -/
def holdRecord (t : Tile) (o : TpOps) (q : Seq) (s : State) (p : Nat × Tok) : State :=
  let h := leNat t.hdr
  let k := p.2
  let es := (tabulate t.k fun j => tileEntry s t (t.k * p.1 + j)).map fun r => (rtExpert r, rtGate r)
  let bytes := match k.status with
    | some .invalid => some (holdCleared t.k k.holdRec)
    | some .routed =>
      some (if k.held then holdAged t.k k.holdRec else holdFresh h (k.sketch.getD 0) (some es))
    | some .exited => some (if k.held then holdAged t.k k.holdRec else holdFresh h (k.sketch.getD 0) none)
    | _ => none
  match bytes with
  | some b => recordWrite s t (holdAddr q o t.k k.pos) b
  | none => s

/-- The records of a TILE_ROUTE tile; a replay writes none (11 R271). -/
def putRecords (s : State) (t : Tile) : State :=
  let o := tileOps s t
  match lookup (tpSeq o) s.seqs with
  | none => s
  | some q =>
    if t.kind != .route || t.replay then s
    else
      let s1 := t.toks.foldl (exitRecord t q) s
      if hHold (leNat t.hdr) then (indexed t.toks).foldl (holdRecord t o q) s1 else s1

/-! ## The route log (R195) -/

/-- Where a tile's log lies. -/
def logAddr (s : State) (t : Tile) : Nat := cbLog (tileOps s t) + t.i * cbLogStride (tileOps s t)

/-- The tile writes a log. -/
def logs (s : State) (t : Tile) : Bool := t.kind == .route && cbLog (tileOps s t) != 0

/-- The status field. -/
def statusField (t : Tile) : List Byte :=
  let codes := t.toks.map fun k => (k.status.map TokStatus.code).getD 0
  leBytes (logStatus t.n) ((indexed codes).foldl (fun n p => n + p.2 <<< (2 * p.1)) 0)

/-- Status field and entries. -/
def logBody (s : State) (t : Tile) : List Byte :=
  statusField t ++ (tabulate (t.n * t.k) fun x => leBytes 16 (tileEntry s t x).toNat).flatten

/-- The header. -/
def logHeader (s : State) (t : Tile) : List Byte :=
  let o := tileOps s t
  leBytes 64 (pack [(0, 0, t.model.toNat), (0, 16, t.layer.toNat), (0, 24, t.k - 1), (0, 28, 1), (4, 0, t.n),
    (4, 16, hE (leNat t.hdr) - 1), (4, 26, t.d / 256 % 64), (8, 0, cbResFmt o), (8, 4, cbSharedN o),
    (8, 6, cbSharedPos o), (8, 8, b2n (cbResid o)), (0xC, 0, t.epoch.toNat), (0xC, 16, s.fuse.chipId.toNat),
    (0x10, 0, t.step.toNat), (0x18, 0, t.tau0), (0x1C, 0, t.coursesRun), (0x20, 0, (cbSharedW o 0).toNat),
    (0x24, 0, (cbSharedW o 1).toNat)])

/-- Every token of the tile has been combined. -/
def Tile.mixed (t : Tile) : Bool := t.bucketed && t.toks.all (·.combined)

/-- A write of the tile has not returned. -/
def tileBusy (s : State) (t : Tile) : Bool := memBusy s fun o => o.tileOf == some (t.ctx, t.epoch)

/-- The tile is the last of its descriptor. -/
def lastTile (s : State) (t : Tile) : Bool :=
  match tileJob s t with
  | some j => if t.kind == .route then t.tau0 + t.n == j.count else t.i + 1 == j.count
  | none => false

/-- The position list's header: the descriptor's count of status 0 and 2 tokens (R188). -/
def listHeader (t : Tile) : List Byte :=
  let last := match t.toks.getLast? with | some k => k.compact + b2n k.kept | none => 0
  leBytes 64 last

/-- Once the writes before have returned, the log's header is written (DEDUCED, notes/assumptions/27.md). -/
def sealTile (s : State) (t : Tile) : State :=
  if t.dead || t.logged || !t.closed || tileBusy s t then s
  else
    let s1 := modTile s t.ctx t.epoch fun t => { t with logged := true }
    if logs s t then teleCtx (tileWrite s1 t (logAddr s t) (logHeader s t) 4) t.ctx 19 1 else s1

/-- After the last token: the log's statuses and entries. -/
def closeTile (s : State) (t : Tile) : State :=
  if !t.mixed || t.closed then s
  else
    let s1 := modTile s t.ctx t.epoch fun t => { t with closed := true }
    again (if logs s t then tileWrite s1 t (logAddr s t + 64) (logBody s t) 4 else s1) t sealTile

/-! ## TOKEN_COMBINE -/

/-- Beats of the token's section (R193). -/
def mixBeats (m : MixOps) (s : State) (t : Tile) (i : Nat) (k : Tok) : Nat :=
  if k.status == some .routed then
    ceilDiv (t.d * ((expectedOf s t i).length + m.sharedN + b2n m.resid)) 256
  else t.d / 256

/-- A routed token's residual: read from memory, or the δ row of a TILE_REVERSE. -/
def residRow (m : MixOps) (s : State) (t : Tile) (i : Nat) (k : Tok) : Option (List F32 × ConvCount) :=
  if m.resid && t.kind == .reverse then some (decodeRow t.d t.rowFmt (k.row.getD []))
  else (residSrc m s t i).map (srcRow s t i)

/-- The FP32 row of a routed token, with the conversion events of its terms. -/
def mixedRow (m : MixOps) (s : State) (t : Tile) (i : Nat) (k : Tok) : List F32 × ConvCount :=
  let xs := (termSrcs m s t i).map fun x => (x.w, srcRow s t i x)
  let r := residRow m s t i k
  (mix (t.kind == .reverse) t.d (xs.map fun x => (x.1, x.2.1)) (r.map (·.1)),
    ((xs.map (·.2.2)) ++ (r.map (·.2)).toList).foldl ConvCount.add ConvCount.zero)

/-- What a token reads has come: it is combined and its row written. -/
def combineTok (s : State) (t : Tile) (i : Nat) (k : Tok) : State :=
  let m := mixOps s t
  let mixed := if k.status == some .routed then some (mixedRow m s t i k) else none
  let s1 := putGrads s t i k
  let s2 := putRow (convCount s1 t.ctx ((mixed.map (·.2)).getD ConvCount.zero)) t i k (mixed.map (·.1))
  let s3 := acctAdd (dropRead s2 (.comb t.ctx t.epoch i)) t.ctx 5 (mixBeats m s t i k)
  again (modTok s3 t i fun k => { k with mixing := false, combined := true }) t closeTile

/-- The reads of token `i` have returned. -/
def combineOn (s : State) (c : CtxId) (e : BitVec 16) (i : Nat) : State :=
  match findTile s c e with
  | some t => match tokAt t i with
    | some k => combineTok s t i k
    | none => s
  | none => s

/-- The section of token `i`: enabled slice i mod m (R191). -/
def sectionOf (s : State) (i : Nat) : Option SliceId := (enabledSlices s)[i % max 1 (enabledSlices s).length]?

/-- Bytes of a frame of the tile (R191): its slots and shared rows, its residual row, and the accumulator. -/
def frameBytes (s : State) (t : Tile) : Nat :=
  let m := mixOps s t
  let resid :=
    if !m.resid then 0
    else if t.kind == .reverse then rowBytes t.d t.rowFmt
    else match heldTensor (s.ctx t.ctx) (cbResidT (tileOps s t)) with
      | some td => rowBytes t.d td.fmt
      | none => 0
  (t.k + m.sharedN) * rowBytes t.d (cbResFmt (tileOps s t)) + resid + 4 * t.d

/-- The section's window has room for one more frame of the tile (R191). -/
def frameFree (s : State) (t : Tile) (l : SliceId) : Bool :=
  sumNat ((s.frames.filter fun f => f.slice == l).map (·.bytes)) + frameBytes s t ≤ 1966080

/-- A token takes a frame of its section, and its reads are issued: rank 3, charged to the memory regulator (R192). -/
def takeFrame (s : State) (t : Tile) (i : Nat) (l : SliceId) : State :=
  let s1 := modTok { s with
    frames := s.frames ++ [⟨l, t.ctx, t.epoch, i, frameBytes s t⟩]
    ready := s.ready.filter (· != (t.ctx, t.epoch, i)) } t i fun k => { k with mixing := true }
  again s1 t fun s t =>
    match tokAt t i with
    | some k => reading s (.comb t.ctx t.epoch i) 3 (some t.ctx) (combRngs s t i k) fun s => combineTok s t i k
    | none => s

/-- TOKEN_COMBINE: a ready token, in its section's turn, with a frame free for it. -/
def execTokenCombine (tile : Fin 4) (token : BitVec 12) (s : State) : Res :=
  match tileTok s tile token with
  | none => finish s s
  | some (t, k) =>
    match sectionOf s token.toNat with
    | none => finish s s
    | some l =>
      running s (!t.dead && !k.combined && !k.mixing && sectionTurn s t token.toNat && frameFree s t l) fun s =>
        takeFrame s t token.toNat l

/-! ## TILE_COMMIT (R194, 05 R119, R120) -/

/-- The tile's records have been written: it commits. -/
def endCommit (s : State) (t : Tile) : State := endJob (commitTile s t) t.ctx t.c

/-- The commit of a tile ends once the writes of its records have returned (R194). -/
def commitOn (s : State) (t : Tile) : State := if t.committing && !tileBusy s t then endCommit s t else s

/-- The commit of a tile begins: its records are written, and with the descriptor's last tile the header of the position
list (R188, R194, 05 R119) (DEDUCED, notes/assumptions/27.md). -/
def beginCommit (s : State) (t : Tile) : State :=
  let s1 := putRecords (modTile s t.ctx t.epoch fun t => { t with committing := true }) t
  let o := tileOps s t
  again (if cbOrder o == 1 && lastTile s t then recordWrite s1 t (cbPosOut o) (listHeader t) else s1) t commitOn

/-- The tile that commits next: the oldest in flight, when all it wrote has returned. -/
def committable (s : State) : Option Tile :=
  match s.tiles.find? fun t => !t.dead with
  | some t => if t.mixed && t.logged && !t.committing && !tileBusy s t then some t else none
  | none => none

/-- TILE_COMMIT. -/
def execTileCommit (s : State) : Res :=
  match committable s with
  | none => finish s s
  | some t => running s true fun s => beginCommit s t

end Sys2Proof.Machine
end

