-- ==== Sys2Proof/Machine/Reduce.lean ====
section
/-!
DEFINITION. The reduction of a step's statistics over the adaptation group (05 R120 to R125, 07 R170, 19 R396).
-/
namespace Sys2Proof.Machine

/-! ## Messages (07 R170) -/

/-- A count of a received STAT: 2^32 − 1 there has saturated at the sender (DESIGN CHOICE, notes/assumptions/38.md). -/
def statCount (n : Nat) : Nat := if n == maxCount then maxCount + 1 else n

/-- The payload after the routing word. -/
def statBody (step : BitVec 64) (l : LayerStat) : List Byte :=
  leBytes 8 step.toNat ++ leBytes 2 l.layer.toNat ++ leBytes 2 l.counts.length
    ++ ([l.routed, l.exited, l.held, l.invalid].flatMap fun n => leBytes 4 (min n maxCount))
    ++ (l.counts.flatMap fun n => leBytes 4 (min n maxCount)) ++ (l.gates.flatMap fun g => leBytes 4 g.toNat)

/-- A STAT message to a partner: its routing word, then the values. -/
def sendStat (s : State) (c : CtxId) (g : GrpPeer) (kind : BitVec 4) (r : Reduction) (l : LayerStat) : State :=
  let word := c.val + g.ctx.toNat <<< 4 + (s.ctx c).grpRank.toNat <<< 8
  sendMsg s g.chip g.engine ⟨kind, .stat c, leBytes 8 word ++ statBody r.step l⟩

/-- A received payload: receiving context, sender's rank and context, step, and the values of a layer. -/
structure StatMsg where
  to' : CtxId
  sender : BitVec 4
  rank : Nat
  step : Nat
  stat : LayerStat
  deriving DecidableEq, Repr

/-- A payload decoded; the model is not in it. -/
def readStat (bs : List Byte) : StatMsg :=
  let e := leAt bs 18 2
  ⟨Fin.ofNat 16 (fld (leAt bs 0 8) 7 4), BitVec.ofNat 4 (leAt bs 0 8), fld (leAt bs 0 8) 23 8, leAt bs 8 8,
    ⟨0, BitVec.ofNat 8 (leAt bs 16 2), tabulate e fun i => statCount (leAt bs (36 + 4 * i) 4),
      tabulate e fun i => BitVec.ofNat 32 (leAt bs (36 + 4 * e + 4 * i) 4),
      statCount (leAt bs 20 4), statCount (leAt bs 24 4), statCount (leAt bs 28 4), statCount (leAt bs 32 4)⟩⟩

/-- The length of a well-made payload. -/
def statLen (bs : List Byte) : Nat := 36 + 8 * leAt bs 18 2

/-! ## Sums (R121) -/

/-- Two members' values joined: integer sums are exact, each gate sum rounds once, the lower rank's value first. -/
def joinStats (a b : LayerStat) : LayerStat :=
  { a with
    counts := List.zipWith (· + ·) a.counts b.counts
    gates := List.zipWith addF a.gates b.gates
    routed := a.routed + b.routed
    exited := a.exited + b.exited
    held := a.held + b.held
    invalid := a.invalid + b.invalid }

/-! ## Totals (R122) -/

/-- The totals of a layer have come: their update waits its turn. -/
def applyTotals (s : State) (c : CtxId) (r : Reduction) (l : LayerStat) : State :=
  let u : PendUpdate := ⟨s.nextUpdate, { l with model := r.stat.model, layer := r.stat.layer }, r.step⟩
  update (modCtx { s with nextUpdate := s.nextUpdate + 1 } c fun x => { x with updates := x.updates ++ [u] })

/-! ## The tree (R121) -/

/-- The partner of a level. -/
def partner (x : Ctx) (l : Nat) : Option GrpPeer :=
  if h : l < 16 then let g := x.grpPeers[l]; if g.valid then some g else none else none

/-- The children of a member at levels below `l`: those the totals are passed down to. -/
def childLevels (x : Ctx) (l : Nat) : List Nat :=
  (tabulate l id).filter fun i => x.grpRank.toNat + 2 ^ i ≤ x.grpMembers.toNat

/-- The level at which a member sends to its parent; rank 0 never does, and goes up every level. -/
def topLevel (x : Ctx) : Nat :=
  if x.grpRank == 0 then 16 else ((tabulate 16 id).find? fun l => bitAt x.grpRank.toNat l).getD 16

/-- Totals go down to the children, highest level first; none when a child's entry is missing. -/
def passDown (s : State) (c : CtxId) (r : Reduction) (l : LayerStat) : Option State :=
  (childLevels (s.ctx c) (topLevel (s.ctx c))).reverse.foldl (fun acc i =>
    acc.bind fun s => (partner (s.ctx c) i).map fun g => sendStat s c g 5 r l) (some s)

/-- The first reduction of the context is replaced. -/
def setFirst (s : State) (c : CtxId) (r : Reduction) : State :=
  modCtx s c fun x => { x with reductions := r :: x.reductions.drop 1 }

/-- The totals have come: they are passed down and applied, and the reduction of the layer is done. -/
def finishReduction (s : State) (c : CtxId) (r : Reduction) (l : LayerStat) : State :=
  match passDown s c r l with
  | none => loseGroup s c
  | some s1 =>
    let later := fun (rs : List Reduction) => match rs.drop 1 with
      | n :: rest => { n with since := s.tick } :: rest
      | [] => []
    applyTotals (modCtx s1 c fun x => { x with reductions := later x.reductions }) c r l

/-- The totals of a group of more than one as its STAT_DOWNs carry them, so that every member judges them alike (R125)
(DESIGN CHOICE, notes/assumptions/38.md). -/
def asCarried (l : LayerStat) : LayerStat :=
  { l with
    counts := l.counts.map statCount, routed := statCount l.routed, exited := statCount l.exited
    held := statCount l.held, invalid := statCount l.invalid }

/-- A level up: at the top the totals stand; a member that is a child sends; else it joins its child's values, when they
have come. -/
def levelUp (s : State) (c : CtxId) (r : Reduction) (l : Nat) : State × Bool :=
  let x := s.ctx c
  if x.grpMembers.toNat + 1 ≤ 2 ^ l then (finishReduction s c r (if x.grpMembers == 0 then r.stat else asCarried r.stat), true)
  else if bitAt x.grpRank.toNat l then
    match partner x l with
    | none => (loseGroup s c, false)
    | some g =>
      if destLost s g.chip g.engine then (loseGroup s c, false)
      else (setFirst (sendStat s c g 4 r r.stat) c { r with phase := .waitDown, since := s.tick }, false)
  else if x.grpMembers.toNat < x.grpRank.toNat + 2 ^ l then (setFirst s c { r with phase := .up (l + 1) }, true)
  else
    match partner x l with
    | none => (loseGroup s c, false)
    | some g =>
      match r.arrived.find? fun a => a.1 == l with
      | some a =>
        (setFirst s c { r with stat := joinStats r.stat a.2, phase := .up (l + 1), since := s.tick }, true)
      | none => if destLost s g.chip g.engine then (loseGroup s c, false) else (s, false)

/-- The context's reductions run as far as they can, layer by layer. -/
def reduceOn : Nat → CtxId → State → State
  | 0, _, s => s
  | n + 1, c, s =>
    match (s.ctx c).reductions with
    | r :: _ =>
      match r.phase with
      | .up l =>
        let x := levelUp s c r l
        if x.2 then reduceOn n c x.1 else x.1
      | .waitDown => s
    | [] => s

/-- Steps enough for every level of every layer. -/
def reduce (s : State) (c : CtxId) : State := reduceOn (18 * (s.ctx c).reductions.length) c s

/-- GROUP_REDUCE: the reductions of the step that ended run. -/
def execGroupReduce (ctx : CtxId) (s : State) : Res :=
  working s (!(s.ctx ctx).reductions.isEmpty) fun s => reduce s ctx

/-- STAT_TIMEOUT: lost_timeout has passed, and the member waited for is lost (07 R170). -/
def execStatTimeout (ctx : CtxId) (s : State) : Res :=
  let due := match (s.ctx ctx).reductions with
    | r :: _ => lostTicks s ≤ s.since r.since
    | [] => false
  working s due fun s => loseGroup s ctx

/-! ## STAT_UP and STAT_DOWN -/

/-- 19 R396: the message comes from a member named in the receiving context's group; entries of levels that the tree
does not use are ignored. -/
def statKnown (s : State) (chip : BitVec 16) (engine : Bool) (m : StatMsg) : Bool :=
  let x := s.ctx m.to'
  (levelsOf x).any fun l => let g := x.grpPeers[l]; g.valid && g.chip == chip && g.engine == engine && g.ctx == m.sender

/-- The reduction a message belongs to (DEDUCED, notes/assumptions/38.md). -/
def statMatches (m : StatMsg) (r : Reduction) : Bool :=
  r.step.toNat == m.step && r.stat.layer == m.stat.layer && r.stat.counts.length == m.stat.counts.length

/-- The message is for a step that has not ended here. -/
def statEarly (x : Ctx) (m : StatMsg) : Bool := x.step.toNat ≤ m.step

/-- The level between two ranks, where they differ in one bit. -/
def rankLevel (a b : Nat) : Option Nat := (tabulate 16 id).find? fun l => a ^^^ b == 2 ^ l

/-- The child's values are kept for the level they join at. -/
def addUp (s : State) (m : StatMsg) : State :=
  match rankLevel (s.ctx m.to').grpRank.toNat m.rank with
  | none => s
  | some l =>
    let put := fun (r : Reduction) => { r with arrived := r.arrived ++ [(l, m.stat)] }
    reduce (modCtx s m.to' fun x => { x with reductions := updFirst (statMatches m) put x.reductions }) m.to'

/-- The totals come down to a member that waits for them. -/
def addDown (s : State) (m : StatMsg) : State :=
  match (s.ctx m.to').reductions with
  | r :: _ =>
    if r.phase == .waitDown && statMatches m r then
      reduce (finishReduction s m.to' r { m.stat with model := r.stat.model }) m.to'
    else s
  | [] => s

end Sys2Proof.Machine
end

