-- ==== Sys2Proof/Machine/Basol.lean ====
section
/-!
DEFINITION. Basol (07 R155 to R168, 15 R344, R345, 18 R380, R381): blocks sent and received, control frames, timeouts,
the messages of spills, statistics and remote reads as they become visible, and the spill set's configuration.
-/
namespace Sys2Proof.Machine

/-! ## Blocks (R158) -/

/-- Payload bytes of a block. -/
def payloadMax : Nat := 496

/-- Bytes 0x0 to 0xB of a block's header. -/
def blockHead (s : State) (t : TxStream) (kind : BitVec 4) (first last : Bool) (n : Nat) : Nat :=
  pack [(0, 0, selfWord s), (0, 17, b2n t.engine), (0, 18, b2n first), (0, 19, b2n last), (0, 20, kind.toNat),
    (0, 24, t.gen.toNat), (4, 0, t.next.toNat), (8, 0, t.chip.toNat), (8, 16, n)]

/-- A block of 512 bytes. -/
def blockBytes512 (head : Nat) (payload : List Byte) : List Byte :=
  let h := leBytes 12 head
  let p := padTo payload payloadMax
  h ++ leBytes 4 (crc32c (h ++ p)) ++ p

/-- The message types that may spend a reserved credit (R160). -/
def isAnswer (kind : BitVec 4) : Bool := kind == 2 || kind == 3 || kind == 4 || kind == 5 || kind == 7

/-- The pools after a block of a type has spent its credit; none without a credit of the right kind. -/
def spend (kind : BitVec 4) (general reserved : Nat) : Option (Nat × Nat) :=
  if isAnswer kind && reserved != 0 then some (general, reserved - 1)
  else if general != 0 then some (general - 1, reserved)
  else none

/-! ## BASOL_BLOCK_SEND (R155, R160, R289) -/

/-- The context whose spore regulator a message's blocks are charged to (12 R289). -/
def payer : MsgOwner → Option CtxId
  | .spore c _ _ => some c
  | .stat c => some c
  | .epochReq c => some c
  | .readReq _ c => some c
  | _ => none

/-- A block is charged and counted as it goes out. -/
def chargeBlock (s : State) (o : MsgOwner) : State :=
  let s1 := match payer o with | some c => sporeCharge s c 512 | none => s
  teleEng s1 5 1

/-- The message may begin: its regulator grants its first block, and a credit of the right kind is left. -/
def mayBeginMsg (s : State) (t : TxStream) (m : TxMsg) : Bool :=
  (spend m.kind t.general t.reserved).isSome && (match payer m.owner with | some c => sporeOpen s c | none => true)

/-- A spore that begins is counted (R177, 12 R290). -/
def countBegin (s : State) (o : MsgOwner) : State :=
  match o with
  | .spore c _ n => acctAdd (teleCtx s c 14 1) c 6 n
  | _ => s

/-- A block goes out as 8 transfers of 64 bytes, the first and the last marked (15 R344). -/
def sendTransfers (s : State) (t : TxStream) (bytes : List Byte) : State :=
  { s with outbox := s.outbox ++
      tabulate 8 fun i => .transfer t.port t.chip true (i == 0) (i == 7) (slice bytes (64 * i) 64) }

/-- The next block of the message in progress goes out, with its credit. -/
def sendNext (s : State) (t : TxStream) (m : TxMsg) (off : Nat) : State :=
  match spend m.kind t.general t.reserved with
  | none => s
  | some (g, r) =>
    let n := min payloadMax (m.bytes.length - off)
    let last := m.bytes.length ≤ off + payloadMax
    let bytes := blockBytes512 (blockHead s t m.kind (off == 0) last n) (slice m.bytes off n)
    let blk : TxBlk := ⟨t.next, bytes, 1, m.kind, m.owner, s.tick, s.tick⟩
    let s1 := modTx s t.chip t.engine fun t => { t with
      next := t.next + 1, general := g, reserved := r, cur := if last then none else some (m, off + payloadMax)
      unacked := t.unacked ++ [blk] }
    sendTransfers (chargeBlock s1 m.owner) t bytes

/-- The first message that may begin does (DEDUCED, notes/assumptions/34.md). -/
def beginMsg (s : State) (t : TxStream) : State :=
  match (indexed t.queue).find? fun p => mayBeginMsg s t p.2 with
  | none => s
  | some (i, m) => sendNext (countBegin (modTx s t.chip t.engine fun t => { t with queue := t.queue.eraseIdx i }) m.owner) t m 0

/-- A block is sent again: it spends no credit, and is counted at its entry and its port (R161). -/
def resendBlk (s : State) (t : TxStream) (q : BitVec 32) (b : TxBlk) : State :=
  let s1 := modTx s t.chip t.engine fun t => { t with
    resend := t.resend.filter (· != q)
    unacked := updFirst (fun x => x.seq == q) (fun x => { x with sends := x.sends + 1, sentAt := s.tick }) t.unacked }
  let s2 := modPeer s1 t.chip t.engine fun p => { p with resends := satInc p.resends }
  let s3 := { s2 with spore := { s2.spore with portResends := vmod s2.spore.portResends t.port satInc } }
  sendTransfers (chargeBlock s3 b.owner) t b.bytes

/-- The next block of a stream: resends first, then the message in progress, then a new message
(DEDUCED, notes/assumptions/34.md). -/
def sendBlock (s : State) (t : TxStream) : State :=
  match t.resend with
  | q :: _ =>
    match t.unacked.find? fun b => b.seq == q with
    | some b => resendBlk s t q b
    | none => modTx s t.chip t.engine fun t => { t with resend := t.resend.drop 1 }
  | [] =>
    match t.cur with
    | some (m, off) => sendNext s t m off
    | none => beginMsg s t

/-- BASOL_BLOCK_SEND: a stream that may send. -/
def execBasolBlockSend (chip : BitVec 16) (engine : Bool) (s : State) : Res :=
  match findTx s chip engine with
  | none => finish s s
  | some t => running s (!t.ended && !t.stopped) fun s => sendBlock s t

/-! ## BASOL_BLOCK_RECEIVE (R161, R162, R165, 18 R380) -/

/-- A block taken apart. -/
structure Blk where
  chip : BitVec 16
  engine : Bool
  first : Bool
  last : Bool
  kind : BitVec 4
  gen : BitVec 8
  seq : BitVec 32
  payload : List Byte
  deriving DecidableEq, Repr

/-- The fields of a block. -/
def readBlock (bs : List Byte) : Blk :=
  let h := leAt bs 0 12
  ⟨BitVec.ofNat 16 h, rb h 0 16, rb h 0 18, rb h 0 19, BitVec.ofNat 4 (rf h 0 23 20), BitVec.ofNat 8 (rf h 0 31 24),
    BitVec.ofNat 32 (rf h 4 31 0), slice bs 16 (rf h 8 24 16)⟩

/-- The CRC holds and the type is not reserved (R157, R158). -/
def blockGood (bs : List Byte) : Bool :=
  crc32c (bs.take 12 ++ bs.drop 16) == leAt bs 12 4
    && (let k := (readBlock bs).kind; 1 ≤ k.toNat && k.toNat ≤ 7)

/-- A bad block is counted at its port. -/
def badBlock (s : State) (port : Fin 8) : State :=
  { s with spore := { s.spore with badRx := vmod s.spore.badRx port satInc } }

/-- A new inbound stream, with the 32 credits it starts with. -/
def newRx (s : State) (port : Fin 8) (b : Blk) : RxStream :=
  ⟨b.chip, b.engine, b.gen, 0, port, [], 0, 0, [], true, 24, 8, none, s.tick⟩

/-- The places of spores held for an engine are no longer places of its stream. -/
def forgetPlaces (s : State) (chip : BitVec 16) (engine : Bool) : State :=
  let clear := fun (k : Packet) => if k.spore && k.srcChip == chip && k.engine == engine then { k with places := 0 } else k
  { mapQueues s fun q => { q with packets := q.packets.map clear } with
    sporeWriters := s.sporeWriters.map fun w => (w.1, clear w.2)
    rowHolds := s.rowHolds.map fun h => if h.chip == chip && h.engine == engine then { h with places := 0 } else h }

/-- A newer generation begins: the old stream ends, its partial message is lost, and the source's floors are unset. -/
def renewRx (s : State) (port : Fin 8) (b : Blk) (old : RxStream) : State :=
  let s1 := if old.partBlocks == 0 then s else teleEng s 4 1
  let fresh := { newRx s port b with visible := old.visible.map fun m => { m with places := 0 } }
  modRx { forgetPlaces s1 b.chip b.engine with
    floors := s.floors.filter fun f => !(f.chip == b.chip && f.engine == b.engine) } b.chip b.engine fun _ => fresh

/-- The block number that a released stream of an engine had reached, where it was of this generation. -/
def resumeAt (s : State) (chip : BitVec 16) (engine : Bool) (gen : BitVec 8) : Option (BitVec 32) :=
  match lookup (engKey chip engine) s.rxPast with
  | some p => if p.1 == gen then some p.2 else none
  | none => none

/-- A stream is held from an engine that had none: a new generation unsets the source's floors (R166), and one that goes
on after its release here does not. -/
def beginRx (s : State) (r : RxStream) : State :=
  let s1 := { s with rx := s.rx ++ [r], rxPast := eraseKey (engKey r.chip r.engine) s.rxPast }
  if (resumeAt s r.chip r.engine r.gen).isSome then s1
  else { s1 with floors := s1.floors.filter fun f => !(f.chip == r.chip && f.engine == r.engine) }

/-- A stream begins from an engine that has none. Its first block is number 0, or the next one where the sender goes on
with a generation whose state was released here, a case on whose number the spec is silent (DESIGN CHOICE,
notes/assumptions/35.md). -/
def startRx (s : State) (port : Fin 8) (b : Blk) : State :=
  beginRx s { newRx s port b with expect := (resumeAt s b.chip b.engine b.gen).getD 0 }

/-- Generation `a` is older than `b` (18 R381). -/
def olderGen (a b : BitVec 8) : Bool := let k := (b - a).toNat; 1 ≤ k && k ≤ 127

/-- 128 streams are held: the block is discarded, and a CREDIT frame with credits 0 says so. A newer stream of an engine
takes the place of its old one at the end of those that wait; a block of an older one draws nothing (R161). -/
def holdOff (s : State) (port : Fin 8) (b : Blk) : State :=
  let w : RxWaiter := ⟨b.chip, b.engine, b.gen, b.seq, port, s.tick⟩
  let mine := fun (x : RxWaiter) => x.chip == b.chip && x.engine == b.engine
  match s.rxWait.find? mine with
  | none => sendFrame { s with rxWait := s.rxWait ++ [w] } port b.chip b.engine b.gen 3 b.seq 0
  | some x =>
    if x.gen == b.gen then sendFrame s port b.chip b.engine b.gen 3 b.seq 0
    else if olderGen b.gen x.gen then s
    else sendFrame { s with rxWait := (s.rxWait.filter fun x => !mine x) ++ [w] } port b.chip b.engine b.gen 3 b.seq 0

/-- A good block is received on its stream, kept or not: the stream is heard, and its generation known (R162, 18 R380,
R381). -/
def hearRx (s : State) (r : RxStream) : State :=
  modRx s r.chip r.engine fun r => { r with lastBlock := s.tick, known := true }

/-- A block out of order draws one NAK for the block expected, and another only after ack_timeout. -/
def outOfOrder (s : State) (r : RxStream) : State :=
  let due := match r.nak with
    | some (q, t) => q != r.expect || ackTicks s ≤ s.since t
    | none => true
  if due then
    sendFrame (modRx s r.chip r.engine fun r => { r with nak := some (r.expect, s.tick) }) r.port r.chip r.engine r.gen 2
      r.expect 0
  else s

/-- SPOREs are not served: rx_enable is 0, or the spore core set is empty (R165). -/
def refusesSpores (s : State) : Bool := !s.spore.rxEnable || (sporeCores s).isEmpty

/-- The block is the next of its stream: its sequence number and credit are taken. -/
def takeSeq (s : State) (r : RxStream) (b : Blk) : State :=
  modRx s r.chip r.engine fun r =>
    let p := (spend b.kind r.general r.reserved).getD (r.general, r.reserved)
    { r with expect := r.expect + 1, general := p.1, reserved := p.2, nak := none }

/-- The block's bytes are held; the last makes the message visible. -/
def keepBlock (s : State) (b : Blk) : State :=
  modRx s b.chip b.engine fun r =>
    let part := if b.first then b.payload else r.part ++ b.payload
    let kind := if b.first then b.kind else r.partKind
    let n := if b.first then 1 else r.partBlocks + 1
    if b.last then { r with part := [], partBlocks := 0, partKind := 0, visible := r.visible ++ [⟨kind, part, n⟩] }
    else { r with part := part, partKind := kind, partBlocks := n }

/-- ACK for every block received good (DEDUCED, notes/assumptions/35.md). -/
def ackBlock (s : State) (chip : BitVec 16) (engine : Bool) : State :=
  match findRx s chip engine with
  | some r => sendFrame s r.port chip engine r.gen 1 (r.expect - 1) 0
  | none => s

/-- A good block of the stream's generation (DEDUCED, notes/assumptions/35.md). -/
def goodBlock (s0 : State) (r : RxStream) (b : Blk) : State :=
  let s := hearRx s0 r
  if b.seq != r.expect then outOfOrder s r
  else
    let s1 := takeSeq s r b
    if b.first && b.kind == 1 && refusesSpores s then
      sendFrame (modRx s1 b.chip b.engine fun r => { r with part := [], partBlocks := 0 }) r.port b.chip b.engine b.gen 4
        b.seq 0
    else if !b.first && r.partBlocks == 0 then freePlaces (ackBlock s1 b.chip b.engine) b.chip b.engine 1
    else ackBlock (keepBlock s1 b) b.chip b.engine

/-- A good block: its stream's generation is judged first. -/
def acceptBlock (s : State) (port : Fin 8) (b : Blk) : State :=
  match findRx s b.chip b.engine with
  | none =>
    if 128 ≤ s.rx.length then holdOff s port b
    else let s1 := startRx s port b; match findRx s1 b.chip b.engine with | some r => goodBlock s1 r b | none => s1
  | some r =>
    if b.gen == r.gen then goodBlock s r b
    else if r.known && olderGen b.gen r.gen then s
    else
      let s1 := renewRx s port b r
      match findRx s1 b.chip b.engine with
      | some r => goodBlock s1 r b
      | none => s1

/-- What a received block does. An engine in SELFTEST, SAFE or LOCKED answers the first block of a message with REFUSE
and holds nothing (R165). -/
def receiveBlock (s : State) (port : Fin 8) (bs : List Byte) : State :=
  let b := readBlock bs
  let s1 := teleEng s 6 1
  if !blockGood bs then badBlock s1 port
  else if s.up then acceptBlock s1 port b
  else if b.first then sendFrame s1 port b.chip b.engine b.gen 4 b.seq 0
  else s1

/-- BASOL_BLOCK_RECEIVE. -/
def execBasolBlockReceive (port : Fin 8) (block : List Byte) (s : State) : Res :=
  if Instr.wf (.basolBlockReceive port block) then
    guarded s (s.on && !s.inReset) fun s => settle (receiveBlock s port block)
  else .refused (.illFormed "a Basol block is 512 bytes")

/-! ## Visible messages -/

/-- The first visible message of a stream, early STAT_UPs apart, which wait for the member's own step to end
(DEDUCED, notes/assumptions/38.md). -/
def frontMsg (s : State) (r : RxStream) : Option (Nat × RxMsg) :=
  (indexed r.visible).find? fun p =>
    !(p.2.kind == 4 &&
      (let m := readStat p.2.bytes
       statKnown s r.chip r.engine m && statEarly (s.ctx m.to') m
         && !(s.ctx m.to').reductions.any (statMatches m)))

/-- The front message of a stream, when it has the kind: the rest of the state without it, and the message. -/
def takeMsg (s : State) (chip : BitVec 16) (engine : Bool) (kind : BitVec 4) : Option (State × RxMsg) :=
  (findRx s chip engine).bind fun r =>
    match frontMsg s r with
    | some (i, m) =>
      if m.kind == kind then some (modRx s chip engine fun r => { r with visible := r.visible.eraseIdx i }, m) else none
    | none => none

/-- The effect of a visible message of a kind, when there is one. -/
def handling (s : State) (chip : BitVec 16) (engine : Bool) (kind : BitVec 4) (f : State → RxMsg → State) : Res :=
  match takeMsg s chip engine kind with
  | none => finish s s
  | some (s1, m) => running s true fun _ => f s1 m

/-! ## SPORE (R163, R165) -/

/-- The fields of a spore header. -/
def sporeFields : List (Nat × Nat × Nat) :=
  [(0, 31, 0), (4, 31, 0), (8, 23, 0), (0xC, 17, 0), (0x10, 31, 0)]

/-- The fields of a route entry (05 R109). -/
def entryFields : List (Nat × Nat × Nat) := [(0, 28, 0), (0, 31, 31), (4, 31, 0), (8, 22, 0), (8, 31, 24), (0xC, 15, 0)]

/-- A spore header as a number. -/
def sporeHead (bs : List Byte) : Nat := leAt bs 0 64
/-- The ranks carried, ascending. -/
def sporeRanks (h : Nat) : List Nat := (tabulate 16 id).filter fun j => bitAt (rf h 4 31 16) j
/-- The route entries. -/
def sporeEntries (bs : List Byte) : List RtEntry :=
  tabulate (sporeRanks (sporeHead bs)).length fun i => BitVec.ofNat 128 (leAt bs (64 + 16 * i) 16)
/-- d -/
def sporeD (h : Nat) : Nat := 256 * (if rf h 0xC 5 0 == 0 then 64 else rf h 0xC 5 0)
/-- row_fmt -/
def sporeFmt (h : Nat) : Nat := rf h 0 27 24

/-- A route entry stands for its bit of choice_mask, and its reserved bits are zero. -/
def entryOk (rank : Nat) (r : RtEntry) : Bool := reservedZero r.toNat entryFields && rtRank r == rank

/-- R165 step 1: the spore is well made. -/
def sporeOk (bs : List Byte) : Bool :=
  let h := sporeHead bs
  let ranks := sporeRanks h
  reservedZero h sporeFields && sporeFmt h ≤ 9 && rf h 0 31 28 ≤ 2 && (!rb h 0 23 || (linkOk (sporeFmt h) && sporeFmt h != 0))
    && !ranks.isEmpty && bs.length == 64 + 16 * ranks.length + rowBytes (sporeD h) (sporeFmt h)
    && (List.zip ranks (sporeEntries bs)).all fun p => entryOk p.1 p.2

/-- The packet of a spore (R165 step 3): one item per route entry, which are fed in ascending expert (06 R145). -/
def sporePacket (s : State) (m : RxMsg) : Packet :=
  let h := sporeHead m.bytes
  let es := sporeEntries m.bytes
  let p : Packet := {
    srcChip := BitVec.ofNat 16 h
    ctx := BitVec.ofNat 4 (rf h 0 19 16)
    lc := rb h 0 20
    spore := true
    engine := rb h 0 21
    course := 0
    epoch := BitVec.ofNat 16 (rf h 4 15 0)
    items := 0
    choices := 0
    listPtr := Config.listPtr 2 s.fresh
    seq := 0
    state := .committed
    feed := []
    returned := 0
    rowFmt := sporeFmt h
    outFmt := rf h 0 31 28
    d := sporeD h
    lcomp := rb h 0 23
    row := m.bytes.drop (64 + 16 * es.length)
    places := m.places
    aborted := false
    lost := false
    since := s.tick
    slots := [] }
  packetOf p (rf h 8 15 0) (rf h 8 23 16) false
    ((sortBy (fun a b => rtExpert a < rtExpert b) es).map fun r =>
      (rtExpert r, [⟨rtTok r, rtRank r, rf r.toNat 0xC 15 0, rtGate r⟩]))

/-- The core a spore is served on, and whether it is another than the hash names (R165 step 4). -/
def sporeCore (s : State) (h : Nat) : PortId × Bool :=
  let cs := sporeCores s
  let fixed := cs.getD ((rf h 0x10 31 0 * cs.length) >>> 32) 0
  if rb h 0 22 then (fixed, false)
  else
    let p := (firstMin (fun a b => pendingAt s a < pendingAt s b) cs).getD fixed
    (p, p != fixed)

/-- A visible spore is served, refused, or discarded. -/
def serveSpore (chip : BitVec 16) (engine : Bool) (s : State) (m : RxMsg) : State :=
  let free := fun (s : State) => freePlaces s chip engine m.places
  if refusesSpores s then refuseTo (free s) chip engine
  else if !sporeOk m.bytes then free (teleEng s 2 1)
  else
    let p := sporePacket s m
    if floored s p.srcChip p.engine p.ctx p.epoch then free (teleEng s 1 1)
    else
      let c := sporeCore s (sporeHead m.bytes)
      tdcEvent (teleEng { s with sporeWriters := s.sporeWriters ++ [(c.1, p)], fresh := s.fresh + 1 } 0 1) 3 (b2n c.2) none

/-- SPORE. -/
def execSpore (chip : BitVec 16) (engine : Bool) (s : State) : Res :=
  handling s chip engine 1 (serveSpore chip engine)

/-! ## RESULT (R167, R169) -/

/-- The tile and slot that a RESULT is for: a spill slot still unfilled (DEDUCED, notes/assumptions/36.md). -/
def resultFor (s : State) (bs : List Byte) : Option (Tile × Nat) :=
  let h := leAt bs 0 64
  let i := rf h 8 15 0
  (findTile s (Fin.ofNat 16 (rf h 0 19 16)) (BitVec.ofNat 16 (rf h 4 15 0))).bind fun t =>
    if (t.spilled.any fun x => x.1 == i) && !resultIn s t i then some (t, i) else none

/-- The row of a RESULT as it is written: a compressed one decoded and cast to the format of the results buffer, any
other as it came (R169). -/
def resultRow (d fmt res : Nat) (bytes : List Byte) : List Byte × ConvCount :=
  if isMx fmt then convertRow d fmt res bytes else (bytes, ConvCount.zero)

/-- A RESULT is accepted into its slot, and its blocks keep their places until the row is written (R160); any other
counts as late (DEDUCED, notes/assumptions/36.md). -/
def acceptResult (chip : BitVec 16) (engine : Bool) (s : State) (m : RxMsg) : State :=
  match resultFor s m.bytes with
  | none => teleEng (freePlaces s chip engine m.places) 3 1
  | some (t, i) =>
    let row := resultRow t.d (rf (leAt m.bytes 0 64) 0 27 24) (cbResFmt (tileOps s t)) (m.bytes.drop 64)
    let s1 := match t.spilled.find? fun x => x.1 == i with
      | some (_, c, e) => modPeer s c e fun p => { p with outstanding := p.outstanding - 1 }
      | none => s
    writeSlot (acctAdd (convCount { s1 with
      rowHolds := s1.rowHolds ++ [⟨t.ctx, t.epoch, i, chip, engine, m.places⟩] } t.ctx row.2) t.ctx 7 1) t i row.1

/-- RESULT. -/
def execResult (chip : BitVec 16) (engine : Bool) (s : State) : Res :=
  handling s chip engine 2 (acceptResult chip engine)

/-! ## ABANDON (R166) -/

/-- The floor of a source's context. -/
def setFloor (s : State) (chip : BitVec 16) (engine : Bool) (ctx : BitVec 4) (floor : BitVec 16) : State :=
  let same := fun (f : Floor) => f.chip == chip && f.engine == engine && f.ctx == ctx
  { s with floors := s.floors.filter (fun f => !same f) ++ [⟨chip, engine, ctx, floor⟩] }

/-- An ABANDON raises the floor and removes the packets it covers. -/
def raiseFloor (src : BitVec 16) (eng : Bool) (s : State) (m : RxMsg) : State :=
  let h := leNat m.bytes
  let chip := BitVec.ofNat 16 h
  let engine := rb h 0 21
  let ctx := BitVec.ofNat 4 (rf h 0 19 16)
  let floor := BitVec.ofNat 16 (rf h 4 15 0)
  let s0 := freePlaces s src eng m.places
  let held := s.floors.find? fun f => f.chip == chip && f.engine == engine && f.ctx == ctx
  let newer := match held with | some f => olderEpoch f.floor floor | none => true
  if !newer then s0
  else
    let old := fun (k : Packet) =>
      k.spore && k.srcChip == chip && k.engine == engine && k.ctx == ctx && olderEpoch k.epoch floor
    let n := sumNat (s.queues.toList.map fun q => (q.packets.filter fun k => old k && k.state != .awaiting && !k.aborted).length)
      + (s.sporeWriters.filter fun w => old w.2).length
    teleEng (dropSpores (setFloor s0 chip engine ctx floor) old) 1 n

/-- ABANDON. -/
def execAbandon (chip : BitVec 16) (engine : Bool) (s : State) : Res :=
  handling s chip engine 3 (raiseFloor chip engine)

/-! ## STAT_UP, STAT_DOWN (R121, R170) -/

/-- A STAT message is delivered to its context, or discarded. -/
def deliverStat (f : State → StatMsg → State) (chip : BitVec 16) (engine : Bool) (s : State) (m : RxMsg) : State :=
  let x := readStat m.bytes
  let s1 := freePlaces s chip engine m.places
  if statLen m.bytes == m.bytes.length && statKnown s chip engine x then f s1 x else s1

/-- STAT_UP. -/
def execStatUp (chip : BitVec 16) (engine : Bool) (s : State) : Res :=
  handling s chip engine 4 (deliverStat addUp chip engine)

/-- STAT_DOWN. -/
def execStatDown (chip : BitVec 16) (engine : Bool) (s : State) : Res :=
  handling s chip engine 5 (deliverStat addDown chip engine)

/-! ## READ_REQ (R175) -/

/-- READ_REQ. -/
def execReadReq (chip : BitVec 16) (engine : Bool) (s : State) : Res :=
  handling s chip engine 6 fun s m =>
    let n := leNat (m.bytes.take 64)
    acceptRead (freePlaces s chip engine m.places) ⟨BitVec.ofNat 16 n, rb n 0 16, BitVec.ofNat 512 n⟩

/-! ## Control frames (R159 to R161) -/

/-- A control frame taken apart. -/
structure CtlFrame where
  chip : BitVec 16
  engine : Bool
  kind : Nat
  gen : BitVec 8
  seq : BitVec 32
  credits : Nat
  load : BitVec 16
  deriving DecidableEq, Repr

/-- The fields of a frame. -/
def readFrame (f : BitVec 128) : CtlFrame :=
  let n := f.toNat
  ⟨BitVec.ofNat 16 n, rb n 0 16, rf n 0 23 20, BitVec.ofNat 8 (rf n 0 31 24), BitVec.ofNat 32 (rf n 4 31 0),
    rf n 8 15 0, BitVec.ofNat 16 (rf n 8 31 16)⟩

/-- The frame's CRC holds. -/
def frameGood (f : BitVec 128) : Bool := crc32c (leBytes 12 f.toNat) == rf f.toNat 0xC 31 0

/-- Blocks up to a number are acknowledged. -/
def ackTo (seq : BitVec 32) (now : BitVec 64) (t : TxStream) : TxStream :=
  let left := t.unacked.filter fun b => 2 ^ 31 ≤ (seq - b.seq).toNat
  { t with
    unacked := left
    resend := t.resend.filter fun q => left.any fun b => b.seq == q
    idleSince := if left.isEmpty && !t.unacked.isEmpty then now else t.idleSince }

/-- The pools of a stream that was held off and is granted its 32 credits: the blocks to be sent again have spent
theirs (DEDUCED, notes/assumptions/34.md). -/
def grantPools (t : TxStream) : Nat × Nat :=
  t.unacked.foldl (fun p b => (spend b.kind p.1 p.2).getD p) (24, 8)

/-- Credits come back; the first after a CREDIT of 0 are the stream's first 32, and the sender resends from the
discarded block. -/
def addCredits (n : Nat) (t : TxStream) : TxStream :=
  if n == 0 then t
  else if t.stopped then
    let p := grantPools t
    { t with stopped := false, general := p.1, reserved := p.2, resend := t.unacked.map (·.seq) }
  else
    let k := min n (8 - t.reserved)
    { t with reserved := t.reserved + k, general := t.general + (n - k) }

/-- Every unacknowledged block is sent again from the oldest; after its ninth sending the stream is degraded (R161). -/
def resendFrom (s : State) (t : TxStream) : State :=
  match t.unacked with
  | [] => s
  | b :: _ =>
    if 9 ≤ b.sends then loseDest s t.chip t.engine .degraded
    else modTx s t.chip t.engine fun t => { t with resend := t.unacked.map (·.seq) }

/-- What every frame of a stream brings: the moment, the reported load, and credits. -/
def hearFrame (s : State) (f : CtlFrame) : State :=
  modTx (modPeer s f.chip f.engine fun p => { p with load := f.load }) f.chip f.engine fun t =>
    addCredits f.credits { t with heardAt := s.tick }

/-- The effect of a good frame of a kind on the stream it serves. One for a stream that is not held, has ended or has
another generation is discarded whole, its load with it (DESIGN CHOICE, notes/assumptions/35.md: R159 does not say). -/
def framed (s : State) (kind : Nat) (frame : BitVec 128) (g : State → TxStream → CtlFrame → State) : Res :=
  let f := readFrame frame
  match findTx s f.chip f.engine with
  | none => finish s s
  | some t =>
    running s (frameGood frame && f.kind == kind && !t.ended && t.gen == f.gen) fun s =>
      let s1 := hearFrame s f
      match findTx s1 f.chip f.engine with
      | some t => g s1 t f
      | none => s1

/-- ACK. -/
def execAck (_port : Fin 8) (frame : BitVec 128) (s : State) : Res :=
  framed s 1 frame fun s t f => modTx s t.chip t.engine (ackTo f.seq s.tick)

/-- NAK: every block before the one it names was received good, and the sender resends from that one
(DEDUCED, notes/assumptions/34.md). -/
def execNak (_port : Fin 8) (frame : BitVec 128) (s : State) : Res :=
  framed s 2 frame fun s t f =>
    let s1 := modTx s t.chip t.engine (ackTo (f.seq - 1) s.tick)
    match findTx s1 t.chip t.engine with
    | some t => if (t.unacked.head?.any fun b => b.seq == f.seq) then resendFrom s1 t else s1
    | none => s1

/-- CREDIT: with credits 0 the stream is held off. -/
def execCredit (_port : Fin 8) (frame : BitVec 128) (s : State) : Res :=
  framed s 3 frame fun s t f =>
    if f.credits == 0 then modTx s t.chip t.engine fun t => { t with stopped := true, resend := [] } else s

/-- REFUSE. -/
def execRefuse (_port : Fin 8) (frame : BitVec 128) (s : State) : Res :=
  framed s 4 frame fun s t _ => loseDest s t.chip t.engine .refused

/-! ## Timeouts and releases (R156, R161, R162, R171, 18 R380) -/

/-- ACK_TIMEOUT. -/
def execAckTimeout (chip : BitVec 16) (engine : Bool) (s : State) : Res :=
  match findTx s chip engine with
  | none => finish s s
  | some t =>
    let due := match t.unacked with | b :: _ => ackTicks s ≤ s.since b.sentAt | [] => false
    running s (!t.ended && !t.stopped && t.resend.isEmpty && due) fun s => resendFrom s t

/-- LOST_TIMEOUT. -/
def execLostTimeout (chip : BitVec 16) (engine : Bool) (s : State) : Res :=
  match findTx s chip engine with
  | none => finish s s
  | some t =>
    let due := match t.unacked with
      | b :: _ => lostTicks s ≤ s.since b.born && lostTicks s ≤ s.since t.heardAt
      | [] => false
    running s (!t.ended && due) fun s => loseDest s chip engine .lost

/-- STREAM_END_TIMEOUT: the generation of a stream unheard for lost_timeout is forgotten (18 R381), and a partial message
is rewound where its sender still has a general credit (R162) (DEDUCED, notes/assumptions/35.md). -/
def execStreamEndTimeout (chip : BitVec 16) (engine : Bool) (s : State) : Res :=
  match findRx s chip engine with
  | none => finish s s
  | some r =>
    running s (r.known && lostTicks s ≤ s.since r.lastBlock) fun s =>
      modRx (if r.general == 0 then s else rewind s chip engine) chip engine fun r => { r with known := false }

/-- The stream to an engine has no unacknowledged block and no message begun (R155, R156). -/
def txIdle (t : TxStream) : Bool := t.cur.isNone && t.unacked.isEmpty

/-- The next stream to an engine begins with the next generation. -/
def nextGen (s : State) (t : TxStream) : State :=
  { s with
    txGen := insertKey (engKey t.chip t.engine) (t.gen + 1) s.txGen
    tx := s.tx.filter fun x => !isTx t.chip t.engine x }

/-- The oldest waiting destination gets the send state: its messages are given to a new stream. -/
def startWaiting (s : State) : State :=
  match s.txWait with
  | [] => s
  | (chip, engine, _) :: _ =>
    let mine := s.txWait.filter fun w => w.1 == chip && w.2.1 == engine
    mine.foldl (fun s w => sendMsg s chip engine w.2.2)
      { s with txWait := s.txWait.filter fun w => !(w.1 == chip && w.2.1 == engine) }

/-- The send state of a stream is released: the messages it has not begun wait for a state again (R156)
(DEDUCED, notes/assumptions/34.md). -/
def releaseTx (s : State) (t : TxStream) : State :=
  nextGen { s with txWait := s.txWait ++ t.queue.map fun m => (t.chip, t.engine, m) } t

/-- SEND_STATE_RELEASE. -/
def execSendStateRelease (chip : BitVec 16) (engine : Bool) (s : State) : Res :=
  match findTx s chip engine with
  | none => finish s s
  | some t =>
    running s (txIdle t && !s.txWait.isEmpty && lostTicks s ≤ s.since t.idleSince) fun s => startWaiting (releaseTx s t)

/-- The receiver holds a message of the stream that is not consumed. -/
def holdsMsg (s : State) (r : RxStream) : Bool :=
  let of := fun (k : Packet) => k.spore && k.places != 0 && k.srcChip == r.chip && k.engine == r.engine
  r.partBlocks != 0 || !r.visible.isEmpty || (s.rowHolds.any fun h => h.places != 0 && h.chip == r.chip && h.engine == r.engine)
    || (s.sporeWriters.any fun w => of w.2)
    || s.queues.toList.any fun q => q.packets.any of

/-- The oldest waiting stream is granted 32 credits. -/
def admitWaiter (s : State) : State :=
  match s.rxWait with
  | [] => s
  | w :: rest =>
    let r : RxStream := ⟨w.chip, w.engine, w.gen, w.seq, w.port, [], 0, 0, [], true, 24, 8, none, s.tick⟩
    sendFrame (beginRx { s with rxWait := rest } r) w.port w.chip w.engine w.gen 3 w.seq 32

/-- INBOUND_STREAM_RELEASE. -/
def execInboundStreamRelease (chip : BitVec 16) (engine : Bool) (s : State) : Res :=
  match findRx s chip engine with
  | none => finish s s
  | some r =>
    running s (!s.rxWait.isEmpty && !holdsMsg s r && lostTicks s ≤ s.since r.lastBlock) fun s =>
      admitWaiter { s with
        rx := s.rx.filter fun x => !isRx chip engine x
        rxPast := insertKey (engKey chip engine) (r.gen, r.expect) s.rxPast }

/-- CREDIT_REPEAT. -/
def execCreditRepeat (chip : BitVec 16) (engine : Bool) (s : State) : Res :=
  match s.rxWait.find? fun w => w.chip == chip && w.engine == engine with
  | none => finish s s
  | some w =>
    running s (ackTicks s ≤ s.since w.lastFrame) fun s =>
      sendFrame { s with rxWait := updFirst (· == w) (fun w => { w with lastFrame := s.tick }) s.rxWait } w.port chip
        engine w.gen 3 w.seq 0

/-! ## LINK_STATUS_REPORT (15 R345) -/

/-- The destinations whose streams use a port (DEDUCED, notes/assumptions/37.md). -/
def onPort (s : State) (p : Fin 8) : List (BitVec 16 × Bool) :=
  ((s.tx.filter fun t => !t.ended && t.port == p).map (fun t => (t.chip, t.engine))
    ++ ((s.peers.toList.filter fun e => e.enable && e.port == p && e.state == .active).map fun e => (e.chip, e.engine))).eraseDups

/-- What a report does beside setting link_evt. -/
def linkEffect (s : State) (p : Fin 8) (r : LinkReport) : State :=
  match r with
  | .unreachable chip => loseDest (loseDest s chip false .lost) chip true .lost
  | .portDown => (onPort s p).foldl (fun s d => loseDest s d.1 d.2 .lost) s
  | .reachable _ => s
  | .portUp => s

/-- LINK_STATUS_REPORT. -/
def execLinkStatusReport (port : Fin 8) (report : LinkReport) (s : State) : Res :=
  guarded s (s.on && !s.inReset) fun s =>
    let s1 := { s with portErr := { s.portErr with link := true } }
    if s.up then settle (linkEffect s1 port report) else s1

/-! ## Configuration of the spill set (R150, R151, R161) -/

/-- The configuration is refused: it names this engine, or a link format outside the list. -/
def cfgBad (s : State) (w : Nat) : Bool := w % 2 ^ 17 == selfWord s || !linkOk (fld w 23 20)

/-- Choices spilled to an engine whose results have not returned. -/
def outstandingAt (s : State) (chip : BitVec 16) (engine : Bool) : Nat :=
  min (sumNat ((s.tiles.filter fun t => !t.dead).map fun t =>
    (t.spilled.filter fun x => x.2.1 == chip && x.2.2 == engine && !resultIn s t x.1).length)) (2 ^ 24 - 1)

/-- What follows from the entries: disabled ones and duplicates are OFF, the others become ACTIVE unless they are lost;
the entry used for an engine counts what is outstanding there (DEDUCED, notes/assumptions/25.md). -/
def refreshPeers (s : State) : State :=
  (fins 32).foldl (fun t n =>
    let p := s.peers[n]
    let used := usedPeer s p.chip p.engine == some n
    let st := if !p.enable || !used then PeerState.off else if p.state == .off then .active else p.state
    { t with peers := vmod t.peers n fun p => { p with
      state := st, outstanding := if used then outstandingAt s p.chip p.engine else 0 } }) s

/-- The load last reported by an engine, as the entry used for it holds it. -/
def loadOf (s : State) (chip : BitVec 16) (engine : Bool) : BitVec 16 :=
  ((usedPeer s chip engine).map fun n => s.peers[n].load).getD 0

/-- A write of enable 1 starts a new stream to an engine whose stream has ended (DEDUCED, notes/assumptions/37.md). -/
def restartTx (s : State) (chip : BitVec 16) (engine : Bool) : State :=
  match findTx s chip engine with
  | some t => if t.ended then nextGen s t else s
  | none => s

/-- A write of NDE_SPILL_PEER_CFG_n: an entry that names another engine begins with that engine's load and no resends
(DEDUCED, notes/assumptions/25.md). -/
def peerCfg (s : State) (n : Fin 32) (w : Nat) : State :=
  if cfgBad s w then { s with peers := vmod s.peers n fun p => { p with cfgErr := true } }
  else
    let en := bitAt w 24
    let same := s.peers[n].named && namesEngine s (BitVec.ofNat 16 w) (bitAt w 16) n
    let set := fun (p : Peer) => { p with
      named := true
      load := if same then p.load else loadOf s (BitVec.ofNat 16 w) (bitAt w 16)
      resends := if same then p.resends else 0
      chip := BitVec.ofNat 16 w, engine := bitAt w 16, port := Fin.ofNat 8 (fld w 19 17)
      linkFmt := BitVec.ofNat 4 (fld w 23 20), enable := en
      state := if en && p.state != .off then .active else p.state }
    let s1 := { s with peers := vmod s.peers n set }
    refreshPeers (if en then restartTx s1 (BitVec.ofNat 16 w) (bitAt w 16) else s1)

end Sys2Proof.Machine
end

