-- ==== Sys2Proof/Machine/Contexts.lean ====
section
/-!
DEFINITION. Contexts (12): enable, disable, reset, drain end, the scheduler, pre-emption, mode changes (11 R252 to R255)
and regulator windows.
-/
namespace Sys2Proof.Machine

/-! ## Reset of a context (12 R286, 10 R243) -/

/-- The records still to be written go at once to the slots they have, since W begins again
(DEDUCED, notes/assumptions/28.md). -/
def flushRecs (s : State) (c : CtxId) : State :=
  let x := s.ctx c
  let moved := { s with hostOut := s.hostOut.map fun h =>
    if h.owner == .record c then { h with owner := .lastRecord c } else h }
  let left := if s.hostOut.any fun h => h.owner == .record c then x.recs.drop 1 else x.recs
  let from' := x.recs.length - left.length
  let s1 := (indexed left).foldl (fun s (i, r) =>
    let y := { x with written := x.written + BitVec.ofNat 32 (from' + i) }
    hostIssue s (.lastRecord c) true (recAddr y) 32 (recBytes c y r)) moved
  modCtx s1 c fun x => { x with recs := [], recBusy := false }

/-- The descriptors of a context that wait for a step boundary complete with ABORTED. -/
def abortBoundary (s : State) (c : CtxId) : State :=
  (s.ctx c).dealt.foldl (fun s d => if d.2.boundary then completeErr s c d.1 d.2 stAborted else s) s

/-- The fields of the save record that name a descriptor in progress are cleared in chip memory: tp_valid, and next_tile to
status_acc (R286). -/
def clearSave (s : State) (c : CtxId) : State :=
  let a := (s.ctx c).save.toNat
  let o := MemOwner.saveWrite c (s.ctx c).saves
  writeMem (writeMem s o (a + 0x12) [0] 2 none) o (a + 0x18) (List.replicate 20 0) 2 none

/-- The Sequence Table entries, tensor descriptors, Owner Table entries and ring positions of a context go; it enters
IDLE with enable 0. A descriptor that 12 R283 lets run to its completion and that has not reached it stays dealt
(DEDUCED, notes/assumptions/28.md). -/
def resetCtx (s : State) (c : CtxId) : State :=
  let s1 := clearSave (flushRecs (abortBoundary s c) c) c
  modCtx { s1 with
    seqs := s1.seqs.filter fun e => e.2.ctx != c
    owner := s1.owner.filter fun e => e.2.ctx != c } c fun x => { x with
      state := .idle, enabled := false, enablePending := false, resetPending := false, faultStatus := 0
      tensors := [], fetched := 0, written := 0, tail := 0, head := 0, dbReading := false, fetching := none
      walker := [], dealt := x.dealt.filter fun d => !d.2.boundary, tp := [], saveValid := false, leaving := none }

/-! ## Mode changes (11 R254) -/

/-- 11 R253: every slice takes the mode of a context in one beat. -/
def loadMode (s : State) (c : CtxId) : State :=
  let x := s.ctx c
  { s with slices := vmap (fun l => { l with det := x.det, pace := x.pace, ctx := BitVec.ofNat 4 c.val }) s.slices }

/-- A critical command completes (16 R357): a record on the ring, NDE_SEC_RESULT on the set-up port. -/
def completeCrit (s : State) (p : CritPath) (st v0 v1 v2 : Nat) : State :=
  match p with
  | .setup => { s with sec := { s.sec with presented := none, status := BitVec.ofNat 8 st, done := true } }
  | .ring c =>
    match (s.ctx c).dealt.find? fun d => d.1 == .security with
    | some d =>
      complete (modCtx s c fun x => { x with hold := if x.hold == some .crit then none else x.hold }) c .security d.2 st
        v0 v1 v2
    | none => s

/-- The pending mode is in force and its commands complete. -/
def applyMode (s : State) (c : CtxId) : State :=
  match (s.ctx c).pendMode with
  | none => s
  | some m =>
    let ws := (s.ctx c).modeWaiters
    let s1 := modCtx s c fun x => { x with det := m.1, pace := m.2, pendMode := none, modeWaiters := [] }
    let s2 := if s1.running == some c then loadMode s1 c else s1
    ws.foldl (fun s w => completeCrit s w.1 stOk w.2.1.toNat 0 w.2.2.toNat) s2

/-- MODE_CHANGE_APPLY. -/
def execModeChangeApply (c : CtxId) (s : State) : Res :=
  running s ((s.ctx c).pendMode.isSome && (tilesOf s c).isEmpty) fun s => applyMode s c

/-! ## Leaving the table (12 R275, 16 R361) -/

/-- A context enters FREE: its regulators read 0 there and what it gathered is dropped; the rest of its page stays
readable (19 R387). A mode change still pending is applied first, so that its commands complete. -/
def freeCtx (s : State) (c : CtxId) : State :=
  modCtx (applyMode s c) c fun x => { x with
    state := .free, destroyPending := false, regMem := regulReset, regSpore := regulReset, regFeed := regulReset
    stats := [], reductions := [], updates := [], groupLost := false }

/-! ## NDE_CTX_CTL (12 R283, R284, R286, R290, 13 R291, 19 R396) -/

/-- 13 R291: the ring registers allow an enable. -/
def ringOk (x : Ctx) : Bool :=
  3 ≤ x.sqLog2.toNat && x.sqLog2.toNat ≤ 16 && 3 ≤ x.cqLog2.toNat && x.cqLog2.toNat ≤ 16
  && x.sqBase != 0 && x.cqBase != 0 && x.db != 0

/-- 19 R396: the group's rank lies in the group. -/
def grpOk (x : Ctx) : Bool := x.grpRank.toNat ≤ x.grpMembers.toNat

/-- The context becomes enabled; its first poll follows at once, and the interval begins again at 250 ticks (DESIGN CHOICE,
notes/assumptions/30.md). -/
def enableNow (x : Ctx) : Ctx := { x with enabled := true, enablePending := false, pollNow := 1, lastPoll := none }

/-- enable written 1. -/
def enableCtx (s : State) (c : CtxId) : State :=
  let x := s.ctx c
  if x.state == .faulted then s
  else if x.state == .free then modCtx s c fun x => { x with grpErr := x.grpErr || !grpOk x }
  else if x.drainBusy then modCtx s c fun x => { x with enablePending := true }
  else if x.enabled then s
  else if ringOk x && grpOk x then modCtx s c enableNow
  else modCtx s c fun x => { x with cfgErr := x.cfgErr || !ringOk x, grpErr := x.grpErr || !grpOk x }

/-- enable written 0. -/
def disableCtx (s : State) (c : CtxId) : State :=
  let x := s.ctx c
  if x.state == .free || x.state == .faulted then s
  else if x.drainBusy then modCtx s c fun x => { x with enablePending := false }
  else if x.enabled then drainCtx s c
  else s

/-- reset written 1. -/
def requestReset (s : State) (c : CtxId) : State :=
  let x := s.ctx c
  if x.drainBusy then modCtx s c fun x => { x with resetPending := true }
  else if x.state == .faulted || (x.state == .idle && !x.enabled) then resetCtx s c
  else s

/-- clear_acct written 1. -/
def clearAcct (s : State) (c : CtxId) : State :=
  modCtx s c fun x => { x with acct := Vector.replicate 8 0, acctWrap := 0 }

/-- A write of NDE_CTX_CTL (DEDUCED, notes/assumptions/20.md). -/
def writeCtl (s : State) (c : CtxId) (w : Nat) : State :=
  let s1 := if bitAt w 2 then clearAcct s c else s
  let s2 := if bitAt w 0 then enableCtx s1 c else disableCtx s1 c
  if bitAt w 1 then requestReset s2 c else s2

/-! ## The end of a drain (12 R283, R284, R286) -/

/-- Some packet of the context's own tiles is in a core work queue. -/
def hasPackets (s : State) (c : CtxId) : Bool :=
  s.queues.toList.any fun q => q.packets.any fun p => !p.spore && p.ctx.toNat == c.val

/-- The host bridge has failed the record written last, which is written again at a poll (13 R317). -/
def recFailed (s : State) (c : CtxId) : Bool :=
  (s.ctx c).recBusy && !s.hostOut.any fun h => h.owner == .record c

/-- The records that a drain waits for are written: those of the descriptors that it completed. A record that the host
bridge has failed is waited for no longer, since a disabled context polls no doorbell: software corrects the address and
enables the context again (13 R317) (DEDUCED, notes/assumptions/28.md). -/
def recsWritten (s : State) (c : CtxId) : Bool :=
  let x := s.ctx c
  !(x.dealt.any fun d => x.drainRecs.contains d.2.c)
    && (recFailed s c || !x.recs.any fun r => x.drainRecs.contains r.c)

/-- The drain of a context, DRAINING or FAULTED, has nothing left to wait for. -/
def drained (s : State) (c : CtxId) : Bool :=
  (s.ctx c).drainBusy && ((s.ctx c).state == .draining || (s.ctx c).state == .faulted) && !hasPackets s c
    && recsWritten s c && !sending s (· == .abandon c true)

/-- The drain ends and applies a pending reset, else a pending enable (DEDUCED, notes/assumptions/28.md). -/
def endDrain (s : State) (c : CtxId) : State :=
  let x := s.ctx c
  let s1 := modCtx s c fun x => { x with
    drainBusy := false, drainRecs := [], state := if x.state == .draining then .idle else x.state }
  if x.resetPending then
    let s2 := resetCtx s1 c
    if x.destroyPending then freeCtx s2 c else s2
  else if x.state == .draining && x.enablePending then modCtx s1 c enableNow
  else s1

/-- DRAIN_END. -/
def execDrainEnd (c : CtxId) (s : State) : Res := working s (drained s c) fun s => endDrain s c

/-! ## The scheduler (12 R277 to R279, R282) -/

/-- The context the pick takes. -/
def pickCtx (s : State) : Option CtxId :=
  let q := (fins 16).filter fun c => (s.ctx c).state == .queued
  match cyclicAfter s.sched.lastLc (q.filter fun c => (s.ctx c).lc) with
  | some c => some c
  | none => cyclicAfter s.sched.lastBe (q.filter fun c => !(s.ctx c).lc)

/-- A context enters RUNNING: its mode is loaded and its save record is read before it stages a tile. -/
def runCtx (s : State) (c : CtxId) : State :=
  let sc := { s.sched with runSince := s.tick, scored := false }
  let s1 := { s with sched := if (s.ctx c).lc then { sc with lastLc := some c } else { sc with lastBe := some c } }
  let s2 := modCtx s1 c fun x => { x with state := .running, resumed := false }
  request (loadMode s2 c) (readReqs (.saveRead c) (s.ctx c).save.toNat 256 7 none)

/-- SCHED_PICK. -/
def execSchedPick (s : State) : Res :=
  running s s.running.isNone fun s => match pickCtx s with | some c => runCtx s c | none => s

/-- 12 R282: the record has been read; a descriptor in progress resumes where it says. -/
def resume (s : State) (c : CtxId) : State :=
  let x := s.ctx c
  let r := leNat (memRead (gotChip s (.saveRead c)) x.save.toNat 256)
  modCtx s c fun x => { x with
    resumed := true
    tp := if x.saveValid && rb r 0x10 16 then
        updFirst (fun j => j.checked) (fun j =>
          if j.c.toNat % 2 ^ x.sqLog2.toNat == rf r 0x14 15 0 then
            { j with nextTile := rf r 0x18 31 0, nextPos := rf r 0x1C 31 0, compact := rf r 0x20 31 0
                     committed := rf r 0x18 31 0, committedPos := rf r 0x1C 31 0, written := rf r 0x20 31 0
                     courses := rf r 0x24 31 0 }
          else j) x.tp
      else x.tp }

/-- The quantum's pre-emption, where it is due. -/
def quantumPreempt (s : State) : State :=
  match s.running with
  | some c => if overQuantum s c then preempt s c else s
  | none => s

/-- SCHED_QUANTUM_EXPIRE. -/
def execSchedQuantumExpire (s : State) : Res := running s true quantumPreempt

/-- 12 R279: preempt_limit has passed and a kept tile has not committed. -/
def limitPassed (s : State) (c : CtxId) : Bool :=
  (s.ctx c).state == .preempting && 1000 * s.sched.limitInForce.toNat ≤ s.since s.sched.preemptSince
  && !(tilesOf s c).isEmpty

/-- PREEMPT_LIMIT_EXPIRE. -/
def execPreemptLimitExpire (s : State) : Res :=
  match s.running with
  | some c => running s (limitPassed s c) fun s => abandonAll s c true
  | none => finish s s

/-- 12 R275: the response of the save record written in PREEMPTING, number `n`, takes the context out of that state. -/
def leavePreempting (s : State) (c : CtxId) (n : BitVec 32) : State :=
  if (s.ctx c).state == .preempting && (s.ctx c).leaving == some n then
    modCtx s c fun x => { x with state := if x.enabled && mayBegin x then .queued else .idle, leaving := none }
  else s

/-! ## Regulator windows (12 R287, R288) -/

/-- The regulator of a kind. -/
def regOf (x : Ctx) : RegKind → Regul
  | .memory => x.regMem
  | .spore => x.regSpore
  | .feed => x.regFeed

/-- The regulator of a kind, replaced. -/
def setReg (x : Ctx) (k : RegKind) (r : Regul) : Ctx :=
  match k with
  | .memory => { x with regMem := r }
  | .spore => { x with regSpore := r }
  | .feed => { x with regFeed := r }

/-- REGULATOR_WINDOW: the next window has begun, with its used count at zero. -/
def execRegulatorWindow (c : CtxId) (which : RegKind) (s : State) : Res :=
  let r := regOf (s.ctx c) which
  working s (regNow r s.now != r) fun s => modCtx s c fun x => setReg x which (regNow r s.now)

end Sys2Proof.Machine
end

