-- ==== Sys2Proof/Machine/Dma.lean ====
section
/-!
DEFINITION. The DMA commands (14): the three descriptors with their checks of fetch (R319), the issue of a burst (R324),
and enable, disable and abort of a channel (R327, R331, R333).
-/
namespace Sys2Proof.Machine

/-! ## Descriptors (13 R307) -/

/-- chan -/
def dmCh (j : Job) : ChanId := Fin.ofNat 16 (rf j.n 8 3 0)
/-- op -/
def dmOp (j : Job) : Nat := rf j.n 8 5 4

/-- The register set of a descriptor. -/
def dmaSetOf (c : CtxId) (j : Job) : DmaSet where
  ctx := BitVec.ofNat 4 c.val
  c := j.c
  tag := BitVec.ofNat 16 (rf j.n 0 31 16)
  op := BitVec.ofNat 2 (dmOp j)
  srcFixed := rb j.n 8 6
  dstFixed := rb j.n 8 7
  srcHost := rb j.n 8 8
  dstHost := rb j.n 8 9
  src := BitVec.ofNat 64 (rf j.n 0x10 63 0)
  dst := BitVec.ofNat 64 (rf j.n 0x18 63 0)
  len := BitVec.ofNat 48 (rf j.n 0x20 47 0)
  fill := BitVec.ofNat 64 (rf j.n 0x28 63 0)

/-- Check 1 of R319, the reserved fields apart (13 R299). -/
def dmaBad (d : DmaSet) : Bool :=
  d.op == 3
  || (d.op == 1 && (d.src != 0 || d.srcFixed || d.srcHost))
  || (d.op != 1 && d.fill != 0)
  || (!d.srcHost && 2 ^ 48 ≤ d.src.toNat) || (!d.dstHost && 2 ^ 48 ≤ d.dst.toNat)

/-- Check 2 of R319. -/
def dmaMisaligned (d : DmaSet) : Bool :=
  d.src.toNat % 64 != 0 || d.dst.toNat % 64 != 0 || d.len.toNat % 64 != 0 || d.len == 0

/-- The range of a side: a fixed one covers the 64 bytes at its address. -/
def sideRng (fixed : Bool) (a : BitVec 64) (len : BitVec 48) : Rng := (a.toNat, if fixed then 64 else len.toNat)

/-- The range of a side lies in memory as R319 check 3 asks. -/
def sideOk (x : Ctx) (host fixed : Bool) (a : BitVec 64) (len : BitVec 48) : Bool :=
  let r := sideRng fixed a len
  if host then fixed || r.1 + r.2 ≤ 2 ^ 64 else inWindows x r.1 r.2

/-- Check 3 of R319. -/
def dmaRange (x : Ctx) (d : DmaSet) : Bool :=
  (d.op != 1 && !sideOk x d.srcHost d.srcFixed d.src d.len)
  || !sideOk x d.dstHost d.dstFixed d.dst d.len
  || (d.op == 0 && d.srcHost == d.dstHost
      && meets (sideRng d.srcFixed d.src d.len) (sideRng d.dstFixed d.dst d.len))

/-- The first check of R319 that fails. -/
def dmaCheck (x : Ctx) (d : DmaSet) : Option Nat :=
  if dmaBad d then some stBad
  else if dmaMisaligned d then some stMisalign
  else if dmaRange x d then some stRange
  else none

/-- A good descriptor enters the shadow set of its channel, and the active set when that is empty; an OFF channel ends
it (R318, R332). -/
def dealDma (c : CtxId) (s : State) (j : Job) : State :=
  let d := dmaSetOf c j
  let ch := dmCh j
  if (s.chan ch).state == .off then complete s c (.dma ch) j stAborted d.len.toNat 0 0
  else modDma s ch fun k => moveShadow { k with shadow := d, shadowValid := true }

/-- A DMA descriptor at the front of the ring walker whose op meets `p`: rejected at fetch or dealt. -/
def dmaDescriptor (p : Nat → Bool) (c : CtxId) (s : State) : Res :=
  dealChecked s c 0x20 (fun j => p (dmOp j)) (fun j => dmaCheck (s.ctx c) (dmaSetOf c j)) (fun s _ => s) (dealDma c)

/-- DMA_COPY (and the reserved op 3, which completes with BAD_OPCODE). -/
def execDmaCopy (c : CtxId) (s : State) : Res := dmaDescriptor (fun op => op == 0 || op == 3) c s

/-- DMA_FILL. -/
def execDmaFill (c : CtxId) (s : State) : Res := dmaDescriptor (· == 1) c s

/-- DMA_COMPARE. -/
def execDmaCompare (c : CtxId) (s : State) : Res := dmaDescriptor (· == 2) c s

/-! ## DMA_BURST_ISSUE (14 R321, R324) -/

/-- A burst of the active descriptor is left to issue and may be in flight. -/
def burstLeft (k : DmaChan) : Bool :=
  k.activeValid && k.state == .busy && !k.aborting && k.badBurst.isNone && k.moreBursts && k.bursts.length < 4

/-- R324: the limiter holds the next burst in this tick; the port moves 160 slots a tick (15 R337)
(DEDUCED, notes/assumptions/41.md). -/
def limiterHeld (s : State) (k : DmaChan) : Bool :=
  burstLeft k && burstSlots k.active k.nextBurst != 0 && 160 * (s.now + 1) ≤ k.nextSlot

/-- The slot from which the burst after one of `m` slots, first requested at slot `g`, may issue. -/
def slotAfter (share : BitVec 8) (g m : Nat) : Nat := g + ceilDiv (256 * m) (share.toNat + 1)

/-- The next burst issues its reads. -/
def issueBurst (s : State) (ch : ChanId) : State :=
  let k := s.chan ch
  let m := burstSlots k.active k.nextBurst
  let g := max (160 * s.now) k.nextSlot
  readBurst (modDma s ch fun k => { k with
    bursts := k.bursts ++ [⟨k.nextBurst, [], [], false, false⟩]
    nextBurst := k.nextBurst + 1
    nextSlot := if m == 0 then k.nextSlot else slotAfter k.shareM1 g m }) ch k.active k.nextBurst

/-- Where the first request of burst `b` goes in chip memory; none where it goes to the host. -/
def firstOnChip (d : DmaSet) (b : Nat) : Option Nat :=
  let a := fun (fixed : Bool) (x : BitVec 64) => x.toNat + if fixed then 0 else 4096 * b
  if d.op == 1 then (if d.dstHost then none else some (a d.dstFixed d.dst))
  else if d.srcHost then none else some (a d.srcFixed d.src)

/-- The first request of the next burst would be the channel's next: none of its requests waits, and a FILL's bursts
before have begun their writes (R321). -/
def channelFree (s : State) (ch : ChanId) : Bool :=
  !(s.memWait.any fun r => r.owner.dmaChan == some ch)
  && ((s.chan ch).active.op != 1 || (s.chan ch).bursts.all fun x => x.writing || x.failed)

/-- DMA_BURST_ISSUE: the next burst begins with its first request. Where that goes to chip memory, the context's
regulator (R323) or a full channel of the port (15 R338) may hold it, and the burst has not begun. -/
def execDmaBurstIssue (ch : ChanId) (s : State) : Res :=
  let k := s.chan ch
  working s (burstLeft k && !limiterHeld s k && channelFree s ch) fun s =>
    match firstOnChip k.active k.nextBurst with
    | none => issueBurst s ch
    | some a =>
      let c : CtxId := Fin.ofNat 16 k.active.ctx.toNat
      if !memOpen s c then modCtx s c fun x => { x with regMem := { regNow x.regMem s.now with held := true } }
      else if chanRoom s a then issueBurst s ch else s

/-! ## NDE_DMA_CTL -/

/-- enable written 1 (R333). -/
def chanEnable (k : DmaChan) : DmaChan :=
  match k.state with
  | .off => { k with enable := true, state := .idle }
  | .draining => { k with enable := true, enablePending := true }
  | _ => { k with enable := true }

/-- enable written 0 (R331, R333): in BUSY the shadow descriptor ends and the active one is aborted. -/
def chanDisable (s : State) (ch : ChanId) : State :=
  let k := s.chan ch
  let s1 := modDma s ch fun k => { k with enable := false }
  match k.state with
  | .idle => modDma s1 ch fun k => { k with state := .off }
  | .busy =>
    let s2 := modDma s1 ch fun k => { k with state := .draining, shadowValid := false }
    let s3 := if k.shadowValid then dmaEnd s2 ch k.shadow stAborted k.shadow.len.toNat 0 else s2
    dmaAbort s3 ch
  | .draining => modDma s1 ch fun k => { k with enablePending := false }
  | .off => s1

/-- A write of NDE_DMA_CTL: share_m1, enable, and abort of an active descriptor. -/
def writeDmaCtl (s : State) (ch : ChanId) (w : Nat) : State :=
  let s1 := modDma s ch fun k => { k with shareM1 := BitVec.ofNat 8 (fld w 15 8) }
  let s2 := if bitAt w 1 then dmaAbort s1 ch else s1
  if bitAt w 0 then modDma s2 ch chanEnable else chanDisable s2 ch

end Sys2Proof.Machine
end

