-- ==== Sys2Proof/Machine/Movers.lean ====
section
/-!
DEFINITION. The mover descriptors with their checks of fetch (09 R205, R210, R213 to R220, R223, R224, 04 R85, R87, 11
R258, R270), READ_DATA and its retries (07 R175, R176).
-/
namespace Sys2Proof.Machine

/-! ## Checks (09 R223 and the rules of each mover) -/

/-- Sizes of a tensor in all six dimensions. -/
def tdSizes (t : TDesc) : List Nat := tabulate 6 (tdSize t)

/-- An address that a mover names is not 64-byte aligned (04 R87, 09 R215). -/
def listMisaligned (r : BitVec 512) : Bool :=
  match mvOp r with
  | 0x10 => xfNamed r && (xfBiasAddr r % 64 != 0 || xfScaleAddr r % 64 != 0)
  | 0x11 => gsAddr r % 64 != 0
  | 0x12 => gsAddr r % 64 != 0
  | _ => false

/-- 04 R85, R87. -/
def xformErrors (r : BitVec 512) (src dst : TDesc) : List (Bool × Nat) :=
  [(fnReserved (xfFn r) || xfScaleSel r == 3, stBad),
   ((xfBiasSel r || xfScaleSel r == 2) && 16384 < tdSize src 0, stBad),
   (xfNamed r && (src.ndim != dst.ndim || src.sizes != dst.sizes), stBad),
   (tdSize src 0 * tdRows src != tdSize dst 0 * tdRows dst, stRange)]

/-- 09 R215 to R217: `t` is the tensor indexed, `n` the most indices (DEDUCED, notes/assumptions/22.md). -/
def indexErrors (r : BitVec 512) (t : TDesc) (n : Nat) : List (Bool × Nat) :=
  [(gsDim r == 0 || t.ndim ≤ gsDim r, stBad), (gsCount r == 0 || n < gsCount r, stRange)]

/-- The other tensor has `t`'s sizes but for idx_count along g. -/
def indexShape (r : BitVec 512) (t other : TDesc) : Bool := tdSizes other == (tdSizes t).set (gsDim r) (gsCount r)

/-- 09 R220 (DEDUCED, notes/assumptions/22.md). -/
def transposeErrors (r : BitVec 512) (src dst : TDesc) : List (Bool × Nat) :=
  let a := tpA r
  let b := tpB r
  [(b ≤ a || 6 ≤ b, stBad),
   (tdSizes dst != ((tdSizes src).set a (tdSize src b)).set b (tdSize src a), stRange)]

/-- 09 R224: the output extent of a dimension, or none below 1. -/
def outExtent (d : Spatial) (n : Nat) : Option Nat :=
  let have' := (n - 1) * d.up + 1 + d.lo + d.hi
  let need := d.dil * (d.kern - 1) + 1
  if have' < need then none else some ((have' - need) / d.stride + 1)

/-- 09 R210, R224. -/
def expandErrors (r : BitVec 512) (src dst : TDesc) : List (Bool × Nat) :=
  let ds := tabulate 3 (exDim r)
  let outs := tabulate 3 fun i => (outExtent (exDim r i) (tdSize src (i + 1))).getD 0
  let taps := ds.foldl (fun n d => n * d.kern) 1
  [(ds.any fun d => d.dil == 0 || (1 < d.up && d.mode != 0), stBad),
   (mvChan r < 14 && ds.any fun d => d.mode != 0, stBad),
   (outs.any (· == 0) || tdSize src 5 != 1
     || tdSizes dst != [tdSize src 0, taps] ++ outs ++ [tdSize src 4], stRange)]

/-- The checks of one opcode. -/
def moverShape (r : BitVec 512) (src dst : TDesc) : List (Bool × Nat) :=
  match mvOp r with
  | 0x10 => xformErrors r src dst
  | 0x11 => indexErrors r src 16777216 ++ [(!indexShape r src dst, stRange)]
  | 0x12 => indexErrors r dst 65536 ++ [(!indexShape r dst src, stRange)]
  | 0x13 => transposeErrors r src dst
  | _ => expandErrors r src dst

/-- 11 R270. -/
def randomErrors (s : State) (c : CtxId) (r : BitVec 512) (dst : TDesc) : List (Bool × Nat) :=
  let entry := (lookup (mvSeq r) s.seqs).any fun q => q.ctx == c && (q.state == .active || q.state == .leaving)
  [(1 < mvRound r || (mvRound r == 0 && mvSeq r != 0), stBad),
   (mvRound r == 1 && (!entry || 2 ^ 32 < tdRows dst), stRange)]

/-- 09 R223: source, destination and index list overlap, the exact alias of an XFORM_COPY apart. -/
def moverOverlap (s : State) (r : BitVec 512) (src dst : TDesc) : Bool :=
  let a := tensorRngs s src
  let b := tensorRngs s dst
  let list := if mvOp r == 0x11 || mvOp r == 0x12 then [(gsAddr r, 4 * gsCount r)] else []
  (anyMeet a b && !(mvOp r == 0x10 && exactAlias src dst)) || anyMeet (a ++ b) list

/-- The first status of a mover descriptor's checks at fetch, lowest code first (13 R315)
(DEDUCED, notes/assumptions/22.md). -/
def moverCheck (s : State) (c : CtxId) (j : Job) : Option Nat :=
  let x := s.ctx c
  let r := j.raw
  match tensorAt x (mvSrc r) j.c, tensorAt x (mvDst r) j.c with
  | some src, some dst =>
    worst ([(listMisaligned r, stMisalign), (dst.selfOverlap, stRange), (!allOwn s dst, stRange), (x.det && unsynchronised r src, stBad),
      (moverOverlap s r src dst, stRange)] ++ randomErrors s c r dst ++ moverShape r src dst)
  | _, _ => worst [(listMisaligned r, stMisalign), (true, stRange)]

/-! ## Descriptors -/

/-- A good descriptor joins its channel. -/
def dealMover (c : CtxId) (s : State) (j : Job) : State :=
  let ch : ChanId := Fin.ofNat 16 (mvChan j.raw)
  { s with gather := vmod s.gather ch fun g => { g with queue := g.queue ++ [(c, j.c, j.raw)] } }

/-- A mover descriptor of an opcode: an unsynchronised block read counts, whatever its checks find (11 R258). -/
def moverDescriptor (op : Nat) (c : CtxId) (s : State) : Res :=
  dealChecked s c op (fun _ => true) (moverCheck s c) (countFree c) (dealMover c)

/-- XFORM_COPY. -/
def execXformCopy (c : CtxId) (s : State) : Res := moverDescriptor 0x10 c s

/-- GATHER. -/
def execGather (c : CtxId) (s : State) : Res := moverDescriptor 0x11 c s

/-- SCATTER_ACC. -/
def execScatterAcc (c : CtxId) (s : State) : Res := moverDescriptor 0x12 c s

/-- TRANSPOSE. -/
def execTranspose (c : CtxId) (s : State) : Res := moverDescriptor 0x13 c s

/-- EXPAND. -/
def execExpand (c : CtxId) (s : State) : Res := moverDescriptor 0x14 c s

/-! ## READ_DATA (07 R175, R176) -/

/-- status -/
def rdStatus (bs : List Byte) : Nat := rf (leAt bs 0 64) 4 1 0
/-- tag -/
def rdTag (bs : List Byte) : Nat := rf (leAt bs 0 64) 4 31 16
/-- block_epoch -/
def rdEpoch (bs : List Byte) : Nat := rf (leAt bs 0 64) 0xC 15 0

/-- The answer to an EPOCH_WAIT. -/
def answerWait (s : State) (c : CtxId) (j : Job) (tag : BitVec 16) (bs : List Byte) : State :=
  match rdStatus bs with
  | 0 => endWait s c j stOk (rdEpoch bs)
  | 1 => modCtx s c fun x => { x with hold := some (.epochOwner tag (some s.tick)) }
  | 2 => endWait s c j stRange 0
  | _ => endWait s c j stBus 0

/-- A READ_DATA answers the EPOCH_WAIT whose request carried its tag, and one that still waits for that answer. -/
def waitAnswer (s : State) (c : CtxId) (chip : BitVec 16) (engine : Bool) (bs : List Byte) : State :=
  match waitsFor s chip engine c, (s.ctx c).hold with
  | some j, some (.epochOwner tag none) => if tag.toNat == rdTag bs then answerWait s c j tag bs else s
  | _, _ => s

/-- The answer to a request of a channel: one source row, as it travelled. -/
def chanAnswer (s : State) (ch : ChanId) (m : MoverRun) (q : RReq) (bs : List Byte) : State :=
  let gone := fun (s : State) => modRun s ch fun m => { m with reqs := m.reqs.filter fun x => x.tag != q.tag }
  match rdStatus bs with
  | 0 =>
    match heldTensor (s.ctx m.ctx) (mvSrc m.raw) with
    | none => gone s
    | some src =>
      let link := owLink (ownerRaw s q.entry)
      let fmt := if link == 0 then src.fmt else link
      let row := padTo (bs.drop 64) (rowBytes (tdSize src 0) fmt)
      teleCtx (holdRow (gone s) ch m src q.row fmt row) m.ctx 25 1
  | 1 => modRun s ch fun m => { m with
      reqs := m.reqs.map fun x => if x.tag == q.tag then { x with retryAt := some s.tick } else x }
  | 2 => failRun (gone s) ch stRange
  | _ => failRun (gone s) ch stBus

/-- A READ_DATA goes to whom its tag names; one that answers nothing outstanding is discarded. -/
def acceptData (chip : BitVec 16) (engine : Bool) (s : State) (m : RxMsg) : State :=
  let s1 := freePlaces s chip engine m.places
  let tag := rdTag m.bytes
  if 0x8000 ≤ tag then waitAnswer s1 (Fin.ofNat 16 tag) chip engine m.bytes
  else
    let ch : ChanId := Fin.ofNat 16 (tag / 256)
    match s1.mover ch with
    | none => s1
    | some r =>
      match r.reqs.find? fun q => q.tag.toNat == tag && q.chip == chip && q.engine == engine && q.retryAt.isNone with
      | some q => if r.failed.isSome then s1 else chanAnswer s1 ch r q m.bytes
      | none => s1

/-- READ_DATA. -/
def execReadData (chip : BitVec 16) (engine : Bool) (s : State) : Res :=
  handling s chip engine 7 (acceptData chip engine)

/-! ## READ_RETRY_TIMER (07 R175) -/

/-- 1 µs has passed since the RETRY. -/
def retryDue (s : State) (q : RReq) : Bool :=
  match q.retryAt with | some t => 1000 ≤ s.since t | none => false

/-- The requests of a channel that are due are sent again. -/
def resendReqs (s : State) (ch : ChanId) (m : MoverRun) (src : TDesc) : State :=
  let due := m.reqs.filter (retryDue s)
  due.foldl (fun s q => sendReq s ch m src q) (modRun s ch fun m => { m with
    reqs := m.reqs.map fun q => if due.contains q then { q with retryAt := none } else q })

/-- READ_RETRY_TIMER. -/
def execReadRetryTimer (who : Retrier) (s : State) : Res :=
  match who with
  | .chan ch =>
    match s.mover ch with
    | none => finish s s
    | some m =>
      match heldTensor (s.ctx m.ctx) (mvSrc m.raw) with
      | none => finish s s
      | some src => running s (m.reqs.any (retryDue s) && m.failed.isNone) fun s => resendReqs s ch m src
  | .wait c =>
    match (s.ctx c).hold, holder (s.ctx c) 0x51 with
    | some (.epochOwner tag (some t)), some j =>
      running s (1000 ≤ s.since t) fun s =>
        askEpoch (modCtx s c fun x => { x with hold := some (.epochOwner tag none) }) c j tag
    | _, _ => finish s s

end Sys2Proof.Machine
end

