-- ==== Sys2Proof/Machine/Security.lean ====
section
/-!
DEFINITION. Authenticated commands and alarms (16), the firmware load (17 R373 to R376), entry to SAFE (17 R371) and the
start of the quiesce (17 R370).
-/
namespace Sys2Proof.Machine

/-! ## Entry to SAFE and to LOCKED (01 R26, R27, 17 R371, 16 R363) -/

/-- Where step n's failures stand in fail_steps. -/
def failBits (st : SelfTest) : Nat := st.failSteps.toNat <<< 1

/-- The 256 bytes of the diagnosis record (17 R371). -/
def diagBytes (s : State) : List Byte :=
  let st := s.st
  let head := [(0, 0, 1), (0, 8, st.safeCause.toNat), (0, 16, b2n s.fuse.engineId), (4, 0, s.fuse.chipId.toNat),
    (8, 0, s.tick.toNat), (0x10, 0, Config.arithRev.toNat), (0x14, 0, if s.fw.valid then s.fw.version.toNat else 0),
    (0x18, 0, failBits st), (0x1C, 0, s.fuse.sliceFused.toNat), (0x1C, 8, s.fuse.disabledMap.toNat),
    (0x1C, 16, st.suspect.toNat), (0x70, 0, s.sensor.latest.vddNde.toNat), (0x70, 16, s.sensor.latest.vddNsram.toNat),
    (0x74, 0, s.fw.check)]
  let details := (indexed st.details.toList).map fun (i, d) => (0x20 + 4 * i, 0, d.toNat)
  let rates := (indexed st.rates.toList).map fun (i, r) => (0x50 + 4 * i, 0, r.toNat)
  let temps := (indexed s.sensor.latest.temps.toList).map fun (i, t) => (0x50 + 4 * i, 16, t.toNat)
  let srams := (indexed st.sram.toList).map fun (i, w) => (0x80 + 4 * i, 0, w.toNat)
  leBytes 256 (pack (head ++ details ++ rates ++ temps ++ srams))

/-- The diagnosis record is written, when it has an address: one attempt of four 64-byte writes. -/
def writeDiag (s : State) : State :=
  if s.st.diag == 0 then s
  else
    let bs := diagBytes s
    let k := s.st.diagNo + 1
    let s1 := { s with st := { s.st with diagNo := k, diagPending := s.st.diagPending ++ [(k, 4)] } }
    (tabulate 4 id).foldl (fun s i =>
      hostIssue s (.diag k) true (s.st.diag.toNat + 64 * i) 64 (slice bs (64 * i) 64)) s1

/-- Nothing of the engine's holds block places of a stream any more. -/
def dropPlaces (s : State) : State :=
  mapQueues { s with rowHolds := s.rowHolds.map fun h => { h with places := 0 } } fun q =>
    { q with packets := q.packets.map fun k => if k.spore then { k with lost := true, places := 0 } else k }

/-- The reads of remote blocks that movers wait for end with PEER_LOST. -/
def dropRemote (s : State) : State :=
  { s with gather := vmap (fun g => { g with
    run := g.run.map fun r => if r.reqs.isEmpty then r else { r with failed := lowerSt r.failed stPeerLost } }) s.gather }

/-- A context whose group is lost to it. It keeps its state (01 R27); its next TILE_ROUTE ends with PEER_LOST (05 R123). -/
def dropGroup (s : State) (c : CtxId) : State :=
  modCtx s c fun x => { x with reductions := [], groupLost := x.groupLost || !x.reductions.isEmpty }

/-- An EPOCH_WAIT on a remote block ends with PEER_LOST. -/
def dropWait (s : State) (c : CtxId) : State :=
  match (s.ctx c).hold, holder (s.ctx c) 0x51 with
  | some (.epochOwner _ _), some j => if owOwn (ownerRaw s (ewEntry j)) then s else endWait s c j stPeerLost 0
  | _, _ => s

/-- Every Basol stream ends (07 R165): a stream that begins later has the next generation, what waited on a remote
engine ends with PEER_LOST (07 R175, 05 R123), and the spores served are dropped as for a lost home (07 R173)
(DEDUCED, notes/assumptions/16.md). -/
def dropStreams (s : State) : State :=
  let s1 := (killReads s fun o => match o with | .serve _ => true | _ => false)
  let s2 := s1.tx.foldl nextGen { s1 with txWait := [], rx := [], rxPast := [], rxWait := [], readPend := [], serving := [] }
  let s3 := dropRemote (dropPlaces (dropSpores s2 fun k => k.state != .feeding))
  (fins 16).foldl (fun s c => dropGroup (dropWait s c) c) s3

/-- Descriptors that the ring walker holds are answered with SAFE_STATE (13 R300) (DEDUCED, notes/assumptions/16.md). -/
def answerSafe (s : State) (c : CtxId) : State :=
  (s.ctx c).walker.foldl (fun s j => completeErr (countFree c s j) c (unitOf j) j (endingSt stSafe j))
    (modCtx s c fun x => { x with walker := [] })

/-- The security unit is done with an envelope and with its body. -/
def freeUnit (s : State) : State := { dropRead s .crit with sec := { s.sec with reading := none } }

/-- The envelope being handled completes. -/
def endCrit (s : State) (p : CritPath) (st v0 v1 v2 : Nat) : State := completeCrit (freeUnit s) p st v0 v1 v2

/-- The CRIT descriptors whose handling has not begun are answered with SAFE_STATE too (16 R357). -/
def critSafe (s : State) : State :=
  s.sec.order.foldl (fun s p => match p with
    | .setup => s
    | .ring _ => completeCrit s p stSafe 0 0 0) { s with sec := { s.sec with order := s.sec.order.filter (· == .setup) } }

/-- The context is RUNNING, PREEMPTING or DRAINING. -/
def atWork (x : Ctx) : Bool := x.state == .running || x.state == .preempting || x.state == .draining

/-- The engine enters SAFE, or enters it again. No tile is in flight any more, and the mode changes that waited for theirs
take effect (11 R254) (DEDUCED, notes/assumptions/16.md). -/
def enterSafe (s : State) (cause : Nat) : State :=
  let s1 := { s with eng := .safe, st := { s.st with safeCause := BitVec.ofNat 8 cause } }
  let s2 := (fins 16).foldl (fun s c => if atWork (s.ctx c) then faultCtx s c stSafe none else s) s1
  let s3 := (fins 16).foldl applyMode s2
  writeDiag ((fins 16).foldl answerSafe (critSafe (dropStreams s3)))

/-- The engine enters LOCKED: every unit stops where it is, the security unit too, and the registers keep what they
show (R363). -/
def enterLocked (s : State) : State :=
  { s with eng := .locked, sec := { s.sec with reading := none }, st := { s.st with step := BitVec.ofNat 4 (stepNow s) } }

/-! ## Key slots and provisioning (R358 to R360) -/

/-- A provisioning write arrives (DEDUCED, notes/assumptions/15.md). -/
def provisionOne (w : ProvWrite) (s : State) : Res :=
  guarded s s.on fun s => if provHeld s then { s with provWait := s.provWait ++ [w] } else provision s w

/-- PROVISION_SLOT_WRITE. -/
def execProvisionSlotWrite (slot : Fin 8) (key : BitVec 256) (perm : BitVec 6) (floor : BitVec 64) (s : State) : Res :=
  provisionOne (.write slot key perm floor) s

/-- PROVISION_SLOT_ZERO. -/
def execProvisionSlotZero (slot : Fin 8) (s : State) : Res := provisionOne (.zero slot) s

/-- Every slot is zeroed. -/
def zeroSlots (s : State) : State := { s with slots := Vector.replicate 8 keySlotReset }

/-- KEY_STORE_ERASE_DONE (DEDUCED, notes/assumptions/15.md). -/
def execKeyStoreEraseDone (s : State) : Res :=
  guarded s s.sec.erasing fun s =>
    let s1 := zeroSlots { s with sec := { s.sec with erasing := false } }
    if provHeld s1 then s1 else provisionAll s1

/-! ## Violations (R362 to R364) -/

/-- The violation is counted and raises the alarm, whatever the policy. -/
def countViolation (s : State) (src : Fin 4) : State :=
  let n := BitVec.ofNat 3 (src.val + 1)
  let sec := s.sec
  { s with sec := { sec with
      vcount := vmod sec.vcount src satInc
      firstSource := if sec.firstSource == 0 then n else sec.firstSource
      alarm := true
      source := if sec.alarm then sec.source else n } }

/-- A violation of source `src` + 1, under the policy in force. Provisioning writes that wait land before LOCKED; under
ERASE they are zeroed with the rest (R364) (DEDUCED, notes/assumptions/15.md). -/
def violation (s : State) (src : Fin 4) : State :=
  if s.eng == .off then s
  else
    let s1 := countViolation s src
    if s.sec.policy == 0 then s1
    else if s.eng == .locked then s1
    else
      let s2 := provisionAll (enterLocked s1)
      if s.sec.policy == 2 then { s2 with sec := { s2.sec with erasing := true } } else s2

/-- TAMPER_INPUT: seen high at 4 consecutive ticks. -/
def execTamperInput (ticks : Nat) (s : State) : Res :=
  if Instr.wf (.tamperInput ticks) then guarded s (4 ≤ ticks) fun s => violation s 2
  else .refused (.illFormed "a pulse lasts at least one tick")

/-- HANDSHAKE_FAULT. During self-test the test signals of step 2 are results, which SELFTEST_COMPLETE carries. -/
def execHandshakeFault (s : State) : Res := finish s (violation s 3)

/-! ## Commands (R352) -/

/-- DISABLED_MAP, SELFTEST_REQ and FW_LOAD. -/
def isQuiet (cmd : Nat) : Bool := cmd == 0x10 || cmd == 0x11 || cmd == 0x12

/-- Some context is QUEUED, RUNNING, PREEMPTING or DRAINING (19 R390). -/
def ctxActive (s : State) (c : CtxId) : Bool := atWork (s.ctx c) || (s.ctx c).state == .queued

/-- RUN (19 R390). -/
def inRun (s : State) : Bool := s.up && (fins 16).any (ctxActive s)

/-- R352, R375: the command may execute in this state; none of the three that lead to a self-test does while another of
them is carried out (17 R370) (DEDUCED, notes/assumptions/14.md). -/
def critAllowed (s : State) (cmd : Nat) : Bool :=
  if cmd ≤ 0x06 then s.up && s.fw.valid
  else if isQuiet cmd then s.live && !inRun s && s.quiesce == .none
  else s.live

/-! ## Command bodies (R361) -/

/-- ctx -/
def bdCtx (b : Nat) : CtxId := Fin.ofNat 16 (rf b 0 3 0)
/-- class -/
def bdClass (b : Nat) : Bool := rb b 0 4
/-- det -/
def bdDet (b : Nat) : Bool := rb b 0 5
/-- pace -/
def bdPace (b : Nat) : Bool := rb b 0 6
/-- save area -/
def bdSave (b : Nat) : Nat := rf b 8 47 0
/-- base of window w -/
def bdBase (b w : Nat) : Nat := rf b (0x10 + 16 * w) 47 0
/-- limit of window w -/
def bdLimit (b w : Nat) : Nat := rf b (0x18 + 16 * w) 47 0
/-- window length of regulator x, at `off` for x = 0 -/
def bdWin (b off x : Nat) : Nat := rf b (off + 8 * x) 9 0
/-- budget of regulator x -/
def bdBudget (b off x : Nat) : Nat := rf b (off + 8 * x) 63 32

/-- Fields of four windows. -/
def windowFields : List (Nat × Nat × Nat) := (tabulate 4 fun w => [(0x10 + 16 * w, 47, 0), (0x18 + 16 * w, 47, 0)]).flatten
/-- Fields of three regulators. -/
def regulFields (off : Nat) : List (Nat × Nat × Nat) := (tabulate 3 fun x => [(off + 8 * x, 9, 0), (off + 8 * x, 63, 32)]).flatten

/-- The used bits of a command's body. -/
def bodyFields (cmd : Nat) : List (Nat × Nat × Nat) :=
  match cmd with
  | 0x01 => [(0, 6, 0), (8, 47, 0)] ++ windowFields ++ regulFields 0x50
  | 0x02 => [(0, 3, 0)]
  | 0x03 => [(0, 4, 0)]
  | 0x04 => [(0, 3, 0), (0, 6, 5)]
  | 0x05 => [(0, 3, 0)] ++ windowFields
  | 0x06 => [(0, 3, 0)] ++ regulFields 8
  | 0x10 => [(0, 7, 0)]
  | 0x20 => [(0, 2, 0), (0, 13, 8), (8, 63, 0), (0x10, 319, 0)]
  | 0x21 => [(0, 2, 0)]
  | 0x30 => [(0, 1, 0)]
  | _ => []

/-- The windows of a body. -/
def bdWindows (b : Nat) : Vector Window 4 :=
  Vector.ofFn fun w : Fin 4 => ⟨BitVec.ofNat 48 (bdBase b w.val), BitVec.ofNat 48 (bdLimit b w.val)⟩

/-- A base or a limit is not a multiple of 64. -/
def windowsSkew (b : Nat) : Bool := (tabulate 4 id).any fun w => bdBase b w % 64 != 0 || bdLimit b w % 64 != 0

/-- A regulator window outside 1 to 1,000 µs. -/
def regulsBad (b off : Nat) : Bool := (tabulate 3 id).any fun x => bdWin b off x == 0 || 1000 < bdWin b off x

/-- The 256 bytes of a save area lie outside every window. -/
def saveOutside (ws : Vector Window 4) (save : Nat) : Bool := !ws.toList.any fun w => inWin w save 256

/-- A regulator as CTX_CREATE sets it. -/
def newRegul (s : State) (w b : Nat) : Regul := ⟨w, b, 0, s.now / (1000 * w), [], false⟩

/-- A context is FREE. -/
def isFree (s : State) (c : CtxId) : Bool := (s.ctx c).state == .free

/-- KEY_LOAD's key, as its body wraps it under the key of the envelope's slot. -/
def wrappedKey (s : State) (e : Nat) (body : List Byte) : Option (BitVec 256) :=
  kwUnwrap s.slots[envSlot e].key (slice body 0x10 40)

/-- What the check of a body's fields finds, reserved fields apart. -/
def bodyError (s : State) (e : Nat) (body : List Byte) : Option Nat :=
  let b := leNat (body.take 128)
  let c := bdCtx b
  let x := s.ctx c
  match envCmd e with
  | 0x01 => worst [(windowsSkew b || bdSave b % 64 != 0, stMisalign),
      (!isFree s c || regulsBad b 0x50 || saveOutside (bdWindows b) (bdSave b), stRange)]
  | 0x02 => worst [(!(x.state == .faulted || (x.state == .idle && !x.enabled)), stRange)]
  | 0x03 => worst [(isFree s c, stRange)]
  | 0x04 => worst [(isFree s c, stRange)]
  | 0x05 => worst [(windowsSkew b, stMisalign), (isFree s c || saveOutside (bdWindows b) x.save.toNat, stRange)]
  | 0x06 => worst [(isFree s c || regulsBad b 8, stRange)]
  | 0x10 => worst [(8 - popcountN (rf b 0 7 0 ||| s.fuse.sliceFused.toNat) 8 < 5, stRange)]
  | 0x20 => worst [((wrappedKey s e body).isNone, stRange)]
  | 0x30 => worst [(rf b 0 1 0 == 3, stBad)]
  | _ => none

/-- CTX_CREATE's effect. -/
def createCtx (s : State) (b : Nat) : State :=
  modCtx s (bdCtx b) fun x => { x with
    state := .idle, enabled := false, enablePending := false, lc := bdClass b, det := bdDet b, pace := bdPace b
    pendMode := none, save := BitVec.ofNat 48 (bdSave b), saves := 0, saveValid := false, resumed := false
    windows := bdWindows b
    regMem := newRegul s (bdWin b 0x50 0) (bdBudget b 0x50 0)
    regSpore := newRegul s (bdWin b 0x50 1) (bdBudget b 0x50 1)
    regFeed := newRegul s (bdWin b 0x50 2) (bdBudget b 0x50 2)
    step := 0, epoch := 0, joinSeq := 0, tele := Vector.replicate 34 0, teleWrap := 0 }

/-- CTX_DESTROY's effect: a FAULTED context whose drain is in progress leaves when it ends. -/
def destroyCtx (s : State) (c : CtxId) : State :=
  if (s.ctx c).drainBusy then modCtx s c fun x => { x with resetPending := true, destroyPending := true }
  else freeCtx (resetCtx s c) c

/-- CTX_REGULATE's effect on one regulator. -/
def regulate (s : State) (b i : Nat) (r : Regul) : Regul := regSet (regNow r s.now) (bdWin b 8 i) (bdBudget b 8 i) s.now

/-- CTX_REGULATE's effect. -/
def regulateCtx (s : State) (b : Nat) : State :=
  modCtx s (bdCtx b) fun x => { x with
    regMem := regulate s b 0 x.regMem, regSpore := regulate s b 1 x.regSpore, regFeed := regulate s b 2 x.regFeed }

/-- The quiesce of 17 R370 begins: every enabled context is drained. -/
def startQuiesce (s : State) (q : Quiesce) : State :=
  (fins 16).foldl disableCtx { s with quiesce := q }

/-- DISABLED_MAP's effect: the new map is driven to the fuse logic (15 R350). -/
def driveMap (s : State) (b : Nat) : State := startQuiesce { s with dm := ⟨true, BitVec.ofNat 8 (rf b 0 7 0)⟩ } .map

/-- KEY_LOAD's new slot. -/
def loadKey (s : State) (b : Nat) (key : BitVec 256) : State :=
  let k : KeySlot := ⟨true, key, BitVec.ofNat 6 (rf b 0 13 8), BitVec.ofNat 64 (rf b 8 63 0), kcvOf key⟩
  { s with slots := s.slots.set (Fin.ofNat 8 (rf b 0 2 0)) k }

/-! ## The firmware image (17 R373, R374) -/

/-- Fields of the header. -/
def imageFields : List (Nat × Nat × Nat) := [(0, 15, 0), (4, 31, 0), (8, 31, 0), (0xC, 31, 0), (0x10, 31, 0), (0x14, 31, 0)]

/-- The check that an image fails: 10 header, 11 CRC. -/
def imageError (body : List Byte) : Option Nat :=
  let h := leAt body 0 64
  let entry := rf h 0x10 31 0
  if !reservedZero h imageFields || rf h 0 15 0 != 1 || rf h 4 31 0 != body.length || rf h 0xC 31 0 != Config.arithRev.toNat
    || entry % 8 != 0 || entry < 64 || body.length ≤ entry then some 10
  else if crc32c (body.drop 64) != rf h 0x14 31 0 then some 11
  else none

/-- The image is loaded. -/
def loadImage (s : State) (body : List Byte) : State :=
  { s with fw := { s.fw with valid := true, version := BitVec.ofNat 32 (leAt body 8 4), image := body, check := 0 } }

/-! ## Checking an envelope (R356) -/

/-- What the checks of an envelope come to. -/
inductive Verdict where
  /-- checks 1 to 4: the check and its status -/
  | early (check st : Nat)
  /-- check 5 or later, without a violation -/
  | late (check st : Nat)
  /-- checks 6 and 7: violation source less one -/
  | violates (check st : Nat) (src : Fin 4)
  /-- all passed; the body, read once -/
  | accepted (body : List Byte)
  deriving DecidableEq, Repr

/-- The 32 envelope bytes that the tag covers (R355). -/
def tagged (e : Nat) (body : List Byte) : List Byte := leBytes 32 e ++ body

/-- The tag matches under the slot's key. -/
def tagOk (s : State) (e : Nat) (body : List Byte) : Bool :=
  cmac s.slots[envSlot e].key (tagged e body) == envTag e

/-- Check 8 and the state part of check 9. -/
def grantCheck (s : State) (e : Nat) : Option (Nat × Nat) :=
  if !bvBit s.slots[envSlot e].perm (critPerm (envCmd e)) then some (8, stRange)
  else if !critAllowed s (envCmd e) then some (9, stRange)
  else none

/-- Checks 6 to 9, up to the body's fields, on the body as it has been read. -/
def lateCheck (s : State) (e : Nat) (body : List Byte) : Verdict :=
  if !tagOk s e body then .violates 6 stAuth 0
  else if envCounter e ≤ s.slots[envSlot e].counter.toNat then .violates 7 stStale 1
  else match grantCheck s e with
    | some (n, st) => .late n st
    | none => .accepted body

/-- The checks in their order, up to the body's fields; check 5 fails by an error response (15 R339)
(DEDUCED, notes/assumptions/14.md). -/
def judge (s : State) (p : CritPath) (e : Nat) : Verdict :=
  match earlyCheck s p e with
  | some (n, st) => .early n st
  | none => lateCheck s e (bodyGot s e)

/-- The envelope has passed check 7: its slot's counter takes the envelope's and the accepted count rises. -/
def acceptEnv (s : State) (e : Nat) : State :=
  { s with
    slots := vmod s.slots (envSlot e) fun k => { k with counter := BitVec.ofNat 64 (envCounter e) }
    sec := { s.sec with accepted := satInc s.sec.accepted } }

/-! ## Refusing -/

/-- fw_check of a FW_LOAD that fails. -/
def setCheck (s : State) (e n : Nat) : State :=
  if envCmd e == 0x12 then { s with fw := { s.fw with check := n } } else s

/-- The envelope is refused from check 5 on: a FW_LOAD that fails completes with SAFE_STATE and leaves the engine in
SAFE; a self-test goes on (01 R26) (DEDUCED, notes/assumptions/13.md). -/
def refuseLate (s : State) (p : CritPath) (e n st : Nat) : State :=
  if envCmd e == 0x12 then
    let s1 := endCrit (setCheck s e n) p stSafe 0 0 0
    if s1.live then enterSafe s1 3 else s1
  else endCrit s p st 0 0 0

/-- An envelope that violates: under LOCK and ERASE it does not complete (DEDUCED, notes/assumptions/13.md). -/
def refuseViolation (s : State) (p : CritPath) (e n st : Nat) (src : Fin 4) : State :=
  let s1 := violation s src
  if s1.eng == .locked then s1 else refuseLate s1 p e n st

/-! ## Executing -/

/-- value2 of an accepted command's record (R357). -/
def critV2 (e : Nat) : Nat := (envSlot e).val + envCmd e <<< 8

/-- An accepted command completes with OK. -/
def done (s : State) (p : CritPath) (e v1 : Nat) : State := endCrit s p stOk (envCounter e) v1 (critV2 e)

/-- CTX_MODE: the change completes with its command once no tile of the context is in flight (11 R254). -/
def changeMode (s : State) (p : CritPath) (e b : Nat) : State :=
  let c := bdCtx b
  let s1 := modCtx (freeUnit s) c fun x => { x with
    pendMode := some (bdDet b, bdPace b)
    modeWaiters := x.modeWaiters ++ [(p, BitVec.ofNat 64 (envCounter e), BitVec.ofNat 32 (critV2 e))] }
  if (tilesOf s1 c).isEmpty then applyMode s1 c else s1

/-- KEY_LOAD; a key that does not unwrap has been refused with the other fields. -/
def keyLoad (s : State) (p : CritPath) (e b : Nat) (body : List Byte) : State :=
  match wrappedKey s e body with
  | none => endCrit s p stRange 0 0 0
  | some key => done (loadKey s b key) p e (kcvOf key).toNat

/-- FW_LOAD, after check 9. -/
def fwLoad (s : State) (p : CritPath) (e : Nat) (body : List Byte) : State :=
  match imageError body with
  | some n => refuseLate s p e n stSafe
  | none => startQuiesce (done (loadImage s body) p e (envLen e)) .drain

/-- The effect of an accepted command whose fields are valid, with its completion. -/
def execute (s : State) (p : CritPath) (e b : Nat) (body : List Byte) : State :=
  let c := bdCtx b
  match envCmd e with
  | 0x01 => done (createCtx s b) p e c.val
  | 0x02 => done (destroyCtx s c) p e 0
  | 0x03 => done (modCtx s c fun x => { x with lc := bdClass b }) p e 0
  | 0x04 => changeMode s p e b
  | 0x05 => done (modCtx s c fun x => { x with windows := bdWindows b }) p e 0
  | 0x06 => done (regulateCtx s b) p e 0
  | 0x10 => driveMap (done s p e 0) b
  | 0x11 => startQuiesce (done s p e 0) .drain
  | 0x12 => fwLoad s p e body
  | 0x20 => keyLoad s p e b body
  | 0x21 => done { s with slots := s.slots.set (Fin.ofNat 8 (rf b 0 2 0)) keySlotReset } p e 0
  | 0x30 => done { s with sec := { s.sec with policy := BitVec.ofNat 2 (rf b 0 1 0) } } p e 0
  | _ => endCrit s p stBad 0 0 0

/-- What the check of an accepted command's fields finds: the lowest of the statuses that R361 gives (13 R315). -/
def fieldError (s : State) (e : Nat) (body : List Byte) : Option Nat :=
  if envCmd e == 0x12 then none
  else worst [(!reservedZero (leNat (body.take 128)) (bodyFields (envCmd e)), stBad),
    ((bodyError s e body).isSome, (bodyError s e body).getD 0)]

/-- An accepted command: its fields are checked, then it has its effect. -/
def command (s : State) (p : CritPath) (e : Nat) (body : List Byte) : State :=
  match fieldError s e body with
  | some st => endCrit s p st 0 0 0
  | none => execute s p e (leNat (body.take 128)) body

/-- The envelope whose body has been read, from its checks to its completion; from check 5 on a FW_LOAD has overwritten the
store (17 R374). -/
def runEnvelope (s : State) (p : CritPath) (e : Nat) : State :=
  match judge s p e with
  | .early n st => endCrit (setCheck s e n) p st 0 0 0
  | .violates n st src => refuseViolation (dropImage s e) p e n st src
  | .late n st => refuseLate (acceptEnv (dropImage s e) e) p e n st
  | .accepted body => command (acceptEnv (dropImage s e) e) p e body

/-- Check 5 fails: the read of the body met an error response. -/
def critFailed (s : State) : State :=
  let s1 := killReads s (· == .crit)
  match s.sec.reading with
  | some p => match envelopeAt s p with
    | some e => refuseLate s1 p e 5 stBus
    | none => s1
  | none => s1

/-! ## The rows -/

/-- What follows of itself. In SELFTEST, where the units stand still, the memory port and the security unit go on: an
envelope that GO presented before is answered there (R352). -/
def settleOn (s : State) : State :=
  if s.live then settle s
  else if s.eng == .selftest then settleSec (pumpMem s.memWait.length s)
  else s

/-- The envelope of a path that the security unit handles and whose body has been read, when it executes or is refused
(DEDUCED, notes/assumptions/14.md). -/
def handled (s : State) (p : CritPath) : Option Nat :=
  if s.on && s.eng != .locked && s.sec.reading == some p && !memBusy s (· == .crit) then envelopeAt s p else none

/-- The row of a command code acts on an envelope with that code, and any row on a code outside the table. -/
def rowTakes (code e : Nat) : Bool := envCmd e == code || (critLen (envCmd e)).isNone

/-- A critical command's row: the envelope that the security unit handles is judged and, when accepted, executed. -/
def crit (code : Nat) (p : CritPath) (s : State) : Res :=
  match handled s p with
  | none => finish s s
  | some e =>
    if rowTakes code e then finish s (settleOn (runEnvelope s p e)) else finish s s

/-- CTX_CREATE. -/
def execCtxCreate (path : CritPath) (s : State) : Res := crit 0x01 path s
/-- CTX_DESTROY. -/
def execCtxDestroy (path : CritPath) (s : State) : Res := crit 0x02 path s
/-- CTX_CLASS. -/
def execCtxClass (path : CritPath) (s : State) : Res := crit 0x03 path s
/-- CTX_MODE. -/
def execCtxMode (path : CritPath) (s : State) : Res := crit 0x04 path s
/-- CTX_WINDOWS. -/
def execCtxWindows (path : CritPath) (s : State) : Res := crit 0x05 path s
/-- CTX_REGULATE. -/
def execCtxRegulate (path : CritPath) (s : State) : Res := crit 0x06 path s
/-- DISABLED_MAP. -/
def execDisabledMap (path : CritPath) (s : State) : Res := crit 0x10 path s
/-- SELFTEST_REQ. -/
def execSelftestReq (path : CritPath) (s : State) : Res := crit 0x11 path s
/-- FW_LOAD. -/
def execFwLoad (path : CritPath) (s : State) : Res := crit 0x12 path s
/-- KEY_LOAD. -/
def execKeyLoad (path : CritPath) (s : State) : Res := crit 0x20 path s
/-- KEY_ERASE. -/
def execKeyErase (path : CritPath) (s : State) : Res := crit 0x21 path s
/-- ALARM_POLICY. -/
def execAlarmPolicy (path : CritPath) (s : State) : Res := crit 0x30 path s

end Sys2Proof.Machine
end

