-- ==== Sys2Proof/Machine/Tables.lean ====
section
/-!
DEFINITION. The table unit and the step builder: tensor descriptors (09 R204 to R206, R211), sequences (10 R229 to
R233), the step boundary and its work list (10 R234 to R241).
-/
namespace Sys2Proof.Machine

/-! ## TDESC_CREATE -/

/-- index -/
def tdIndex (j : Job) : Nat := rf j.n 8 7 0
/-- record -/
def tdRecord (j : Job) : Nat := rf j.n 0x10 47 0

/-- 09 R204 check 1. -/
def recordBad (n : Nat) : Bool :=
  let t := tensorOf n
  (fmtOf t.fmt).isNone || t.ndim < 1 || 6 < t.ndim || !reservedZero n (tensorFields t.ndim)
  || (t.dist && (t.blockDim < 1 || t.ndim - 1 < t.blockDim || t.base != 0))

/-- 09 R204 check 2. -/
def recordMisaligned (t : TDesc) : Bool :=
  t.base % 64 != 0 || (tabulate (t.ndim - 1) fun i => tdStride t (i + 1)).any (· % 64 != 0)
  || (isMx t.fmt && tdSize t 0 % 32 != 0)

/-- 09 R211: entry `b` of the block list passes. -/
def ownerEntryOk (s : State) (t : TDesc) (w : Window) (b raw : Nat) : Bool :=
  let self := owChip raw == s.fuse.chipId && owEngine raw == s.fuse.engineId
  owValid raw && reservedZero raw ownerFields && linkOk (owLink raw)
  && (if owOwn raw then self && owIndex raw == t.ownerBase + b && inWin w (owBase raw) (blockFoot t b)
      else !self && owEpoch raw == 0)

/-- The entries the table would hold of a distributed tensor. -/
def ownerEntries (t : TDesc) (list : List Byte) : List Nat :=
  tabulate (blockCount t) fun b => leAt list (16 * b) 16

/-- Every Owner Table index of the tensor exists and no live descriptor holds it. -/
def ownerFree (s : State) (t : TDesc) : Bool :=
  t.ownerBase + blockCount t ≤ 16384
  && (tabulate (blockCount t) id).all fun b => (lookup (t.ownerBase + b) s.owner).isNone

/-- The tensor becomes entry `i`, and its blocks enter the Owner Table. -/
def addTensor (s : State) (c : CtxId) (i : Nat) (t : TDesc) (entries : List Nat) : State :=
  let s1 := modCtx s c fun x => { x with tensors := insertKey i { t with selfOverlap := selfOverlaps t } x.tensors }
  { s1 with owner := (indexed entries).foldl (fun o (b, raw) =>
      insertKey (t.ownerBase + b) ⟨BitVec.ofNat 128 raw, c, i⟩ o) s1.owner }

/-- owner_list of a record. -/
def recordList (n : Nat) : Nat := rf n 0x58 47 0

/-- The table unit reads a range for a context: rank 7, charged to its memory regulator. -/
def tableReading (s : State) (c : CtxId) (a n : Nat) (k : State → State) : State :=
  reading s (.table c) 7 (some c) [(a, n)] k

/-- A TDESC_CREATE ends, and what it has read is used up. -/
def endCreate (s : State) (c : CtxId) (j : Job) (st v0 v1 : Nat) : State :=
  complete (dropRead s (.table c)) c .table j st v0 v1 0

/-- TDESC_CREATE after the record has been read; the list of a distributed tensor's blocks is read next. -/
def createTensor (s : State) (c : CtxId) (j : Job) (n : Nat) : State :=
  let t := tensorOf n
  let x := s.ctx c
  let w := x.windows[Fin.ofNat 4 t.win]
  let fail := fun (s : State) st => endCreate s c j st 0 0
  if recordBad n then fail s stBad
  else if recordMisaligned t then fail s stMisalign
  else if (lookup (tdIndex j) x.tensors).isSome || w.limit.toNat ≤ w.base.toNat then fail s stRange
  else if !t.dist then
    if inWin w t.base (footLen t) then
      endCreate (addTensor s c (tdIndex j) t []) c j stOk (b2n (selfOverlaps t)) (footLen t)
    else fail s stRange
  else if !ownerFree s t then fail s stRange
  else
    tableReading s c (recordList n) (16 * blockCount t) fun s =>
      let es := ownerEntries t (gotRead s (.table c) (recordList n) (16 * blockCount t))
      if (indexed es).all fun (b, raw) => ownerEntryOk s t w b raw then
        endCreate (addTensor s c (tdIndex j) t es) c j stOk (b2n (selfOverlaps t)) (blockCount t)
      else fail s stRange

/-- The oldest TDESC_CREATE of a context: the table unit handles them one by one. -/
def createJob (x : Ctx) : Option Job := (x.dealt.find? fun d => d.1 == .table && d.2.op == 0x60).map (·.2)

/-- One TDESC_CREATE, as far as it goes. -/
def createStep (s : State) (c : CtxId) (j : Job) : State :=
  if tdRecord j % 64 != 0 then endCreate s c j stMisalign 0 0
  else
    tableReading s c (tdRecord j) 128 fun s => createTensor s c j (leNat (gotRead s (.table c) (tdRecord j) 128))

/-- The TDESC_CREATEs of a context, as far as they go (DEDUCED, notes/assumptions/29.md). -/
def createOn : Nat → CtxId → State → State
  | 0, _, s => s
  | n + 1, c, s =>
    match createJob (s.ctx c) with
    | none => s
    | some j =>
      let s1 := createStep s c j
      if (createJob (s1.ctx c)) == some j then s1 else createOn n c s1

/-- The table unit goes on for a context. -/
def tableStep (s : State) (c : CtxId) : State := createOn (s.ctx c).dealt.length c s

/-- A read of the table unit met a bus error: the TDESC_CREATE in progress completes with BUS_ERROR. -/
def tableFailed (s : State) (c : CtxId) : State :=
  match createJob (s.ctx c) with
  | none => s
  | some j => tableStep (endCreate (killReads s (· == .table c)) c j stBus 0 0) c

/-- TDESC_CREATE. -/
def execTdescCreate (c : CtxId) (s : State) : Res := dealing s c 0x60 (fun _ => true) fun s _ => tableStep s c

/-! ## TDESC_DESTROY (09 R206) -/

/-- TDESC_DESTROY: the entry counts as freed for descriptors fetched later. -/
def execTdescDestroy (c : CtxId) (s : State) : Res :=
  dealing s c 0x61 (fun _ => true) fun s j =>
    match tensorAt (s.ctx c) (tdIndex j) j.c with
    | none => completeErr s c .table j stRange
    | some _ => modCtx s c fun x => { x with
        tensors := modKey (tdIndex j) (fun t => { t with dying := some j.c }) x.tensors }

/-- A dealt descriptor names a tensor entry; one of the tile path may, until its checks have read its combine block, and a
log may ask for each of those of a TILE_COMBINE or TILE_REVERSE. -/
def namesEntry (x : Ctx) (i : Nat) (d : UnitId × Job) : Bool :=
  match d.1 with
  | .tilePath =>
    match x.tp.find? fun t => t.c == d.2.c with
    | some t => !t.checked || (tpNames t.ops 2 true).contains i
    | none => true
  | _ => (tensorsNamed d.2).contains i

/-- A TDESC_DESTROY with no earlier descriptor left that names its entry. -/
def freeable (x : Ctx) : Option Job :=
  (x.dealt.find? fun d => d.2.op == 0x61 &&
    !x.dealt.any fun e => before e.2.c d.2.c && namesEntry x (tdIndex d.2) e).map (·.2)

/-- TDESC_FREE: the entry and its Owner Table entries are free. -/
def execTdescFree (c : CtxId) (s : State) : Res :=
  match freeable (s.ctx c) with
  | none => finish s s
  | some j =>
    working s true fun s =>
      complete (modCtx { s with owner := s.owner.filter fun o => !(o.2.ctx == c && o.2.index == tdIndex j) } c
        fun x => { x with tensors := eraseKey (tdIndex j) x.tensors }) c .table j stOk 0 0 0

/-! ## Sequences -/

/-- seq -/
def sqIndex (j : Job) : Nat := rf j.n 8 9 0
/-- uid -/
def sqUid (j : Job) : BitVec 32 := BitVec.ofNat 32 (rf j.n 0xC 31 0)
/-- hold_layers -/
def sqHold (j : Job) : Nat := rf j.n 8 18 11
/-- hold_kmax -/
def sqKmax (j : Job) : Nat := rf j.n 8 23 19
/-- tokens -/
def sqTokens (j : Job) : Nat := rf j.n 0x18 23 0
/-- user_bytes -/
def sqUser (j : Job) : Nat := rf j.n 0x20 47 0

/-- X, the exit map's bytes (10 R232). -/
def exitBytes (tokens : Nat) (en : Bool) : Nat := if en then ceilDiv (2 * tokens) 64 * 64 else 0
/-- Z, a hold section's bytes (10 R232). -/
def holdBytes (tokens kmax : Nat) : Nat := ceilDiv (tokens * (16 + 8 * kmax)) 64 * 64

/-- The entry an accepted SEQ_JOIN makes. A reservation of 2^48 bytes or more, which no check of R231 refuses, keeps its
size and so never fits the pool; the register shows its low 48 bits (DESIGN CHOICE, notes/assumptions/29.md). -/
def joinEntry (c : CtxId) (x : Ctx) (j : Job) : Seq where
  state := .pending
  ctx := c
  exitEn := rb j.n 8 10
  holdLayers := sqHold j
  holdKmax := sqKmax j
  deferAge := 0
  uid := sqUid j
  seed := BitVec.ofNat 64 (rf j.n 0x10 63 0)
  tokens := sqTokens j
  stepsTotal := rf j.n 0x1C 15 0
  stepIndex := 0
  joinSeq := x.joinSeq
  resBase := 0
  resBytes := sqUser j + exitBytes (sqTokens j) (rb j.n 8 10) + sqHold j * holdBytes (sqTokens j) (sqKmax j)
  exitBase := 0
  holdBase := 0
  userBytes := sqUser j
  joinC := some j.c
  leaveC := none

/-- A dealt descriptor waits for a step boundary. -/
def markBoundary (x : Ctx) (k : BitVec 32) : Ctx :=
  { x with dealt := x.dealt.map fun d => if d.2.c == k then (d.1, { d.2 with boundary := true }) else d }

/-- 10 R231 check 1. -/
def joinBad (j : Job) : Bool :=
  sqTokens j == 0 || (if sqHold j == 0 then sqKmax j != 0 else sqKmax j < 1 || 16 < sqKmax j)

/-- SEQ_JOIN. -/
def execSeqJoin (c : CtxId) (s : State) : Res :=
  dealing s c 0x30 (fun _ => true) fun s j =>
    let fail := fun st => completeErr s c .table j st
    if joinBad j then fail stBad
    else if sqUser j % 64 != 0 then fail stMisalign
    else if (lookup (sqIndex j) s.seqs).isSome || s.seqs.any fun e => e.2.ctx == c && e.2.uid == sqUid j then
      fail stRange
    else
      modCtx { s with seqs := insertKey (sqIndex j) (joinEntry c (s.ctx c) j) s.seqs } c fun x =>
        { markBoundary x j.c with joinSeq := x.joinSeq + 1 }

/-- The dealt descriptor of a fetch count. -/
def dealtJob (x : Ctx) (k : BitVec 32) : Option (UnitId × Job) := x.dealt.find? fun d => d.2.c == k

/-- SEQ_LEAVE. -/
def execSeqLeave (c : CtxId) (s : State) : Res :=
  dealing s c 0x31 (fun _ => true) fun s j =>
    match (lookup (sqIndex j) s.seqs).filter fun q => q.ctx == c && q.uid == sqUid j && q.state != .leaving with
    | none => completeErr s c .table j stRange
    | some q =>
      if q.state == .pending then
        let s1 := match q.joinC.bind (dealtJob (s.ctx c)) with
          | some d => completeErr s c .table d.2 stAborted
          | none => s
        complete { s1 with seqs := eraseKey (sqIndex j) s1.seqs } c .table j stOk (s1.ctx c).step.toNat 0 0
      else
        modCtx { s with seqs := insertKey (sqIndex j) { q with state := .leaving, leaveC := some j.c } s.seqs } c fun x =>
          markBoundary x j.c

/-! ## The step boundary (10 R234 to R239) -/

/-- pool_base -/
def sbPool (j : Job) : Nat := rf j.n 8 47 0
/-- pool_bytes -/
def sbBytes (j : Job) : Nat := rf j.n 0x10 47 0
/-- wl_addr -/
def sbList (j : Job) : Nat := rf j.n 0x18 47 0

/-- The reservations of a context among entries, by address. -/
def resOf (c : CtxId) (qs : List (Nat × Seq)) : List Rng :=
  sortBy (fun a b => a.1 < b.1)
    ((qs.filter fun e => e.2.ctx == c && (e.2.state == .active || e.2.state == .leaving)).map fun e =>
      (e.2.resBase, e.2.resBytes))

/-- The reservations of a context. -/
def reservations (s : State) (c : CtxId) : List Rng := resOf c s.seqs

/-- The free runs of a pool, by address; a reservation of no bytes parts none. -/
def gaps (lo hi : Nat) (rs : List Rng) : List Rng :=
  let r := (rs.filter fun r => r.2 != 0).foldl (fun (acc : List Rng × Nat) r =>
    (if acc.2 < r.1 then acc.1 ++ [(acc.2, r.1 - acc.2)] else acc.1, max acc.2 (r.1 + r.2))) ([], lo)
  if r.2 < hi then r.1 ++ [(r.2, hi - r.2)] else r.1

/-- 10 R237. A reservation of no bytes fits at the pool's first address (DEDUCED, notes/assumptions/29.md). -/
def firstFit (lo hi : Nat) (rs : List Rng) (n : Nat) : Option Nat :=
  if n == 0 then (if lo < hi then some lo else none)
  else ((gaps lo hi rs).find? fun g => n ≤ g.2).map (·.1)

/-- 10 R235. Where a range is empty the spec does not say: a pool of no bytes strictly inside the work list counts as
overlapping it, and a reservation of no bytes lies outside the pool when its address does (DESIGN CHOICE,
notes/assumptions/29.md). -/
def stepBad (s : State) (c : CtxId) (j : Job) : Option Nat :=
  let x := s.ctx c
  let pool := (sbPool j, sbBytes j)
  worst [(sbPool j % 64 != 0 || sbBytes j % 64 != 0 || sbList j % 64 != 0, stMisalign),
    (!inWindows x pool.1 pool.2, stRange),
    ((reservations s c).any fun r => r.1 < pool.1 || pool.1 + pool.2 < r.1 + r.2, stRange),
    (!inWindows x (sbList j) 81984, stRange),
    (meets (sbList j, 81984) pool, stRange)]

/-- What the boundary gathers: retired and deferred records, admissions, the age barrier. -/
structure Boundary where
  seqs : List (Nat × Seq)
  small : List (List Byte)
  retired : Nat
  deferred : Nat
  admitted : Nat
  fresh : List Nat
  barrier : Bool
  deriving DecidableEq, Repr

/-- A retired or deferred record (10 R239). -/
def wlSmall (i age : Nat) (uid : BitVec 32) : List Byte := leBytes 8 (pack [(0, 0, i), (0, 16, age), (4, 0, uid.toNat)])

/-- The context's entries in ascending join_seq. -/
def inJoinOrder (c : CtxId) (qs : List (Nat × Seq)) : List (Nat × Seq) :=
  sortBy (fun a b => a.2.joinSeq.toNat < b.2.joinSeq.toNat) (qs.filter fun e => e.2.ctx == c)

/-- The entry leaves at this boundary. -/
def retires (q : Seq) : Bool :=
  q.state == .leaving || (q.state == .active && q.stepsTotal != 0 && q.stepsTotal ≤ q.stepIndex + 1)

/-- First loop of 10 R236. -/
def retireOne (b : Boundary) (e : Nat × Seq) : Boundary :=
  if retires e.2 then
    { b with seqs := eraseKey e.1 b.seqs, small := b.small ++ [wlSmall e.1 0 e.2.uid], retired := b.retired + 1 }
  else b

/-- Second loop of 10 R236. -/
def admitOne (c : CtxId) (lo hi : Nat) (b : Boundary) (e : Nat × Seq) : Boundary :=
  if e.2.state != .pending then b
  else
    match if b.barrier then none else firstFit lo hi (resOf c b.seqs) e.2.resBytes with
    | none =>
      let q := { e.2 with deferAge := min (e.2.deferAge + 1) 255 }
      { b with seqs := insertKey e.1 q b.seqs, small := b.small ++ [wlSmall e.1 q.deferAge q.uid]
               deferred := b.deferred + 1, barrier := b.barrier || 8 ≤ q.deferAge }
    | some a =>
      let x := exitBytes e.2.tokens e.2.exitEn
      let q := { e.2 with
        state := .active, resBase := a, stepIndex := 0
        exitBase := if e.2.exitEn then a + e.2.userBytes else 0
        holdBase := if e.2.holdLayers == 0 then 0 else a + e.2.userBytes + x }
      { b with seqs := insertKey e.1 q b.seqs, admitted := b.admitted + 1, fresh := b.fresh ++ [e.1] }

/-- Third loop of 10 R236: the step index of an entry that was active before. -/
def ageOne (b : Boundary) (e : Nat × Seq) : Boundary :=
  if e.2.state == .active && !b.fresh.contains e.1 then
    { b with seqs := insertKey e.1 { e.2 with stepIndex := min (e.2.stepIndex + 1) 65535 } b.seqs }
  else b

/-- An active record of the work list. -/
def wlActive (fresh : Bool) (i : Nat) (q : Seq) : List Byte :=
  leBytes 64 (pack [(0, 0, i), (0, 10, b2n fresh),
    (0, 11, b2n (q.stepsTotal != 0 && q.stepsTotal ≤ q.stepIndex + 1)), (0, 16, q.stepIndex), (4, 0, q.uid.toNat),
    (8, 0, q.tokens), (8, 24, q.holdLayers), (0xC, 0, q.holdKmax), (0x10, 0, q.resBase), (0x18, 0, q.exitBase),
    (0x20, 0, q.holdBase), (0x28, 0, holdBytes q.tokens q.holdKmax),
    (0x30, 0, q.joinSeq.toNat)])

/-- The three loops over a context's entries. -/
def boundary (s : State) (c : CtxId) (j : Job) : Boundary :=
  let lo := sbPool j
  let hi := sbPool j + sbBytes j
  let b1 := (inJoinOrder c s.seqs).foldl retireOne ⟨s.seqs, [], 0, 0, 0, [], false⟩
  let b2 := (inJoinOrder c b1.seqs).foldl (admitOne c lo hi) b1
  (inJoinOrder c b2.seqs).foldl ageOne b2

/-- The work list's header. -/
def wlHeader (step active : Nat) (b : Boundary) (tokens : Nat) (free : List Rng) : List Byte :=
  leBytes 64 (pack [(0, 0, step), (8, 0, active), (8, 16, b.admitted), (0xC, 0, b.deferred), (0xC, 16, b.retired),
    (0x10, 0, tokens), (0x18, 0, sumNat (free.map (·.2))), (0x20, 0, free.foldl (fun m g => max m g.2) 0), (0x28, 0, 1)])

/-- 05 R121: the step's layers, in ascending order of layer, begin their reduction. A member that has committed no tile of
a layer in the step takes no part for that layer, and writes no record: the spec does not say whether it joins with
counts of zero (DESIGN CHOICE, notes/assumptions/38.md). -/
def beginReductions (s : State) (c : CtxId) (step : BitVec 64) : State :=
  modCtx s c fun x => { x with
    reductions := x.reductions
      ++ (sortBy (fun a b => a.layer.toNat < b.layer.toNat) x.stats).map fun l => ⟨l, step, .up 0, s.tick, []⟩
    stats := [] }

/-- The boundary: entries change at once, then the exit maps are cleared and the list written. -/
def runBoundary (s : State) (c : CtxId) (j : Job) : State :=
  let step := (s.ctx c).step + 1
  let b := boundary s c j
  let act := (inJoinOrder c b.seqs).filter fun e => e.2.state == .active
  let free := gaps (sbPool j) (sbPool j + sbBytes j) (resOf c b.seqs)
  let head := wlHeader step.toNat act.length b (sumNat (act.map fun e => e.2.tokens)) free
  let v1 := act.length + b.admitted <<< 16 + b.deferred <<< 32 + b.retired <<< 48
  let s1 := beginReductions { s with seqs := b.seqs } c (s.ctx c).step
  let s2 := modCtx s1 c fun x => { x with
    step := step, hold := some .step, building := some ⟨sbList j, head, v1, false, false⟩ }
  let s3 := teleCtx (teleCtx (teleCtx s2 c 27 b.admitted) c 28 b.deferred) c 29 b.retired
  let s4 := (act.filter fun e => e.2.exitEn).foldl (fun s e =>
    writeMem s (.step c false) e.2.exitBase (zeros (2 * e.2.tokens)) 4 (some c)) s3
  writeMem s4 (.step c false) (sbList j + 64)
    ((act.map fun e => wlActive (b.fresh.contains e.1) e.1 e.2).flatten ++ b.small.flatten) 4 (some c)

/-- One descriptor that waited for the boundary completes (10 R231, R233, 13 R316). -/
def endBoundary (c : CtxId) (s : State) (d : UnitId × Job) : State :=
  let step := (s.ctx c).step.toNat
  if !d.2.boundary then s
  else if d.2.op == 0x31 then complete s c .table d.2 stOk step 0 0
  else
    match (s.seqs.find? fun e => e.2.joinC == some d.2.c && e.2.ctx == c) with
    | none => s
    | some (i, q) =>
      let s1 := { s with seqs := insertKey i { q with joinC := none } s.seqs }
      if q.state == .pending then complete s1 c .table d.2 stMemDeferred step 0 q.deferAge
      else complete s1 c .table d.2 stOk step q.resBase q.deferAge

/-- The STEP_BUILD in progress. -/
def stepJob (x : Ctx) : Option Job := (x.dealt.find? fun d => d.1 == .stepBuilder).map (·.2)

/-- The STEP_BUILD completes, after the descriptors that waited for its boundary. -/
def endStep (s : State) (c : CtxId) (j : Job) (st v1 : Nat) : State :=
  let s1 := (s.ctx c).dealt.foldl (endBoundary c) s
  let s2 := modCtx s1 c fun x => { x with building := none, hold := if x.hold == some .step then none else x.hold }
  if st == stOk then complete s2 c .stepBuilder j st (s.ctx c).step.toNat v1 0 else completeErr s2 c .stepBuilder j st

/-- The writes of a boundary have all returned: the header goes, or the STEP_BUILD completes
(DEDUCED, notes/assumptions/29.md). -/
def advanceStep (s : State) (c : CtxId) : State :=
  match (s.ctx c).building, stepJob (s.ctx c) with
  | some b, some j =>
    if memBusy s fun o => o == .step c false || o == .step c true then s
    else if b.failed then endStep s c j stBus 0
    else if b.headerOut then endStep s c j stOk b.value1
    else
      writeMem (modCtx s c fun x => { x with building := some { b with headerOut := true } }) (.step c true) b.wl
        b.header 4 (some c)
  | _, _ => s

/-- STEP_BUILD: it begins once every earlier descriptor has completed, those at a boundary apart. -/
def execStepBuild (c : CtxId) (s : State) : Res :=
  dealing s c 0x32 (fun _ => (s.ctx c).dealt.all fun d => d.2.boundary) fun s j =>
    match stepBad s c j with
    | some st => completeErr s c .stepBuilder j st
    | none => advanceStep (runBoundary s c j) c

end Sys2Proof.Machine
end

