-- ==== Sys2Proof/Machine/MemPort.lean ====
section
/-!
DEFINITION. Responses of the memory port (15 R338, R339) and of the host bridge (13 R317, 14 R326, 17 R371).
-/
namespace Sys2Proof.Machine

/-! ## Bytes -/

/-- A later request has written the byte at `a`. -/
def overtaken (r : MemReq) (a : Nat) : Bool := r.later.any fun k => k.1 ≤ a && a < k.1 + k.2

/-- The outstanding request of a tag, and the state without it (DEDUCED, notes/assumptions/42.md). -/
def takeReq (s : State) (tag : BitVec 12) : Option (MemReq × State) :=
  (s.memOut.find? fun r => r.tag == tag).map fun r =>
    (r, { s with memOut := s.memOut.filter fun q => q.tag != tag })

/-- What a read returned is what memory holds, where no request issued after it has written (R338)
(DEDUCED, notes/assumptions/42.md). -/
def landRead (m : Memory) (r : MemReq) (data : List Byte) : Memory :=
  memWrite m r.addr ((indexed data).map fun (i, b) => if overtaken r (r.addr + i) then memByte m (r.addr + i) else b)

/-- 15 R339: each slot of a failed write holds its old contents or the data, freely (notes/assumptions/1.md), where no
later request has written it. -/
def revertWrite (s : State) (r : MemReq) : State :=
  let old := (indexed r.old).map fun (i, b) =>
    let a := r.addr + i
    if overtaken r a || Config.freeBit (s.fresh + (a / 64 - r.addr / 64)) then memByte s.chip a else b
  { s with chip := memWrite s.chip r.addr old, fresh := s.fresh + slotsOf r.addr r.len }

/-- What an owner's reads brought, by rising address. -/
def gotBytes (s : State) (o : MemOwner) : List Byte :=
  ((sortBy (fun a b => a.1 < b.1) ((s.got.filter fun g => g.1 == o).map (·.2))).map (·.2)).flatten

/-- What was read is kept until its owner has used it up: a unit that goes on with `reading`, or one that waits for more
answers. -/
def keepsGot (s : State) : MemOwner → Bool
  | .check _ _ | .prep _ | .sel _ _ _ | .set _ _ | .comb _ _ _ | .moverRead _ | .table _ | .model | .crit | .serve _
  | .bias _ => true
  | o => memBusy s (· == o)

/-- Reads whose owner waits for nothing more are forgotten. -/
def dropGot (s : State) : State := { s with got := s.got.filter fun g => keepsGot s g.1 }

/-! ## Reads -/

/-- `f` applied to the tile of a context and epoch, where it is in flight. -/
def onTile (s : State) (c : CtxId) (e : BitVec 16) (f : State → Tile → State) : State :=
  match findTile s c e with
  | some t => f s t
  | none => s

/-- The last read of an owner has returned. The checks of descriptors (`checkJobs`), movers (`settleMovers`), loads
(`hotPump`) and the security unit go on of themselves. -/
def readsDone (s : State) (o : MemOwner) : State :=
  match o with
  | .stage c e t =>
    onTile s c e fun s x =>
      let row := cleanRow x.d x.rowFmt (gotBytes s o)
      modTile s c e fun x => { x with toks := updAt t (fun k => { k with row := some row }) x.toks }
  | .prep c => stageOn s c
  | .sel c e t => onTile s c e fun s x => holdCame s x t
  | .set c e => onTile s c e setOn
  | .comb c e t => combineOn s c e t
  | .table c => tableStep s c
  | .serve n => serveRead s n
  | .bias _ => update s
  | .saveRead c => if owns (s.ctx c) then resume s c else s
  | .wait c => wordArrived s c (leNat (gotBytes s o))
  | .check _ _ | .moverRead _ | .model | .crit | .hot _ | .dmaRead _ _ _ _ => s
  | .slot _ _ _ | .tile _ _ | .out _ _ _ | .mover _ | .undo _ | .step _ _ | .saveWrite _ _ | .dmaWrite _ _ | .dmaDead _ | .dead
  | .stats _ => s

/-- A read has returned its bytes. -/
def readReturned (s : State) (r : MemReq) (data : List Byte) : State :=
  let s1 := { s with chip := landRead s.chip r data, got := s.got ++ [(r.owner, r.addr, data)] }
  match r.owner with
  | .dmaRead ch b second off => dmaArrived s1 ch b second off data
  | o => if memBusy s1 (· == o) then s1 else readsDone s1 o

/-- What a response does. One that arrives while the units are stopped is discarded (15 R351, 16 R363), the security
unit's apart, which goes on in SELFTEST. -/
def answered (s : State) (o : MemOwner) (f : State → State) : State :=
  if s.live || (s.eng == .selftest && o == .crit) then dropGot (settleOn (f s)) else s

/-- MEM_READ_RESPONSE: the slots of an outstanding read, in address order. -/
def execMemReadResponse (tag : BitVec 12) (data : List Byte) (s : State) : Res :=
  if Instr.wf (.memReadResponse tag data) then
    match takeReq s tag with
    | none => finish s s
    | some (r, s1) =>
      guarded s (!r.write && data.length == 64 * slotsOf r.addr r.len) fun _ =>
        answered s1 r.owner fun s => readReturned s r (slice data (r.addr % 64) r.len)
  else .refused (.illFormed "a read returns 1 to 32 slots of 64 bytes")

/-! ## Writes -/

/-- A write has returned. -/
def writeReturned (s : State) (r : MemReq) : State :=
  match r.owner with
  | .slot c e i =>
    if memBusy s (· == r.owner) then s else modTile s c e fun t => { t with fill := updAt i (fun _ => true) t.fill }
  | .tile c e => onTile s c e fun s t => again (sealTile s t) t commitOn
  | .out c e _ => onTile s c e sealTile
  | .step c _ => advanceStep s c
  | .saveWrite c n => if memBusy s (· == r.owner) then s else leavePreempting s c n
  | _ => s

/-- MEM_WRITE_RESPONSE. -/
def execMemWriteResponse (tag : BitVec 12) (s : State) : Res :=
  match takeReq s tag with
  | none => finish s s
  | some (r, s1) => guarded s r.write fun _ => answered s1 r.owner fun s => writeReturned s r

/-! ## Errors (R339) -/

/-- The tile-path descriptor of a tile ends with BUS_ERROR. -/
def failTile (s : State) (c : CtxId) (e : BitVec 16) : State := onTile s c e fun s t => failTp s c t.c stBus

/-- What the requesting unit does; what else it was reading is given up. -/
def unitError (s : State) (o : MemOwner) : State :=
  match o with
  | .stage c e _ | .slot c e _ | .tile c e | .out c e _ | .sel c e _ | .set c e | .comb c e _ => failTile s c e
  | .check c k => checkFailed s c k
  | .prep c => stageBus s c
  | .mover ch | .moverRead ch => failRun (killReads s (· == .moverRead ch)) ch stBus
  | .table c => tableFailed s c
  | .model => modelFailed s
  | .crit => critFailed s
  | .serve n => serveFailed s n
  | .bias c => updateFailed s c
  | .step c _ => advanceStep (modCtx s c fun x => { x with building := x.building.map fun b => { b with failed := true } }) c
  | .hot i => modDir s i fun e => { e with failed := true }
  | .undo c => match inProgress (s.ctx c) with
    | some j => failTp s c j.c stBus
    | none => s
  | .saveWrite c _ | .saveRead c | .stats c => faultCtx s c stBus none
  | .wait c =>
    match (s.ctx c).hold, holder (s.ctx c) 0x51 with
    | some (.epochWord _ _), some j => endWait s c j stBus 0
    | _, _ => s
  | .dmaRead ch b _ _ | .dmaWrite ch b => dmaFailed s ch b
  | .dmaDead ch => dmaBusErr s ch
  | .dead => s

/-- MEM_ERROR_RESPONSE. Whatever the engine does with the response, the write has failed in memory. -/
def execMemErrorResponse (tag : BitVec 12) (s : State) : Res :=
  match takeReq s tag with
  | none => finish s s
  | some (r, s1) =>
    guarded s s.on fun _ =>
      let s2 := if r.write then revertWrite s1 r else s1
      if s.eng == .locked then s2 else answered (memErr s2) r.owner fun s => unitError s r.owner

/-! ## HOST_BRIDGE_RESPONSE -/

/-- A host write takes effect; one issued before it to the same bytes takes none any more. -/
def landHost (s : State) (h : HostReq) : State :=
  { s with
    host := memWrite s.host h.addr h.data
    hostOut := s.hostOut.map fun k =>
      if k.write && k.addr == h.addr && k.len == h.len && (k.id - h.id).toNat ≥ 0x8000 then { k with data := [] } else k }

/-- A failed host write of the DMA: each 64-byte unit is old or new, freely (14 R326). -/
def revertHost (s : State) (h : HostReq) : State :=
  let kept := (indexed h.data).map fun (i, b) =>
    if Config.freeBit (s.fresh + i / 64) then b else memByte s.host (h.addr + i)
  { s with host := memWrite s.host h.addr kept, fresh := s.fresh + ceilDiv h.len 64 }

/-- host_err of a context (13 R317). -/
def hostError (s : State) (c : CtxId) : State := modCtx s c fun x => { x with hostErr := true }

/-- A write of diagnosis record `k` has succeeded; the last one sets written (17 R371). -/
def diagGood (s : State) (k : Nat) : State :=
  match lookup k s.st.diagPending with
  | none => s
  | some n =>
    if n ≤ 1 then { s with st := { s.st with diagPending := eraseKey k s.st.diagPending, diagWritten := true } }
    else { s with st := { s.st with diagPending := modKey k (· - 1) s.st.diagPending } }

/-- A write of diagnosis record `k` has failed: diag_err is set, and its other writes no longer count. -/
def diagBad (s : State) (k : Nat) : State :=
  if (lookup k s.st.diagPending).isSome then
    { s with st := { s.st with diagPending := eraseKey k s.st.diagPending, diagErr := true } }
  else s

/-- A host access has succeeded. -/
def hostGood (s : State) (h : HostReq) (data : List Byte) : State :=
  match h.owner with
  | .record c => modCtx s c fun x => { x with written := x.written + 1, recs := x.recs.drop 1, recBusy := false }
  | .diag k => diagGood s k
  | .dmaRead ch b second off => dmaArrived s ch b second off data
  | _ => s

/-- A host access has failed. -/
def hostBad (s : State) (o : HostOwner) : State :=
  match o with
  | .record c => hostError s c
  | .lastRecord c => hostError s c
  | .diag k => diagBad s k
  | .dmaRead ch b _ _ => dmaFailed s ch b
  | .dmaWrite ch b => dmaFailed s ch b
  | .dmaDead ch => dmaBusErr s ch
  | .dead => s

/-- The owner is a DMA channel. -/
def HostOwner.isDma : HostOwner → Bool
  | .dmaWrite _ _ => true
  | .dmaDead _ => true
  | _ => false

/-- The access is a write of a diagnosis record. -/
def HostOwner.isDiag : HostOwner → Bool
  | .diag _ => true
  | _ => false

/-- What the response for an access does. In SELFTEST the engine still takes those of a diagnosis record (17 R371); else
one that arrives while the units are stopped is discarded (15 R351, 16 R363). -/
def hostAnswered (s : State) (o : HostOwner) (f : State → State) : State :=
  if s.live then dropGot (settle (f s)) else if s.eng == .selftest && o.isDiag then f s else s

/-- The response for an outstanding access. -/
def hostReturned (s : State) (h : HostReq) (o : HostOutcome) : State :=
  let s1 := { s with hostOut := s.hostOut.filter fun k => k.id != h.id }
  match o with
  | .ok data => hostAnswered (if h.write then landHost s1 h else s1) h.owner fun s => hostGood s h data
  | _ =>
    hostAnswered (if h.write && h.owner.isDma then revertHost s1 h else s1) h.owner fun s => hostBad s h.owner

/-- The outcome fits the access: a read brings its bytes, a write none. -/
def outcomeFits (h : HostReq) : HostOutcome → Bool
  | .ok data => data.length == (if h.write then 0 else h.len)
  | _ => true

/-- HOST_BRIDGE_RESPONSE (DEDUCED, notes/assumptions/44.md). -/
def execHostBridgeResponse (id : BitVec 16) (outcome : HostOutcome) (s : State) : Res :=
  if Instr.wf (.hostBridgeResponse id outcome) then
    match s.hostOut.find? fun h => h.id == id with
    | none => finish s s
    | some h => guarded s (outcomeFits h outcome) fun s => hostReturned s h outcome
  else .refused (.illFormed "a host access moves at most 4096 bytes")

end Sys2Proof.Machine
end

