-- ==== Sys2Proof/Machine/RegMap.lean ====
section
/-!
DEFINITION. The set-up window (19 R387): every register, by name, and the offset at which it stands. A 64-bit value that is
read as LO and HI with a latch (R388) is a `Pair`.
-/
namespace Sys2Proof.Machine

/-- Beat counts of a slice page (19 R397). -/
inductive SliceCount where
  | beats | stream | stall | fill | swap
  deriving DecidableEq, Repr

/-- 64-bit values of a DMA register set (14, channel page). -/
inductive DmaField where
  | src | dst | len | fill
  deriving DecidableEq, Repr

/-- The values read by the latch of R388. -/
inductive Pair where
  | tick
  | slotCtr (n : Fin 8)
  | beatTick
  | paceShort
  | tdc
  | telEng (n : Fin 10)
  | telCtx (c : CtxId) (n : Fin 34)
  | ctxSave (c : CtxId)
  | ctxStep (c : CtxId)
  | ctxAcct (c : CtxId) (n : Fin 8)
  | sliceCount (s : SliceId) (k : SliceCount)
  | dmaProg (ch : ChanId)
  | dmaResidue (ch : ChanId)
  | dmaBytes (ch : ChanId)
  | dmaSet (ch : ChanId) (shadow : Bool) (f : DmaField)
  deriving DecidableEq, Repr

/-- Registers of a context page, the latched pairs apart. -/
inductive CtxReg where
  | state | ctl | coreset (m : Fin 3) | spillmask | epoch | grp | grpStat | mode
  | regWin (x : Fin 3) | regBudget (x : Fin 3) | regStat | acctWrap
  | winBaseLo (w : Fin 4) | winBaseHi (w : Fin 4) | winLimitLo (w : Fin 4) | winLimitHi (w : Fin 4)
  | sqBaseLo | sqBaseHi | cqBaseLo | cqBaseHi | dbLo | dbHi | ringSize | poll | sqFetched | cqWritten | ringStat
  | grpPeer (l : Fin 16)
  deriving DecidableEq, Repr

/-- Every register of the window. -/
inductive SetupReg where
  | lo (p : Pair) | hi (p : Pair)
  | id | arithRev | fwVersion | caps | engState | fuseMap | chipId | hotsetStat | hotsetDir | adaptCtl
  | schedCtl | schedLimit | schedStat | coreWdog | coreFail (m : Fin 3) | portErr
  | stStatus | stFail | stSuspect | stDetail (n : Fin 11) | stSram (s : Fin 8) | stTime | stDiagLo | stDiagHi
  | stDiagStat | fwEcc | seedAddr | seedData
  | secEnv (n : Fin 14) | secCmd | secResult | secPolicy | secAlarm | secVcount (n : Fin 2) | secAuth
  | slotStat (n : Fin 8) | slotKcv (n : Fin 8)
  | beatWin (s : Fin 8) | detSummary | tdcCtl | tdcKind (n : Fin 8)
  | sensorRail | sensorTemp (n : Fin 4) | sensorFlags | current | throttle
  | telEngWrap | telCtl | coreqStat (p : PortId) | coreqLoad (p : PortId) | coreqCommit (p : PortId)
  | telCtxWrapLo (c : CtxId) | telCtxWrapHi (c : CtxId)
  | ctx (c : CtxId) (r : CtxReg)
  | sliceCtl (s : SliceId) | sliceStat (s : SliceId) | sliceShare (s : SliceId)
  | dmaCtl (ch : ChanId) | dmaStat (ch : ChanId) | dmaEvents (ch : ChanId)
  | dmaDesc (ch : ChanId) (shadow : Bool) | dmaSqc (ch : ChanId) (shadow : Bool)
  | sporeCtl | sporeCoreset (m : Fin 3) | sporeStreams
  | peerCfg (n : Fin 32) | peerStat (n : Fin 32) | peerLoad (n : Fin 32) | peerResend (n : Fin 32)
  | portBadrx (p : Fin 8) | portResend (p : Fin 8)
  | tblSel | tblStat | tblBank (b : Fin 2) | tblBankEpoch (b : Fin 2) | tblData (i : Fin 16)
  deriving DecidableEq, Repr

/-- The register number `o` of a run of `n` registers that begin at `base`, `stride` bytes apart. -/
def runIndex (o base stride n : Nat) : Option Nat :=
  if base ≤ o && o < base + stride * n && (o - base) % stride == 0 then some ((o - base) / stride) else none

/-- The first that is a register. -/
def firstReg {α : Type} : List (Option α) → Option α
  | [] => none
  | some r :: _ => some r
  | none :: rest => firstReg rest

/-- A run of registers. -/
def regRun {α : Type} (o base stride n : Nat) [NeZero n] (f : Fin n → α) : Option α :=
  (runIndex o base stride n).map fun i => f (Fin.ofNat n i)

/-- A run of latched pairs: LO at the base, HI 4 bytes above. -/
def pairRun (o base stride n : Nat) [NeZero n] (f : Fin n → Pair) : Option SetupReg :=
  firstReg [regRun o base stride n fun i => .lo (f i), regRun o (base + 4) stride n fun i => .hi (f i)]

/-- Global and identity page. -/
def globalReg (o : Nat) : Option SetupReg :=
  match o with
  | 0x000 => some .id | 0x004 => some .arithRev | 0x008 => some .fwVersion | 0x00C => some .caps
  | 0x010 => some .engState | 0x020 => some .fuseMap | 0x024 => some .chipId
  | 0x030 => some (.lo .tick) | 0x034 => some (.hi .tick)
  | 0x100 => some .hotsetStat | 0x104 => some .hotsetDir | 0x140 => some .adaptCtl
  | 0x180 => some .schedCtl | 0x184 => some .schedLimit | 0x188 => some .schedStat
  | 0x1A0 => some .coreWdog | 0x1A4 => some (.coreFail 0) | 0x1A8 => some (.coreFail 1) | 0x1AC => some (.coreFail 2)
  | 0x1B0 => some .portErr
  | _ => none

/-- Self-test page. -/
def selftestReg (o : Nat) : Option SetupReg :=
  match o with
  | 0x000 => some .stStatus | 0x004 => some .stFail | 0x008 => some .stSuspect | 0x080 => some .stTime
  | 0x084 => some .stDiagLo | 0x088 => some .stDiagHi | 0x08C => some .stDiagStat | 0x090 => some .fwEcc
  | 0x0C0 => some .seedAddr | 0x0C4 => some .seedData
  | _ => firstReg [regRun o 0x010 4 11 .stDetail, regRun o 0x040 4 8 .stSram]

/-- Security page. -/
def securityReg (o : Nat) : Option SetupReg :=
  match o with
  | 0x040 => some .secCmd | 0x044 => some .secResult | 0x048 => some .secPolicy | 0x04C => some .secAlarm
  | 0x060 => some .secAuth
  | _ => firstReg [regRun o 0x000 4 14 .secEnv, regRun o 0x050 4 2 .secVcount, regRun o 0x100 0x10 8 .slotStat,
      regRun o 0x104 0x10 8 .slotKcv, pairRun o 0x108 0x10 8 .slotCtr]

/-- Timing page. -/
def timingReg (o : Nat) : Option SetupReg :=
  match o with
  | 0x020 => some (.lo .beatTick) | 0x024 => some (.hi .beatTick) | 0x030 => some (.lo .paceShort)
  | 0x034 => some (.hi .paceShort) | 0x100 => some .detSummary | 0x104 => some .tdcCtl | 0x108 => some (.lo .tdc)
  | 0x10C => some (.hi .tdc) | 0x200 => some .sensorRail | 0x214 => some .sensorFlags | 0x220 => some .current
  | 0x224 => some .throttle
  | _ => firstReg [regRun o 0x000 4 8 .beatWin, regRun o 0x110 4 8 .tdcKind, regRun o 0x204 4 4 .sensorTemp]

/-- The block of one context in the telemetry page. -/
def telBlock (o : Nat) : Option SetupReg :=
  let c : CtxId := Fin.ofNat 16 (o / 0x400)
  let k := o % 0x400
  if k == 0x200 then some (.telCtxWrapLo c) else if k == 0x204 then some (.telCtxWrapHi c)
  else pairRun k 0 8 34 (.telCtx c)

/-- Telemetry page, from 0x0_4000. -/
def telemetryReg (o : Nat) : Option SetupReg :=
  if 0x1000 ≤ o then (if o < 0x5000 then telBlock (o - 0x1000) else none)
  else match o with
    | 0x200 => some .telEngWrap
    | 0x400 => some .telCtl
    | _ => firstReg [pairRun o 0 8 10 .telEng, regRun o 0x800 0x10 80 .coreqStat, regRun o 0x804 0x10 80 .coreqLoad,
        regRun o 0x808 0x10 80 .coreqCommit]

/-- Context page, without its pairs. -/
def ctxReg (o : Nat) : Option CtxReg :=
  match o with
  | 0x000 => some .state | 0x004 => some .ctl | 0x01C => some .spillmask | 0x028 => some .epoch | 0x030 => some .grp
  | 0x034 => some .grpStat | 0x040 => some .mode | 0x098 => some .regStat | 0x140 => some .acctWrap
  | 0x300 => some .sqBaseLo | 0x304 => some .sqBaseHi | 0x308 => some .cqBaseLo | 0x30C => some .cqBaseHi
  | 0x310 => some .dbLo | 0x314 => some .dbHi | 0x318 => some .ringSize | 0x31C => some .poll
  | 0x320 => some .sqFetched | 0x324 => some .cqWritten | 0x328 => some .ringStat
  | _ => firstReg [regRun o 0x010 4 3 .coreset, regRun o 0x080 8 3 .regWin, regRun o 0x084 8 3 .regBudget,
      regRun o 0x200 0x10 4 .winBaseLo, regRun o 0x204 0x10 4 .winBaseHi, regRun o 0x208 0x10 4 .winLimitLo,
      regRun o 0x20C 0x10 4 .winLimitHi, regRun o 0x400 4 16 .grpPeer]

/-- Context page. -/
def ctxPageReg (c : CtxId) (o : Nat) : Option SetupReg :=
  match o with
  | 0x008 => some (.lo (.ctxSave c)) | 0x00C => some (.hi (.ctxSave c))
  | 0x020 => some (.lo (.ctxStep c)) | 0x024 => some (.hi (.ctxStep c))
  | _ => firstReg [pairRun o 0x100 8 8 (.ctxAcct c), (ctxReg o).map (.ctx c)]

/-- Slice page. -/
def sliceReg (s : SliceId) (o : Nat) : Option SetupReg :=
  match o with
  | 0x000 => some (.sliceCtl s) | 0x004 => some (.sliceStat s) | 0x040 => some (.sliceShare s)
  | 0x010 => some (.lo (.sliceCount s .beats)) | 0x014 => some (.hi (.sliceCount s .beats))
  | 0x018 => some (.lo (.sliceCount s .stream)) | 0x01C => some (.hi (.sliceCount s .stream))
  | 0x020 => some (.lo (.sliceCount s .stall)) | 0x024 => some (.hi (.sliceCount s .stall))
  | 0x028 => some (.lo (.sliceCount s .fill)) | 0x02C => some (.hi (.sliceCount s .fill))
  | 0x030 => some (.lo (.sliceCount s .swap)) | 0x034 => some (.hi (.sliceCount s .swap))
  | _ => none

/-- One register set of a DMA channel page. -/
def dmaSetReg (ch : ChanId) (sh : Bool) (o : Nat) : Option SetupReg :=
  match o with
  | 0x00 => some (.dmaDesc ch sh) | 0x04 => some (.dmaSqc ch sh)
  | 0x08 => some (.lo (.dmaSet ch sh .src)) | 0x0C => some (.hi (.dmaSet ch sh .src))
  | 0x10 => some (.lo (.dmaSet ch sh .dst)) | 0x14 => some (.hi (.dmaSet ch sh .dst))
  | 0x18 => some (.lo (.dmaSet ch sh .len)) | 0x1C => some (.hi (.dmaSet ch sh .len))
  | 0x20 => some (.lo (.dmaSet ch sh .fill)) | 0x24 => some (.hi (.dmaSet ch sh .fill))
  | _ => none

/-- DMA channel page. -/
def dmaReg (ch : ChanId) (o : Nat) : Option SetupReg :=
  if 0x80 ≤ o then dmaSetReg ch true (o - 0x80)
  else if 0x40 ≤ o then dmaSetReg ch false (o - 0x40)
  else match o with
    | 0x00 => some (.dmaCtl ch) | 0x04 => some (.dmaStat ch) | 0x18 => some (.dmaEvents ch)
    | 0x08 => some (.lo (.dmaProg ch)) | 0x0C => some (.hi (.dmaProg ch))
    | 0x10 => some (.lo (.dmaResidue ch)) | 0x14 => some (.hi (.dmaResidue ch))
    | 0x20 => some (.lo (.dmaBytes ch)) | 0x24 => some (.hi (.dmaBytes ch))
    | _ => none

/-- Spore page. -/
def sporeReg (o : Nat) : Option SetupReg :=
  match o with
  | 0x000 => some .sporeCtl | 0x020 => some .sporeStreams
  | _ => firstReg [regRun o 0x010 4 3 .sporeCoreset, regRun o 0x100 0x10 32 .peerCfg, regRun o 0x104 0x10 32 .peerStat,
      regRun o 0x108 0x10 32 .peerLoad, regRun o 0x10C 0x10 32 .peerResend, regRun o 0x400 0x10 8 .portBadrx,
      regRun o 0x404 0x10 8 .portResend]

/-- Table windows. -/
def tableReg (o : Nat) : Option SetupReg :=
  match o with
  | 0x000 => some .tblSel | 0x004 => some .tblStat
  | _ => firstReg [regRun o 0x010 8 2 .tblBank, regRun o 0x014 8 2 .tblBankEpoch, regRun o 0x040 4 16 .tblData]

/-- The register at an offset of the window; none where the offset is undefined. -/
def regAt (o : Nat) : Option SetupReg :=
  if o < 0x1000 then globalReg o
  else if o < 0x2000 then selftestReg (o - 0x1000)
  else if o < 0x3000 then securityReg (o - 0x2000)
  else if o < 0x4000 then timingReg (o - 0x3000)
  else if o < 0x10000 then telemetryReg (o - 0x4000)
  else if o < 0x20000 then ctxPageReg (Fin.ofNat 16 ((o - 0x10000) / 0x1000)) (o % 0x1000)
  else if o < 0x28000 then sliceReg (Fin.ofNat 8 ((o - 0x20000) / 0x1000)) (o % 0x1000)
  else if o < 0x30000 then none
  else if o < 0x31000 then dmaReg (Fin.ofNat 16 ((o - 0x30000) / 0x100)) (o % 0x100)
  else if o < 0x40000 then none
  else if o < 0x41000 then sporeReg (o - 0x40000)
  else if o < 0x50000 then none
  else if o < 0x51000 then tableReg (o - 0x50000)
  else none

/-- Offset of a register of a context page. -/
def ctxOff (c : CtxId) (o : Nat) : Nat := 0x10000 + 0x1000 * c.val + o

/-- Offset of a register of a DMA channel page. -/
def dmaOff (ch : ChanId) (o : Nat) : Nat := 0x30000 + 0x100 * ch.val + o

end Sys2Proof.Machine
end

