-- ==== Sys2Proof/Machine/Time.lean ====
section
/-!
DEFINITION. The passing of ticks (15 R346).
-/
namespace Sys2Proof.Machine

/-- The tick count becomes `t`: the ticks between are charged to the contexts' accounting (12 R290); in LOCKED every
register keeps its value (16 R363) (DESIGN CHOICE, notes/assumptions/4.md). -/
def passTo (s : State) (t : BitVec 64) : State :=
  let n := (t - s.tick).toNat
  let s1 := { s with tick := t }
  if !s.live then s1 else
  (fins 16).foldl (fun s c =>
    match (s.ctx c).state with
    | .queued => acctAdd s c 0 n
    | .running => acctAdd s c 1 n
    | .preempting => acctAdd s c 1 n
    | _ => s) s1

/-- Nothing is commanded: one tick passes. -/
def idleTick (s : State) : State := passTo s (s.tick + 1)

end Sys2Proof.Machine
end

