-- ==== Sys2Proof/Machine/Startup.lean ====
section
/-!
DEFINITION. Start-up, self-test, reset and power: entry to OFF and SELFTEST (01 R26 to R28, 15 R350, R351, 17 R366 to
R370), sensors and the timebase (15 R346, R347), beat windows and pacing (01 R11, R14, 19 R393), current steps (15 R349,
17 R377, R378) and the instruction store's errors (17 R376).
-/
namespace Sys2Proof.Machine

/-! ## OFF (01 R28, 15 R351) -/

/-- Host accesses already issued complete without anyone waiting for them. -/
def orphanHost (s : State) : List HostReq := s.hostOut.map fun h => { h with owner := .dead }

/-- The engine in OFF: nothing of its state is left but the RWS registers; the key store is zero (16 R360). What lies
outside the engine stays (DEDUCED, notes/assumptions/44.md). -/
def offState (s : State) : State :=
  { State.reset with
    pending := s.pending, tick := s.tick, pins := s.pins, heldMap := s.heldMap, chip := s.chip, host := s.host
    hostOut := orphanHost s, nextHost := s.nextHost, outbox := s.outbox, fresh := s.fresh
    sec := { State.reset.sec with
      firstSource := s.sec.firstSource, vcount := s.sec.vcount }
    st := { State.reset.st with diag := s.st.diag }
    inReset := true }

/-- RESET_ASSERT, held for `ticks`: shorter than 100 ticks it takes effect in full or not at all, freely
(notes/assumptions/1.md). -/
def execResetAssert (ticks : Nat) (s : State) : Res :=
  if Instr.wf (.resetAssert ticks) then
    if 100 ≤ ticks then finish s (offState s)
    else
      let s1 := { s with fresh := s.fresh + 1 }
      finish s (if Config.freeBit s.fresh then offState s1 else s1)
  else .refused (.illFormed "reset is asserted for at least one tick")

/-- RESET_RELEASE, with the fuse input as it then stands; a map that the fuse logic holds stays (15 R350)
(DESIGN CHOICE, notes/assumptions/5.md). -/
def execResetRelease (pins : FusePins) (s : State) : Res :=
  guarded s s.inReset fun s =>
    { s with inReset := false, pins := { pins with disabledMap := s.heldMap.getD pins.disabledMap } }

/-- POWER_OFF: every register is lost, the RWS ones too, and the fuse logic's map with them
(DEDUCED, notes/assumptions/44.md). -/
def execPowerOff (s : State) : Res :=
  finish s { State.reset with
    inReset := s.inReset, tick := s.tick, pins := { s.pins with disabledMap := 0 }, chip := s.chip, host := s.host
    hostOut := orphanHost s, nextHost := s.nextHost, outbox := s.outbox, fresh := s.fresh }

/-! ## Sensors (15 R347) -/

/-- VDD_NDE from 680 to 850 mV. -/
def ndeIn (r : SensorRec) : Bool := 680 ≤ r.vddNde.toNat && r.vddNde.toNat ≤ 850
/-- VDD_NSRAM from 720 to 780 mV. -/
def nsramIn (r : SensorRec) : Bool := 720 ≤ r.vddNsram.toNat && r.vddNsram.toNat ≤ 780
/-- Every junction temperature from 25 to 105 °C, in units of 0.25 °C, signed. -/
def tempsIn (r : SensorRec) : Bool := r.temps.toList.all fun t => 100 ≤ t.toInt && t.toInt ≤ 420
/-- Both rails are in range. -/
def railsIn (r : SensorRec) : Bool := ndeIn r && nsramIn r
/-- Every value is in range. -/
def allIn (r : SensorRec) : Bool := railsIn r && tempsIn r

/-- 15 R349: the largest current, in 0.5 A units, that gives 55 W at the latest VDD_NDE. -/
def ceiling (s : State) : Nat := 110000 / s.sensor.latest.vddNde.toNat

/-- Ticks throttled up to now, saturating. -/
def throttleNow (s : State) : Nat :=
  min (2 ^ 32 - 1) (s.power.throttle.toNat + match s.power.throttledSince with | some t => s.since t | none => 0)

/-- What the engine may draw: the grant it has seen, under the ceiling. -/
def drawLimit (s : State) : Nat := min s.power.grant.toNat (ceiling s)

/-- The ticks throttled up to now are counted, and the engine throttles from now on where its limit lies below its
need. -/
def throttling (s : State) : State :=
  { s with power := { s.power with
    throttle := BitVec.ofNat 32 (throttleNow s)
    throttledSince := if drawLimit s < s.power.need.toNat then some s.tick else none } }

/-- The power ceiling holds for the estimate and the request. -/
def underCeiling (s : State) : State :=
  let m := fun (b : BitVec 8) => BitVec.ofNat 8 (min b.toNat (ceiling s))
  throttling { s with power := { s.power with req := m s.power.req, estimate := m s.power.estimate } }

/-- A record is published, and what is out of range sets its flag. -/
def publishRecord (s : State) (r : SensorRec) : State :=
  let f := s.sensor
  underCeiling { s with sensor := { f with
    latest := r, lastTick := s.tick, gap := false
    ndeOor := f.ndeOor || !ndeIn r, nsramOor := f.nsramOor || !nsramIn r, tempOor := f.tempOor || !tempsIn r } }

/-! ## Entry to SELFTEST (01 R26, 17 R366, R370) -/

/-- Slice bits that take part under a fuse sample. -/
def enabledBits (s : State) : BitVec 8 := ~~~(s.fuse.sliceFused ||| s.fuse.disabledMap)

/-- Self-test overwrites the 72 MiB of SRAM: tables, stores, queues and buffers are empty
(DEDUCED, notes/assumptions/17.md). -/
def wipeSram (s : State) : State :=
  { s with
    tiles := [], ready := [], frames := [], rowHolds := [], sporeWriters := [], seqs := [], owner := [], dir := [], hotq := []
    got := s.got.filter fun g => g.1 == .crit
    lanes := [], rxPast := []
    banks := vmap (fun b => { b with entries := [], busy := false }) s.banks
    queues := vmap (fun _ => coreQReset) s.queues
    slices := vmap (fun l => { l with active := none, shadow := none }) s.slices
    ctxs := vmap (fun x => { x with stats := [], reductions := [], updates := [], groupLost := false }) s.ctxs }

/-- The engine enters SELFTEST: it samples the fuse input, ends every Basol stream, unsets every floor (07 R166), restores
every core port (15 R343) and has no request of its own in flight but those of the security unit (DESIGN CHOICE,
notes/assumptions/5.md). -/
def enterSelftest (s : State) (fromOff : Bool) : State :=
  let s1 := wipeSram (dropStreams { s with eng := .selftest })
  { s1 with
    fuse := s.pins, quiesce := .none, dm := ⟨false, s.dm.data⟩, floors := [], coreFail := 0
    memWait := s1.memWait.filter fun r => r.owner == .crit
    memOut := s1.memOut.map fun r => if r.owner == .crit then r else { r with owner := .dead }
    beatFrom := if fromOff then s.tick else s1.beatFrom
    sched := { s1.sched with scored := false }
    st := { s1.st with
      step := 1, safeCause := 0, entry := s.tick, stepFrom := s.tick, fromOff := fromOff, keyStepPending := true, eccHit := false
      oor := !allIn s.sensor.latest || s.sensor.gap, oorCal := false
      passed := false, failSteps := 0, suspect := 0, tested := enabledBits { s with fuse := s.pins }
      details := Vector.replicate 11 0, sram := Vector.replicate 8 0, time := 0 }
    slices := vmap (fun x => { x with suspect := false }) s1.slices }

/-- The moment lies in step 2 of the self-test in progress, which follows the 10,000 ticks of step 1 and lasts 2,097,152
(R366) (DEDUCED, notes/assumptions/18.md). -/
def inCalibration (s : State) : Bool := 10000 ≤ testTicks s && testTicks s < 2107152

/-- Rails or temperatures have been out of range during the self-test in progress, and during its step 2. -/
def testOor (s : State) (out : Bool) : State :=
  if s.eng == .selftest then
    { s with st := { s.st with oor := s.st.oor || out, oorCal := s.st.oorCal || (out && inCalibration s) } }
  else s

/-- SENSOR_RECORD: an engine in OFF, with reset released, leaves for SELFTEST at the first record with both rails in
range. -/
def execSensorRecord (rec : SensorRec) (s : State) : Res :=
  if s.eng == .off then guarded s (!s.inReset && railsIn rec) fun s => enterSelftest (publishRecord s rec) true
  else finish s (testOor (publishRecord s rec) (!allIn rec))

/-- SENSOR_STALE: 10 µs have passed without a record, and every rail counts as out of range. -/
def execSensorStale (s : State) : Res :=
  guarded s (s.on && !s.sensor.gap && 10000 ≤ s.since s.sensor.lastTick) fun s =>
    testOor { s with sensor := { s.sensor with stale := true, gap := true, ndeOor := true, nsramOor := true } } true

/-! ## The self-test (17 R366 to R369) -/

/-- A slot whose stored kcv differs from its key's. -/
def kcvWrong (k : KeySlot) : Bool := k.valid && kcvOf k.key != k.kcv

/-- NDE_ST_DETAIL of step 10: the slots that differ are its failing cases. -/
def keyDetail (s : State) : BitVec 32 :=
  let bad := (indexed s.slots.toList).filter fun p => kcvWrong p.2
  match bad with
  | [] => 0
  | p :: _ => BitVec.ofNat 32 (p.1 <<< 8 + bad.length <<< 24)

/-- SELFTEST_KEY_STORE_STEP_END, no sooner than the fixed ticks of steps 1, 2 and 10 allow (R366): the march from OFF
leaves every slot zero; on any other entry a slot whose kcv differs is zeroed and the step fails. Then the provisioning
writes that wait land (DEDUCED, notes/assumptions/18.md). -/
def execSelftestKeyStoreStepEnd (s : State) : Res :=
  guarded s (s.eng == .selftest && s.st.keyStepPending && 2157152 ≤ testTicks s) fun s =>
    let d := if s.st.fromOff then 0 else keyDetail s
    let s1 := if s.st.fromOff then zeroSlots { s with sec := { s.sec with erasing := false } }
      else { s with slots := vmap (fun k => if kcvWrong k then keySlotReset else k) s.slots }
    let s2 := { s1 with st := { s1.st with keyStepPending := false, step := 10, details := s1.st.details.set 9 d } }
    if provHeld s2 then s2 else provisionAll s2

/-- slices of a detail word -/
def detSlices (d : BitVec 32) : BitVec 8 := d.extractLsb' 0 8

/-- A detail word with more failing slices. -/
def addSlices (d : BitVec 32) (m : BitVec 8) : BitVec 32 :=
  let fails := min 255 ((d.extractLsb' 24 8).toNat + popcountN m.toNat 8)
  BitVec.ofNat 32 ((detSlices d ||| m).toNat + (d.extractLsb' 8 16).toNat <<< 8 + fails <<< 24)

/-- A detail word with at least one failing case. -/
def someFail (d : BitVec 32) : BitVec 32 := if d.extractLsb' 24 8 == 0 then d ||| 0x01000000 else d

/-- Twice the median of a list of rates. -/
def medianTwice (rs : List Nat) : Nat :=
  let q := sortBy (· < ·) rs
  q.getD ((q.length - 1) / 2) 0 + q.getD (q.length / 2) 0

/-- 17 R367: slices below 1.10 G beats/s or below 85 % of the median of the enabled slices. -/
def slowSlices (s : State) (rates : Vector (BitVec 16) 8) : BitVec 8 :=
  let m := medianTwice ((enabledSlices s).map fun i => rates[i].toNat)
  (enabledSlices s).foldl (fun b i =>
    let r := rates[i].toNat
    if r < 1100 || 200 * r < 85 * m then bvSetBit b i.val true else b) 0

/-- A detail word without the disabled slices, which are neither tested nor counted (R366); in steps 2 to 8 a case lies in
a slice. -/
def ofEnabled (s : State) (step : Nat) (d : BitVec 32) : BitVec 32 :=
  let m := detSlices d &&& enabledBits s
  if 2 ≤ step && step ≤ 8 && m == 0 then 0 else (d &&& ~~~ 0xFF#32) ||| m.setWidth 32

/-- The detail words of the self-test, from what its steps measured; step 10 measures a march on an entry from OFF alone,
else its word is that of the kcv check (R369) (DEDUCED, notes/assumptions/18.md). -/
def testDetails (s : State) (r : SelfTestResult) : Vector (BitVec 32) 11 :=
  let ds := Vector.ofFn fun i : Fin 11 => ofEnabled s (i.val + 1) r.details[i]
  let slow := if s.st.oorCal then 0 else slowSlices s r.rates
  let d1 := if s.st.oor then someFail ds[0] else 0
  let d10 := if s.st.fromOff then ds[9] else s.st.details[9]
  let d11 := if s.st.eccHit then someFail ds[10] else if s.fw.valid then ds[10] else 0
  ((((ds.set 0 d1).set 1 (if slow == 0 then ds[1] else addSlices ds[1] slow)).set 9 d10).set 10 d11)

/-- Bit n − 1: step n failed. -/
def failedSteps (d : Vector (BitVec 32) 11) : BitVec 11 :=
  (fins 11).foldl (fun b i => if d[i].extractLsb' 24 8 == 0 then b else bvSetBit b i.val true) 0

/-- A failing case in steps 2 to 8 marks its slice. -/
def suspects (s : State) (d : Vector (BitVec 32) 11) : BitVec 8 :=
  (((fins 11).filter fun i => 1 ≤ i.val && i.val ≤ 7 && d[i].extractLsb' 24 8 != 0).foldl
    (fun b i => b ||| detSlices d[i]) 0) &&& enabledBits s

/-- The log of the self-test (DEDUCED, notes/assumptions/18.md). -/
def logTest (s : State) (r : SelfTestResult) : State :=
  let d := testDetails s r
  let bad := suspects s d
  let st := s.st
  { s with
    st := { st with
      details := d
      sram := Vector.ofFn fun i : Fin 8 => if sliceOn s i then r.sram[i] &&& 0x00FFFFFF#32 else 0
      failSteps := failedSteps d, suspect := bad, tested := enabledBits s
      rates := Vector.ofFn fun i : Fin 8 => if sliceOn s i then r.rates[i] else 0
      step := if s.fw.valid then 11 else 10, time := BitVec.ofNat 32 (s.since st.entry), passed := false }
    slices := Vector.ofFn fun i : Fin 8 => { s.slices[i] with suspect := bvBit bad i.val } }

/-- Self-test passes when no step fails and at least five slices are enabled (DEDUCED, notes/assumptions/18.md). -/
def testPasses (s : State) : Bool := s.st.failSteps == 0 && 5 ≤ (enabledSlices s).length

/-- safe_cause of a self-test that fails: 4 precedes the others; where a step failed and fewer than five slices are
enabled, which of 1 and 2 it shows is free (notes/assumptions/1.md). -/
def failCause (s : State) : Nat :=
  if s.st.eccHit then 4
  else if 5 ≤ (enabledSlices s).length then 1
  else if s.st.failSteps == 0 then 2
  else if Config.freeBit s.fresh then 1 else 2

/-- The last step can have ended: step 10, or, with an image, the 500,000 ticks of step 11 after it (R366). -/
def testOver (s : State) : Bool := !s.st.keyStepPending && (!s.fw.valid || 2657152 ≤ testTicks s)

/-- SELFTEST_COMPLETE: the engine enters READY, or SAFE with its diagnosis record. -/
def execSelftestComplete (result : SelfTestResult) (s : State) : Res :=
  guarded s (s.eng == .selftest && testOver s) fun s =>
    let s1 := logTest s result
    if testPasses s1 then { s1 with eng := .up, st := { s1.st with passed := true } }
    else enterSafe { s1 with fresh := s1.fresh + 1 } (failCause s1)

/-! ## The quiesce (17 R370, 15 R350) -/

/-- DM_ACK: the fuse logic has taken the map and holds it (DESIGN CHOICE, notes/assumptions/5.md). -/
def execDmAck (s : State) : Res :=
  guarded s (s.live && s.quiesce == .map) fun s =>
    { s with dm := ⟨false, s.dm.data⟩, heldMap := some s.dm.data, pins := { s.pins with disabledMap := s.dm.data }
             quiesce := .drain }

/-- A context's drain has ended, and no descriptor that a drain lets run on is left (DEDUCED, notes/assumptions/17.md). -/
def quiet (x : Ctx) : Bool := !x.drainBusy && !atWork x && x.state != .queued && x.dealt.all fun d => d.2.boundary

/-- Every drain has ended (DEDUCED, notes/assumptions/17.md). -/
def quiesced (s : State) : Bool :=
  s.quiesce == .drain && s.ctxs.toList.all quiet && s.memWait.all fun r => r.owner == .crit

/-- QUIESCE_DONE: every context outside FREE is reset, the hot set emptied, and SELFTEST entered
(DEDUCED, notes/assumptions/17.md). -/
def execQuiesceDone (s : State) : Res :=
  guarded s (s.live && quiesced s) fun s =>
    enterSelftest ((fins 16).foldl (fun s c => if isFree s c then s else resetCtx s c) s) false

/-! ## The instruction store (17 R376) -/

/-- INSTRUCTION_STORE_ERROR. -/
def execInstructionStoreError (kind : EccKind) (s : State) : Res :=
  guarded s (s.on && s.eng != .locked) fun s =>
    match kind with
    | .single => { s with fw := { s.fw with corrected := satInc s.fw.corrected } }
    | .double =>
      let s1 := { s with fw := { s.fw with valid := false, version := 0, image := [] } }
      if s.eng == .selftest then { s1 with st := { s1.st with eccHit := true } } else settle (enterSafe s1 4)

/-! ## The timebase (15 R346) -/

/-- A tick of a measurement or a timeout in progress is taken anew. -/
def retimeCtx (t : BitVec 64) (x : Ctx) : Ctx :=
  { x with
    lastEpoch := x.lastEpoch.map fun _ => t
    lastPoll := x.lastPoll.map fun _ => t
    hold := x.hold.map fun h => match h with
      | .epochOwner tag r => .epochOwner tag (r.map fun _ => t)
      | .epochWord r _ => .epochWord r t
      | h => h
    reductions := x.reductions.map fun r => { r with since := t } }

/-- The same for a gather channel. -/
def retimeGather (t : BitVec 64) (g : GatherChan) : GatherChan :=
  { g with run := g.run.map fun r => { r with
      waiting := r.waiting.map fun _ => t
      reqs := r.reqs.map fun q => { q with retryAt := q.retryAt.map fun _ => t } } }

/-- The same for a tile; the rate of a slice is measured anew, from no beats (03 R57). -/
def retimeTile (t : BitVec 64) (x : Tile) : Tile :=
  { x with missTick := t, bucketTick := t, scoreFrom := vmap (fun f => f.map fun _ => t) x.scoreFrom
           streamed := vmap (fun _ => 0) x.streamed }

/-- The same for the streams. -/
def retimeTx (t : BitVec 64) (x : TxStream) : TxStream :=
  { x with heardAt := t, idleSince := t, unacked := x.unacked.map fun b => { b with born := t, sentAt := t } }

/-- The same for an inbound stream. -/
def retimeRx (t : BitVec 64) (x : RxStream) : RxStream :=
  { x with lastBlock := t, nak := x.nak.map fun n => (n.1, t) }

/-- A DMA limiter keeps its distance to the slot it waits for (14 R324). -/
def retimeDma (old new : Nat) (d : DmaChan) : DmaChan := { d with nextSlot := d.nextSlot - 160 * old + 160 * new }

/-- The same for what runs in every state but OFF: the beat window, the last operands, a throttle and a ramp. The steps of
a self-test in progress keep the ticks they have had (DEDUCED, notes/assumptions/19.md). -/
def retimeOn (s : State) (t : BitVec 64) : State :=
  { s with
    tick := t
    beatFrom := t
    sensor := { s.sensor with timebaseErr := true, lastTick := t }
    st := { s.st with stepFrom := t - (s.tick - s.st.stepFrom) }
    power := { s.power with
      throttledSince := s.power.throttledSince.map fun _ => t, lastOperand := vmap (fun _ => t) s.power.lastOperand
      ramp := s.power.ramp.map fun r => (r.1, t) } }

/-- Every measurement and timeout in progress starts again from the new value (DEDUCED, notes/assumptions/19.md). -/
def retime (s : State) (t : BitVec 64) : State :=
  let s1 := retimeOn s t
  { s1 with
    ctxs := vmap (retimeCtx t) s.ctxs
    sched := { s.sched with runSince := t, preemptSince := t }
    tiles := s.tiles.map (retimeTile t)
    queues := vmap (fun q => { q with packets := q.packets.map fun k => { k with since := t } }) s.queues
    gather := vmap (retimeGather t) s.gather
    dma := vmap (retimeDma s.tick.toNat t.toNat) s.dma
    tx := s.tx.map (retimeTx t)
    rx := s.rx.map (retimeRx t)
    rxWait := s.rxWait.map fun w => { w with lastFrame := t }
    st := { s1.st with entry := t } }

/-- The sample lies below the one before or more than 2^20 above it (DEDUCED, notes/assumptions/19.md). -/
def jumped (old new : BitVec 64) : Bool := new.toNat < old.toNat || old.toNat + 2 ^ 20 < new.toNat

/-- TIMEBASE_STEP: a sample of the timebase. One that neither steps back nor jumps is the passing of its ticks. In LOCKED
every unit stands still, and only what runs there too starts again (16 R363) (DEDUCED, notes/assumptions/19.md). -/
def execTimebaseStep (sample : BitVec 64) (s : State) : Res :=
  finish s (if s.eng == .off then { s with tick := sample }
    else if !jumped s.tick sample then passTo s sample
    else if s.eng == .locked then retimeOn s sample
    else retime s sample)

/-! ## Beat windows and pacing (01 R11, R14, 19 R393, R394) -/

/-- A slice at the end of a window with `n` beats: those that BEATS has not counted as they came are counted now. -/
def closeWindow (x : Slice) (n : Nat) : Slice :=
  let all := max n x.seen.toNat
  { x with beatWin := BitVec.ofNat 32 all, beats := x.beats + BitVec.ofNat 64 (all - x.seen.toNat), seen := 0 }

/-- BEAT_WINDOW_END: the 65,536 ticks of the window have passed; its counts, with its closing tick, which begins the next
one; a disabled slice reads 0. In LOCKED the registers keep their values (16 R363)
(DESIGN CHOICE, notes/assumptions/7.md). -/
def execBeatWindowEnd (beats : Vector (BitVec 32) 8) (s : State) : Res :=
  guarded s (s.on && s.eng != .locked && 65536 ≤ s.since s.beatFrom) fun s =>
    { s with
      beatTick := s.beatFrom + 65536, beatFrom := s.beatFrom + 65536
      slices := Vector.ofFn fun i : Fin 8 => closeWindow s.slices[i] (if sliceOn s i then beats[i].toNat else 0) }

/-- 11 R255: the stages are paced, since the running context has PACE set. -/
def paced (s : State) : Bool := match s.running with | some c => (s.ctx c).pace | none => false

/-- PACE_CREDIT: `lost` credits that stages could not use in time (DESIGN CHOICE, notes/assumptions/7.md). -/
def execPaceCredit (lost : BitVec 32) (s : State) : Res :=
  guarded s (s.up && paced s) fun s => { s with paceShort := s.paceShort + lost.setWidth 64 }

/-! ## Current steps (15 R349, 17 R377, R378) -/

/-- The next request: at most 16 above the grant, once the grant equals the last request, and never above the ceiling
(DEDUCED, notes/assumptions/43.md). -/
def nextRequest (s : State) (grant need : BitVec 8) : BitVec 8 :=
  if grant == s.power.req && grant.toNat < need.toNat then
    BitVec.ofNat 8 (min (ceiling s) (min need.toNat (grant.toNat + 16)))
  else s.power.req

/-- CURRENT_GRANT: the grant seen, and the units that the stages' work needs. Where they need less than the estimate,
fillers hold the draw, which a ramp alone, or the limit, lowers (17 R377) (DEDUCED, notes/assumptions/43.md). -/
def execCurrentGrant (grant : BitVec 8) (need : BitVec 8) (s : State) : Res :=
  guarded s s.on fun s =>
    let p := s.power
    throttling { s with power := { p with
      grant := grant, need := need, req := nextRequest s grant need
      estimate := BitVec.ofNat 8 (min (max need.toNat p.estimate.toNat) (min grant.toNat (ceiling s)))
      throttle := BitVec.ofNat 32 (throttleNow s), throttledSince := none
      ramp := if p.estimate.toNat < need.toNat then none else p.ramp } }

/-- A unit of an enabled slice has had no operand for the filler limit. -/
def idleUnit (s : State) : Bool :=
  (fins 24).any fun u => sliceOn s (Fin.ofNat 8 u.val) && 2000 ≤ s.since s.power.lastOperand[u]

/-- FILLER_LIMIT_EXPIRE: 2,000 ticks have passed since a unit's last operand, and a ramp begins at the present
estimate. -/
def execFillerLimitExpire (s : State) : Res :=
  guarded s (s.on && s.power.ramp.isNone && idleUnit s) fun s =>
    { s with power := { s.power with ramp := some (s.power.estimate, s.tick) } }

/-- The estimate after one µs of a ramp: no lower than before less 6 % of the estimate at its start
(DEDUCED, notes/assumptions/43.md). -/
def rampTo (p : Power) (e0 draw : BitVec 8) : BitVec 8 :=
  BitVec.ofNat 8 (min p.estimate.toNat (max draw.toNat (ceilDiv (100 * p.estimate.toNat - 6 * e0.toNat) 100)))

/-- RAMP_STEP: a µs of a ramp has passed, with the draw the units then have; the request follows the estimate down
(DEDUCED, notes/assumptions/43.md). -/
def execRampStep (draw : BitVec 8) (s : State) : Res :=
  match s.power.ramp with
  | none => finish s s
  | some (e0, t0) =>
    guarded s (s.on && 1000 ≤ s.since t0) fun s =>
      let e := rampTo s.power e0 draw
      { s with power := { s.power with
        estimate := e, req := if e.toNat < s.power.req.toNat then e else s.power.req, ramp := some (e0, s.tick) } }

end Sys2Proof.Machine
end

