-- ==== Sys2Proof/Machine/Flags.lean ====
section
/-!
DEFINITION. What the status and flag registers show: every bit is computed here from the state, and W1C bits are cleared
here (00 R6).
-/
namespace Sys2Proof.Machine

/-- A register put together: (lowest bit, value). -/
def bits (fs : List (Nat × Nat)) : Nat := fs.foldl (fun n (lo, v) => n + v <<< lo) 0

/-- One bit of a register: (place, value). -/
def flag (i : Nat) (b : Bool) : Nat × Nat := (i, b2n b)

/-- Bit n is `p n`. -/
def mask (n : Nat) (p : Fin n → Bool) : Nat := bits ((fins n).map fun i => flag i.val (p i))

/-- A W1C bit after a write: a 1 clears it. -/
def w1c (old : Bool) (w i : Nat) : Bool := old && !bitAt w i

/-- W1C bits `lo` upwards of a vector of bits, written as a word. -/
def w1cBits {n : Nat} (old : BitVec n) (w lo : Nat) : BitVec n := old &&& ~~~ BitVec.ofNat n (w <<< lo)

/-! ## Engine -/

/-- The engine state as published (19 R390); OFF is not seen. -/
def engCode (s : State) : Nat :=
  match s.eng with
  | .off => 0
  | .selftest => 1
  | .safe => 2
  | .up => if inRun s then 4 else 3
  | .locked => 5

/-- NDE_ENG_STATE -/
def engStateWord (s : State) : Nat := bits [(0, engCode s), (16, mask 16 (ctxActive s))]

/-- NDE_FUSE_MAP -/
def fuseWord (s : State) : Nat :=
  bits [(0, s.fuse.sliceFused.toNat), (8, s.fuse.disabledMap.toNat), (16, mask 8 (sliceOn s)), flag 24 s.fuse.engineId]

/-- NDE_PORT_ERR -/
def portErrWord (s : State) : Nat :=
  bits [flag 0 s.portErr.setup, flag 1 s.portErr.mem, flag 2 s.portErr.drainBad, flag 3 s.portErr.link]

/-- NDE_HOTSET_STAT -/
def hotsetWord (s : State) : Nat := bits [(0, unitsUsed s), (11, unitsPinned s)]

/-- NDE_SCHED_STAT -/
def schedStatWord (s : State) : Nat :=
  let n := fun (c : Option CtxId) => (c.map (·.val)).getD 0
  bits [(0, n s.running), flag 4 s.running.isSome, (5, n s.sched.lastLc), (9, n s.sched.lastBe)]

/-! ## Self-test and security -/

/-- NDE_ST_STATUS -/
def stStatusWord (s : State) : Nat :=
  bits [(0, stepNow s), flag 4 (s.eng == .selftest), flag 5 s.st.passed, flag 6 s.fw.valid,
    (8, s.st.safeCause.toNat)]

/-- NDE_SEC_RESULT -/
def secResultWord (s : State) : Nat :=
  bits [(0, s.sec.status.toNat), flag 8 s.sec.presented.isSome, flag 9 s.sec.done]

/-- NDE_SEC_ALARM -/
def secAlarmWord (s : State) : Nat := bits [(0, s.sec.firstSource.toNat), flag 3 s.sec.alarm, (4, s.sec.source.toNat)]

/-- NDE_SEC_SLOT_STAT_n -/
def slotStatWord (k : KeySlot) : Nat :=
  bits [flag 0 k.valid, flag 1 (k.counter == BitVec.allOnes 64), (8, k.perm.toNat)]

/-! ## Timing -/

/-- NDE_SENSOR_FLAGS -/
def sensorFlagsWord (s : State) : Nat :=
  let f := s.sensor
  bits [flag 0 f.ndeOor, flag 1 f.nsramOor, flag 2 f.tempOor, flag 3 f.stale, flag 4 f.timebaseErr]

/-- NDE_DET_SUMMARY -/
def detWord (s : State) : Nat := bits [(0, mask 16 fun c => (s.ctx c).det), (16, mask 16 fun c => (s.ctx c).pace)]

/-! ## Core work queues (06 R144) -/

/-- Packets of a queue that meet `p`. -/
def pktCount (q : CoreQ) (p : Packet → Bool) : Nat := (q.packets.filter p).length

/-- NDE_COREQ_STAT_n -/
def coreqStatWord (s : State) (p : PortId) : Nat :=
  let q := s.queues[p]
  bits [(0, pktCount q fun k => k.state == .committed && k.lc), (7, pktCount q fun k => k.state == .committed && !k.lc),
    (14, q.packets.length), flag 21 (q.packets.any fun k => k.state == .feeding), flag 22 (portPresent s p)]

/-! ## Contexts -/

/-- 12 R275's states by number. -/
def ctxCode : CtxState → Nat
  | .free => 0 | .idle => 1 | .queued => 2 | .running => 3 | .preempting => 4 | .draining => 5 | .faulted => 6

/-- NDE_CTX_STATE -/
def ctxStateWord (x : Ctx) : Nat :=
  bits [(0, ctxCode x.state), flag 3 x.lc, flag 4 x.enabled, flag 5 x.enablePending, flag 6 x.resetPending,
    flag 7 x.drainBusy, (8, x.faultStatus.toNat)]

/-- NDE_CTX_MODE -/
def ctxModeWord (x : Ctx) : Nat := bits [flag 0 x.det, flag 1 x.pace, flag 2 x.pendMode.isSome, flag 3 x.tdcSeen]

/-- A memory request of the context waits for the next window. -/
def memHeld (s : State) (c : CtxId) : Bool :=
  !memOpen s c && ((s.ctx c).regMem.held || s.memWait.any fun r => r.charge == some c)

/-- A spore block of the context waits: the next message of some stream, which the regulator does not grant. -/
def sporeHeld (s : State) (c : CtxId) : Bool :=
  !sporeOpen s c && s.tx.any fun t =>
    !t.ended && t.cur.isNone && match t.queue with | m :: _ => payer m.owner == some c | [] => false

/-- A feed flit of the context waits. -/
def flitHeld (s : State) (c : CtxId) : Bool :=
  s.queues.toList.any fun q => q.packets.any fun k =>
    k.state == .feeding && !k.spore && k.ctx.toNat == c.val && feedHeld s k

/-- NDE_CTX_REG_STAT -/
def regStatWord (s : State) (c : CtxId) : Nat := bits [flag 0 (memHeld s c), flag 1 (sporeHeld s c), flag 2 (flitHeld s c)]

/-- NDE_CTX_RING_STAT -/
def ringStatWord (s : State) (c : CtxId) : Nat :=
  let x := s.ctx c
  bits [flag 0 x.cfgErr, flag 1 x.badDoorbell, flag 2 x.hostErr, flag 3 (cqBlocked s c), flag 4 (unitBlocked s c)]

/-! ## Slices, DMA channels, spill set -/

/-- NDE_SLICE_STAT -/
def sliceStatWord (s : State) (i : SliceId) : Nat :=
  bits [flag 0 (sliceOn s i), flag 1 (bvBit s.fuse.sliceFused i.val), flag 2 (bvBit s.fuse.disabledMap i.val),
    flag 3 s.slices[i].suspect]

/-- 14 R331's states by number. -/
def dmaCode : DmaState → Nat
  | .off => 0 | .idle => 1 | .busy => 2 | .draining => 3

/-- NDE_DMA_STAT -/
def dmaStatWord (s : State) (ch : ChanId) : Nat :=
  let k := s.chan ch
  bits [(0, dmaCode k.state), flag 2 k.enablePending, flag 3 k.activeValid, flag 4 k.shadowValid, (5, k.bursts.length),
    (8, k.lastStatus.toNat), (16, k.lastCtx.toNat), flag 20 k.busErr, flag 21 (limiterHeld s k)]

/-- NDE_DMA_x_DESC -/
def dmaDescWord (d : DmaSet) : Nat :=
  bits [(0, d.tag.toNat), (16, d.ctx.toNat), (20, d.op.toNat), flag 22 d.srcFixed, flag 23 d.dstFixed, flag 24 d.srcHost,
    flag 25 d.dstHost]

/-- 07's states by number. -/
def peerCode : PeerState → Nat
  | .off => 0 | .active => 1 | .degraded => 2 | .lost => 3 | .refused => 4

/-- NDE_SPILL_PEER_STAT_n -/
def peerStatWord (p : Peer) : Nat :=
  bits [(0, peerCode p.state), flag 3 p.cfgErr, (8, min p.outstanding (2 ^ 24 - 1))]

/-- NDE_SPILL_PEER_CFG_n -/
def peerCfgWord (p : Peer) : Nat :=
  bits [(0, p.chip.toNat), flag 16 p.engine, (17, p.port.val), (20, p.linkFmt.toNat), flag 24 p.enable]

/-- Inbound streams refused credits and waiting. -/
def streamsWord (s : State) : Nat := bits [(0, s.tx.length), (8, s.rx.length), (16, min 255 s.rxWait.length)]

/-! ## Tables (19 R400) -/

/-- NDE_TBL_BANK_b -/
def bankWord (b : Bank) : Nat :=
  bits [flag 0 b.busy, (1, b.ctx.toNat), (5, b.kMinus1.toNat), (9, b.tokens.toNat)]

end Sys2Proof.Machine
end

