-- ==== Sys2Proof/Machine/RegFile.lean ====
section
/-!
DEFINITION. The set-up port (15 R335, R336; 00 R6; 19): reading and writing every register of the window, and the commands
that are such accesses.
-/
namespace Sys2Proof.Machine

/-! ## Reading -/

/-- A field of a DMA register set. -/
def dmaField (d : DmaSet) : DmaField → Nat
  | .src => d.src.toNat | .dst => d.dst.toNat | .len => d.len.toNat | .fill => d.fill.toNat

/-- The register set of a channel. -/
def chanSet (k : DmaChan) (shadow : Bool) : DmaSet := if shadow then k.shadow else k.active

/-- The value of a pair. -/
def pairValue (s : State) : Pair → Nat
  | .tick => s.now
  | .slotCtr n => s.slots[n].counter.toNat
  | .beatTick => s.beatTick.toNat
  | .paceShort => s.paceShort.toNat
  | .tdc => s.tdc.total.toNat
  | .telEng n => s.tele[n].toNat
  | .telCtx c n => (s.ctx c).tele[n].toNat
  | .ctxSave c => (s.ctx c).save.toNat
  | .ctxStep c => (s.ctx c).step.toNat
  | .ctxAcct c n => (s.ctx c).acct[n].toNat
  | .sliceCount i .beats => s.slices[i].beats.toNat
  | .sliceCount i .stream => s.slices[i].stream.toNat
  | .sliceCount i .stall => s.slices[i].stall.toNat
  | .sliceCount i .fill => s.slices[i].fill.toNat
  | .sliceCount i .swap => s.slices[i].swap.toNat
  | .dmaProg ch => (s.chan ch).progress.toNat
  | .dmaResidue ch => (s.chan ch).residue.toNat
  | .dmaBytes ch => (s.chan ch).bytes.toNat
  | .dmaSet ch sh f => dmaField (chanSet (s.chan ch) sh) f

/-- The register of a 64-bit address: LO or HI half. -/
def half (hi : Bool) (v : Nat) : Nat := if hi then v >>> 32 else v % 2 ^ 32

/-- The bits of a set of 80 ports in word `m`. -/
def portWord (b : BitVec 80) (m : Nat) : Nat := (b.toNat >>> (32 * m)) % 2 ^ 32

/-- NDE_CTX_GRP_PEER_l -/
def grpPeerWord (g : GrpPeer) : Nat := bits [(0, g.chip.toNat), flag 16 g.engine, (17, g.ctx.toNat), flag 31 g.valid]

/-- The regulator of a context by number, in the window of the present tick. -/
def regulAt (s : State) (c : CtxId) (i : Fin 3) : Regul :=
  let x := s.ctx c
  regNow (match i with | 0 => x.regMem | 1 => x.regSpore | 2 => x.regFeed) s.now

/-- A register of a context page. -/
def ctxWord (s : State) (c : CtxId) (r : CtxReg) : Nat :=
  let x := s.ctx c
  match r with
  | .state => ctxStateWord x
  | .ctl => b2n (x.enabled || x.enablePending)
  | .coreset m => portWord x.coreset m.val
  | .spillmask => x.spillMask.toNat
  | .epoch => x.epoch.toNat
  | .grp => bits [(0, x.grpRank.toNat), (16, x.grpMembers.toNat)]
  | .grpStat => b2n x.grpErr
  | .mode => ctxModeWord x
  | .regWin i => (regulAt s c i).window
  | .regBudget i => (regulAt s c i).budget
  | .regStat => regStatWord s c
  | .acctWrap => x.acctWrap.toNat
  | .winBaseLo w => half false x.windows[w].base.toNat
  | .winBaseHi w => half true x.windows[w].base.toNat
  | .winLimitLo w => half false x.windows[w].limit.toNat
  | .winLimitHi w => half true x.windows[w].limit.toNat
  | .sqBaseLo => half false x.sqBase.toNat
  | .sqBaseHi => half true x.sqBase.toNat
  | .cqBaseLo => half false x.cqBase.toNat
  | .cqBaseHi => half true x.cqBase.toNat
  | .dbLo => half false x.db.toNat
  | .dbHi => half true x.db.toNat
  | .ringSize => bits [(0, x.sqLog2.toNat), (8, x.cqLog2.toNat)]
  | .poll => bits [(0, x.pollMax.toNat), (16, x.pollNow.toNat)]
  | .sqFetched => x.fetched.toNat
  | .cqWritten => x.written.toNat
  | .ringStat => ringStatWord s c
  | .grpPeer l => grpPeerWord x.grpPeers[l]

/-- A register as it reads; the HI of a pair shows what its LO latched, and TDC_HI the saturated bit beside it. -/
def regValue (s : State) (o : Nat) : SetupReg → Nat
  | .lo p => pairValue s p % 2 ^ 32
  | .hi p =>
    let l := ((lookup o s.latches).map (·.toNat)).getD 0
    if p == .tdc then l + b2n s.tdc.saturated <<< 31 else l
  | .id => bits [(0, Config.idBlock.toNat), (16, Config.stepping.toNat)]
  | .arithRev => Config.arithRev.toNat
  | .fwVersion => if s.fw.valid then s.fw.version.toNat else 0
  | .caps => Config.caps.toNat
  | .engState => engStateWord s
  | .fuseMap => fuseWord s
  | .chipId => s.fuse.chipId.toNat
  | .hotsetStat => hotsetWord s
  | .hotsetDir => s.dir.length
  | .adaptCtl => b2n s.sched.shareAdapt
  | .schedCtl => bits [(0, s.sched.quantumBe.toNat), (16, s.sched.quantumLc.toNat)]
  | .schedLimit => s.sched.limit.toNat
  | .schedStat => schedStatWord s
  | .coreWdog => s.coreTimeout.toNat
  | .coreFail m => portWord s.coreFail m.val
  | .portErr => portErrWord s
  | .stStatus => stStatusWord s
  | .stFail => failBits s.st
  | .stSuspect => bits [(0, s.st.suspect.toNat), (8, s.st.tested.toNat)]
  | .stDetail n => s.st.details[n].toNat
  | .stSram n => s.st.sram[n].toNat % 2 ^ 24
  | .stTime => s.st.time.toNat
  | .stDiagLo => half false s.st.diag.toNat
  | .stDiagHi => half true s.st.diag.toNat
  | .stDiagStat => bits [flag 0 s.st.diagWritten, flag 1 s.st.diagErr]
  | .fwEcc => s.fw.corrected.toNat
  | .seedAddr => s.st.seedAddr.toNat
  | .seedData => (Config.seedWord s.st.seedAddr).toNat
  | .secEnv n => s.sec.env[n].toNat
  | .secCmd => 0
  | .secResult => secResultWord s
  | .secPolicy => s.sec.policy.toNat
  | .secAlarm => secAlarmWord s
  | .secVcount 0 => bits [(0, s.sec.vcount[0].toNat), (16, s.sec.vcount[1].toNat)]
  | .secVcount 1 => bits [(0, s.sec.vcount[2].toNat), (16, s.sec.vcount[3].toNat)]
  | .secAuth => s.sec.accepted.toNat
  | .slotStat n => slotStatWord s.slots[n]
  | .slotKcv n => if s.slots[n].valid then s.slots[n].kcv.toNat else 0
  | .beatWin i => s.slices[i].beatWin.toNat
  | .detSummary => detWord s
  | .tdcCtl => 0
  | .tdcKind n => (vgetN s.tdc.kinds n.val 0).toNat
  | .sensorRail => bits [(0, s.sensor.latest.vddNde.toNat), (16, s.sensor.latest.vddNsram.toNat)]
  | .sensorTemp n =>
    bits [(0, (vgetN s.sensor.latest.temps (2 * n.val) 0).toNat), (16, (vgetN s.sensor.latest.temps (2 * n.val + 1) 0).toNat)]
  | .sensorFlags => sensorFlagsWord s
  | .current => bits [(0, s.power.req.toNat), (8, s.power.grant.toNat), (16, s.power.estimate.toNat)]
  | .throttle => throttleNow s
  | .telEngWrap => s.teleWrap.toNat
  | .telCtl => 0
  | .coreqStat p => coreqStatWord s p
  | .coreqLoad p => pendingAt s p
  | .coreqCommit p => bits [(0, s.queues[p].lastCommit.toNat), (16, s.queues[p].lastTaken.toNat)]
  | .telCtxWrapLo c => (s.ctx c).teleWrap.toNat % 2 ^ 32
  | .telCtxWrapHi c => (s.ctx c).teleWrap.toNat >>> 32
  | .ctx c r => ctxWord s c r
  | .sliceCtl i => bits [flag 0 s.slices[i].det, flag 1 s.slices[i].pace, (8, s.slices[i].ctx.toNat)]
  | .sliceStat i => sliceStatWord s i
  | .sliceShare i => bits [(0, s.slices[i].shareTokens.toNat), flag 13 s.slices[i].shareAdaptive, (16, s.slices[i].rho % 4096)]
  | .dmaCtl ch => bits [flag 0 ((s.chan ch).enable), (8, (s.chan ch).shareM1.toNat)]
  | .dmaStat ch => dmaStatWord s ch
  | .dmaEvents ch => bits [(0, (s.chan ch).busErrors.toNat), (16, (s.chan ch).aborts.toNat)]
  | .dmaDesc ch sh => dmaDescWord (chanSet (s.chan ch) sh)
  | .dmaSqc ch sh => (chanSet (s.chan ch) sh).c.toNat
  | .sporeCtl => bits [flag 0 s.spore.rxEnable, (8, s.spore.ackTimeout.toNat), (16, s.spore.lostTimeout.toNat)]
  | .sporeCoreset m => portWord s.spore.coreset m.val
  | .sporeStreams => streamsWord s
  | .peerCfg n => peerCfgWord s.peers[n]
  | .peerStat n => peerStatWord s.peers[n]
  | .peerLoad n => s.peers[n].load.toNat
  | .peerResend n => s.peers[n].resends.toNat
  | .portBadrx p => s.spore.badRx[p].toNat
  | .portResend p => s.spore.portResends[p].toNat
  | .tblSel => bits [(0, s.tbl.table.toNat), (4, s.tbl.index.toNat)]
  | .tblStat => b2n s.tbl.selErr
  | .tblBank b => bankWord s.banks[b]
  | .tblBankEpoch b => s.banks[b].epoch.toNat
  | .tblData i => s.tbl.data[i].toNat

/-- Side effect of a read: LO latches the upper half for the HI 4 bytes above it (R388). -/
def readEffect (s : State) (o : Nat) : SetupReg → State
  | .lo p => { s with latches := insertKey (o + 4) (BitVec.ofNat 32 (pairValue s p >>> 32)) s.latches }
  | _ => s

/-- An access answered with an error (15): setup_err, but in OFF, which keeps no state. -/
def setupError (s : State) : State :=
  { s with setup := ⟨0, true⟩, portErr := { s.portErr with setup := s.portErr.setup || s.on } }

/-- A read of the set-up window (DEDUCED, notes/assumptions/20.md). -/
def readReg (s : State) (o : Nat) : State :=
  match regAt o with
  | some r =>
    if s.on then { readEffect s o r with setup := ⟨BitVec.ofNat 32 (regValue s o r), false⟩ } else setupError s
  | none => setupError s

/-! ## Tables (19 R399) -/

/-- The 64 bytes of a Sequence Table entry (10 R229). -/
def seqBytes (q : Seq) : Nat :=
  let st := match q.state with | .free => 0 | .pending => 1 | .active => 2 | .leaving => 3
  pack [(0, 0, st), (0, 2, q.ctx.val), (0, 6, b2n q.exitEn), (0, 8, q.holdLayers), (0, 16, q.holdKmax), (0, 24, q.deferAge),
    (4, 0, q.uid.toNat), (8, 0, q.seed.toNat), (0x10, 0, q.tokens), (0x14, 0, q.stepsTotal), (0x14, 16, q.stepIndex),
    (0x18, 0, q.joinSeq.toNat), (0x20, 0, q.resBase), (0x28, 0, q.resBytes % 2 ^ 48), (0x30, 0, q.exitBase), (0x38, 0, q.holdBase)]

/-- The entry a selection names; none for a reserved table or an index out of range. -/
def tableEntry (s : State) (t i : Nat) : Option Nat :=
  match t with
  | 0 => some (((lookup (i % 65536) s.banks[Fin.ofNat 2 (i / 65536)].entries).map (·.toNat)).getD 0)
  | 1 => if i < 1024 then some (((lookup i s.seqs).map seqBytes).getD 0) else none
  | 2 => if i < 16384 then some (ownerRaw s i) else none
  | _ => none

/-- A write of NDE_TBL_SEL. -/
def snapshot (s : State) (w : Nat) : State :=
  let t := fld w 1 0
  let i := fld w 20 4
  let e := tableEntry s t i
  { s with tbl := {
      table := BitVec.ofNat 2 t
      index := BitVec.ofNat 17 i
      selErr := s.tbl.selErr || e.isNone
      data := Vector.ofFn fun k : Fin 16 => BitVec.ofNat 32 ((e.getD 0) >>> (32 * k.val)) } }

/-! ## Writing -/

/-- LO or HI half of an address written. -/
def setHalf (hi : Bool) (old : BitVec 64) (w low : Nat) : BitVec 64 :=
  if hi then BitVec.ofNat 64 (old.toNat % 2 ^ 32 + (w <<< 32))
  else BitVec.ofNat 64 (old.toNat / 2 ^ 32 * 2 ^ 32 + w / low * low)

/-- A word of a set of 80 ports written. -/
def setPorts (old : BitVec 80) (m w : Nat) : BitVec 80 :=
  let clear := old &&& ~~~ BitVec.ofNat 80 ((2 ^ 32 - 1) <<< (32 * m))
  clear ||| BitVec.ofNat 80 (w <<< (32 * m))

/-- FREE, or IDLE with enable 0 and drain_busy 0: ring and group registers take a write (13 R291, 19 R396). -/
def quietCtx (x : Ctx) : Bool := x.state == .free || (x.state == .idle && !x.enabled && !x.drainBusy)

/-- A ring register's field is written, or the write is refused with cfg_err. -/
def ringWrite (s : State) (c : CtxId) (f : Ctx → Ctx) : State :=
  modCtx s c fun x => if quietCtx x then f x else { x with cfgErr := true }

/-- The entry names this engine's own chip id, engine and context. -/
def namesSelf (s : State) (c : CtxId) (w : Nat) : Bool :=
  bitAt w 31 && w % 2 ^ 17 == selfWord s && fld w 20 17 == c.val

/-- A group register is written, or the write is refused with grp_err. -/
def groupWrite (s : State) (c : CtxId) (ok : Bool) (f : Ctx → Ctx) : State :=
  modCtx s c fun x => if quietCtx x && ok then f x else { x with grpErr := true }

/-- An adaptation group entry. -/
def grpPeerOf (w : Nat) : GrpPeer := ⟨BitVec.ofNat 16 w, bitAt w 16, BitVec.ofNat 4 (fld w 20 17), bitAt w 31⟩

/-- poll_max as written: 0 is 1, above 400 is 400. -/
def pollMaxOf (w : Nat) : BitVec 9 := BitVec.ofNat 9 (max 1 (min 400 (fld w 8 0)))

/-- A write of a register of a context page. -/
def writeCtxReg (s : State) (c : CtxId) (r : CtxReg) (w : Nat) : State :=
  match r with
  | .ctl => writeCtl s c w
  | .coreset m => modCtx s c fun x => { x with coreset := setPorts x.coreset m.val w }
  | .spillmask => modCtx s c fun x => { x with spillMask := BitVec.ofNat 32 w }
  | .grp => groupWrite s c true fun x => { x with grpRank := BitVec.ofNat 16 w, grpMembers := BitVec.ofNat 16 (w >>> 16) }
  | .grpPeer l => groupWrite s c (!namesSelf s c w) fun x => { x with grpPeers := x.grpPeers.set l (grpPeerOf w) }
  | .grpStat => modCtx s c fun x => { x with grpErr := w1c x.grpErr w 0 }
  | .mode => modCtx s c fun x => { x with tdcSeen := w1c x.tdcSeen w 3 }
  | .acctWrap => modCtx s c fun x => { x with acctWrap := w1cBits x.acctWrap w 0 }
  | .sqBaseLo => ringWrite s c fun x => { x with sqBase := setHalf false x.sqBase w 64 }
  | .sqBaseHi => ringWrite s c fun x => { x with sqBase := setHalf true x.sqBase w 1 }
  | .cqBaseLo => ringWrite s c fun x => { x with cqBase := setHalf false x.cqBase w 64 }
  | .cqBaseHi => ringWrite s c fun x => { x with cqBase := setHalf true x.cqBase w 1 }
  | .dbLo => ringWrite s c fun x => { x with db := setHalf false x.db w 8 }
  | .dbHi => ringWrite s c fun x => { x with db := setHalf true x.db w 1 }
  | .ringSize => ringWrite s c fun x => { x with sqLog2 := BitVec.ofNat 5 w, cqLog2 := BitVec.ofNat 5 (w >>> 8) }
  | .poll => modCtx s c fun x => { x with pollMax := pollMaxOf w }
  | .ringStat => modCtx s c fun x => { x with
      cfgErr := w1c x.cfgErr w 0, badDoorbell := w1c x.badDoorbell w 1, hostErr := w1c x.hostErr w 2 }
  | .state | .epoch | .regWin _ | .regBudget _ | .regStat | .winBaseLo _ | .winBaseHi _ | .winLimitLo _
  | .winLimitHi _ | .sqFetched | .cqWritten => s

/-- GO: the envelope in NDE_SEC_ENV is presented, unless one is being handled, and stands after those that wait for the
security unit (16 R357). -/
def go (s : State) (w : Nat) : State :=
  if bitAt w 0 && s.sec.presented.isNone then
    { s with sec := { s.sec with
        presented := some (BitVec.ofNat 448 (pack ((indexed s.sec.env.toList).map fun (i, e) => (4 * i, 0, e.toNat))))
        order := s.sec.order ++ [.setup] } }
  else s

/-- A write of NDE_TDC_CTL (11 R261). -/
def tdcWrite (s : State) (w : Nat) : State := if bitAt w 0 then { s with tdc := State.reset.tdc } else s

/-- The per-engine telemetry counters and their wrap bits are zeroed. -/
def zeroTeleEng (s : State) : State := { s with tele := Vector.replicate 10 0, teleWrap := 0 }

/-- The telemetry counters and wrap bits of a context are zeroed. -/
def zeroTeleCtx (s : State) (c : CtxId) : State :=
  modCtx s c fun x => { x with tele := Vector.replicate 34 0, teleWrap := 0 }

/-- A write of NDE_TEL_CTL (18 R383). -/
def teleWrite (s : State) (w : Nat) : State :=
  let s1 := if bitAt w 0 then zeroTeleEng s else s
  if bitAt w 1 then zeroTeleCtx s1 (Fin.ofNat 16 (fld w 7 4)) else s1

/-- The larger of a field and 1. -/
def atLeast1 (n : Nat) : Nat := max 1 n

/-- A write of a defined register with all byte enables (00 R6); read-only registers ignore it. -/
def writeEffect (s : State) (r : SetupReg) (w : Nat) : State :=
  match r with
  | .adaptCtl => { s with sched := { s.sched with shareAdapt := bitAt w 0 } }
  | .schedCtl =>
    quantumPreempt { s with sched := { s.sched with
      quantumBe := BitVec.ofNat 16 w, quantumLc := BitVec.ofNat 16 (w >>> 16) } }
  | .schedLimit => { s with sched := { s.sched with limit := BitVec.ofNat 8 (atLeast1 (fld w 7 0)) } }
  | .coreWdog => { s with coreTimeout := BitVec.ofNat 16 (atLeast1 (fld w 15 0)) }
  | .coreFail m => { s with coreFail := w1cBits s.coreFail w (32 * m.val) }
  | .portErr =>
    { s with portErr :=
      ⟨w1c s.portErr.setup w 0, w1c s.portErr.mem w 1, w1c s.portErr.drainBad w 2, w1c s.portErr.link w 3⟩ }
  | .stDiagLo => { s with st := { s.st with diag := setHalf false s.st.diag w 64 } }
  | .stDiagHi => { s with st := { s.st with diag := setHalf true s.st.diag w 1 } }
  | .stDiagStat => { s with st := { s.st with diagWritten := w1c s.st.diagWritten w 0, diagErr := w1c s.st.diagErr w 1 } }
  | .seedAddr => { s with st := { s.st with seedAddr := BitVec.ofNat 20 w } }
  | .secEnv n => { s with sec := { s.sec with env := s.sec.env.set n (BitVec.ofNat 32 w) } }
  | .secCmd => go s w
  | .secResult => { s with sec := { s.sec with done := w1c s.sec.done w 9 } }
  | .secAlarm => { s with sec := { s.sec with firstSource := BitVec.ofNat 3 w } }
  | .secVcount 0 =>
    { s with sec := { s.sec with vcount := (s.sec.vcount.set 0 (BitVec.ofNat 16 w)).set 1 (BitVec.ofNat 16 (w >>> 16)) } }
  | .secVcount 1 =>
    { s with sec := { s.sec with vcount := (s.sec.vcount.set 2 (BitVec.ofNat 16 w)).set 3 (BitVec.ofNat 16 (w >>> 16)) } }
  | .tdcCtl => tdcWrite s w
  | .sensorFlags =>
    let f := s.sensor
    { s with sensor := { f with
      ndeOor := w1c f.ndeOor w 0, nsramOor := w1c f.nsramOor w 1, tempOor := w1c f.tempOor w 2, stale := w1c f.stale w 3
      timebaseErr := w1c f.timebaseErr w 4 } }
  | .telEngWrap => { s with teleWrap := w1cBits s.teleWrap w 0 }
  | .telCtl => teleWrite s w
  | .telCtxWrapLo c => modCtx s c fun x => { x with teleWrap := w1cBits x.teleWrap w 0 }
  | .telCtxWrapHi c => modCtx s c fun x => { x with teleWrap := w1cBits x.teleWrap w 32 }
  | .ctx c r => writeCtxReg s c r w
  | .dmaCtl ch => writeDmaCtl s ch w
  | .dmaStat ch => modDma s ch fun k => { k with busErr := w1c k.busErr w 20 }
  | .sporeCtl =>
    { s with spore := { s.spore with
      rxEnable := bitAt w 0, ackTimeout := BitVec.ofNat 8 (atLeast1 (fld w 15 8))
      lostTimeout := BitVec.ofNat 7 (atLeast1 (fld w 22 16)) } }
  | .sporeCoreset m => { s with spore := { s.spore with coreset := setPorts s.spore.coreset m.val w } }
  | .peerCfg n => peerCfg s n w
  | .peerStat n => { s with peers := vmod s.peers n fun p => { p with cfgErr := w1c p.cfgErr w 3 } }
  | .tblSel => snapshot s w
  | .tblStat => { s with tbl := { s.tbl with selErr := w1c s.tbl.selErr w 0 } }
  | .lo _ | .hi _ | .id | .arithRev | .fwVersion | .caps | .engState | .fuseMap | .chipId | .hotsetStat | .hotsetDir
  | .schedStat | .stStatus | .stFail | .stSuspect | .stDetail _ | .stSram _ | .stTime | .fwEcc | .seedData | .secPolicy
  | .secAuth | .slotStat _ | .slotKcv _ | .beatWin _ | .detSummary | .tdcKind _ | .sensorRail | .sensorTemp _
  | .current | .throttle | .coreqStat _ | .coreqLoad _ | .coreqCommit _ | .sliceCtl _ | .sliceStat _ | .sliceShare _
  | .dmaEvents _ | .dmaDesc _ _ | .dmaSqc _ _ | .sporeStreams | .peerLoad _ | .peerResend _ | .portBadrx _
  | .portResend _ | .tblBank _ | .tblBankEpoch _ | .tblData _ => s

/-- R335: a write that acts: a defined register, all four byte enables, in READY, RUN or SAFE
(DEDUCED, notes/assumptions/20.md). -/
def writeReg (s : State) (o w : Nat) (enables : BitVec 4) : State :=
  match regAt o with
  | some r =>
    if s.live && enables == 15 then { settle (writeEffect s r w) with setup := ⟨0, false⟩ } else setupError s
  | none => setupError s

/-! ## Commands -/

/-- A word with one bit given. -/
def withBit (w : Reg) (i : Nat) (b : Bool) : Nat := (bvSetBit w i b).toNat

/-- A whole write. -/
def wholeWrite (s : State) (o w : Nat) : Res := finish s (writeReg s o w 15)

/-- REGISTER_WRITE. -/
def execRegisterWrite (offset : BitVec 20) (word : Reg) (enables : BitVec 4) (s : State) : Res :=
  finish s (writeReg s offset.toNat word.toNat enables)

/-- LATCHED_PAIR_READ: any register may be read; LO latches (DEDUCED, notes/assumptions/20.md). -/
def execLatchedPairRead (offset : BitVec 20) (s : State) : Res := finish s (readReg s offset.toNat)

/-- CTX_ENABLE: enable written 1. -/
def execCtxEnable (ctx : CtxId) (word : Reg) (s : State) : Res := wholeWrite s (ctxOff ctx 4) (withBit word 0 true)

/-- CTX_DISABLE: enable written 0. -/
def execCtxDisable (ctx : CtxId) (word : Reg) (s : State) : Res := wholeWrite s (ctxOff ctx 4) (withBit word 0 false)

/-- CTX_RESET: reset written 1. -/
def execCtxReset (ctx : CtxId) (word : Reg) (s : State) : Res := wholeWrite s (ctxOff ctx 4) (withBit word 1 true)

/-- CLEAR_ACCT: clear_acct written 1. -/
def execClearAcct (ctx : CtxId) (word : Reg) (s : State) : Res := wholeWrite s (ctxOff ctx 4) (withBit word 2 true)

/-- Offset of a ring register in its page. -/
def ringOff : RingReg → Nat
  | .sqBaseLo => 0x300 | .sqBaseHi => 0x304 | .cqBaseLo => 0x308 | .cqBaseHi => 0x30C | .dbLo => 0x310 | .dbHi => 0x314
  | .ringSize => 0x318 | .poll => 0x31C

/-- RING_CONFIG_WRITE. -/
def execRingConfigWrite (ctx : CtxId) (reg : RingReg) (word : Reg) (s : State) : Res :=
  wholeWrite s (ctxOff ctx (ringOff reg)) word.toNat

/-- Offset of a group register in its page. -/
def grpOff : GrpReg → Nat
  | .grp => 0x030
  | .peer l => 0x400 + 4 * l.val

/-- CTX_GROUP_WRITE. -/
def execCtxGroupWrite (ctx : CtxId) (reg : GrpReg) (word : Reg) (s : State) : Res :=
  wholeWrite s (ctxOff ctx (grpOff reg)) word.toNat

/-- SCHED_QUANTUM_WRITE. -/
def execSchedQuantumWrite (word : Reg) (s : State) : Res := wholeWrite s 0x180 word.toNat

/-- TDC_CLEAR. -/
def execTdcClear (s : State) : Res := wholeWrite s 0x3104 1

/-- CLEAR_ENG. -/
def execClearEng (s : State) : Res := wholeWrite s 0x4400 1

/-- CLEAR_CTX. -/
def execClearCtx (ctx : CtxId) (s : State) : Res := wholeWrite s 0x4400 (2 + ctx.val <<< 4)

/-- TABLE_SNAPSHOT. -/
def execTableSnapshot (word : Reg) (s : State) : Res := wholeWrite s 0x50000 word.toNat

/-- SPILL_PEER_CFG_WRITE. -/
def execSpillPeerCfgWrite (n : Fin 32) (word : Reg) (s : State) : Res := wholeWrite s (0x40100 + 0x10 * n.val) word.toNat

/-- CORE_PORT_RESTORE. -/
def execCorePortRestore (m : Fin 3) (word : Reg) (s : State) : Res := wholeWrite s (0x1A4 + 4 * m.val) word.toNat

/-- DMA_CHANNEL_ENABLE. -/
def execDmaChannelEnable (ch : ChanId) (word : Reg) (s : State) : Res := wholeWrite s (dmaOff ch 0) (withBit word 0 true)

/-- DMA_CHANNEL_DISABLE. -/
def execDmaChannelDisable (ch : ChanId) (word : Reg) (s : State) : Res :=
  wholeWrite s (dmaOff ch 0) (withBit word 0 false)

/-- DMA_ABORT. -/
def execDmaAbort (ch : ChanId) (word : Reg) (s : State) : Res := wholeWrite s (dmaOff ch 0) (withBit word 1 true)

end Sys2Proof.Machine
end

