-- ==== Sys2Proof/Machine/Dispatch.lean ====
section
/-!
DEFINITION. The effect of a command on everything but the queue: one arm per command, in the table's order.
-/
namespace Sys2Proof.Machine

/-- The effect of a command. -/
def exec (i : Instr) (s : State) : Host.Outcome State Fault Refusal :=
  match i with
  | .tileRoute ctx => Sys2Proof.Machine.execTileRoute ctx s
  | .tileCombine ctx => Sys2Proof.Machine.execTileCombine ctx s
  | .tileReverse ctx => Sys2Proof.Machine.execTileReverse ctx s
  | .xformCopy ctx => Sys2Proof.Machine.execXformCopy ctx s
  | .gather ctx => Sys2Proof.Machine.execGather ctx s
  | .scatterAcc ctx => Sys2Proof.Machine.execScatterAcc ctx s
  | .transpose ctx => Sys2Proof.Machine.execTranspose ctx s
  | .expand ctx => Sys2Proof.Machine.execExpand ctx s
  | .dmaCopy ctx => Sys2Proof.Machine.execDmaCopy ctx s
  | .dmaFill ctx => Sys2Proof.Machine.execDmaFill ctx s
  | .dmaCompare ctx => Sys2Proof.Machine.execDmaCompare ctx s
  | .seqJoin ctx => Sys2Proof.Machine.execSeqJoin ctx s
  | .seqLeave ctx => Sys2Proof.Machine.execSeqLeave ctx s
  | .stepBuild ctx => Sys2Proof.Machine.execStepBuild ctx s
  | .modelLoad ctx => Sys2Proof.Machine.execModelLoad ctx s
  | .modelUnpin ctx => Sys2Proof.Machine.execModelUnpin ctx s
  | .modelPin ctx => Sys2Proof.Machine.execModelPin ctx s
  | .modelForget ctx => Sys2Proof.Machine.execModelForget ctx s
  | .fence ctx => Sys2Proof.Machine.execFence ctx s
  | .fenceRelease ctx => Sys2Proof.Machine.execFenceRelease ctx s
  | .epochWaitOwner ctx => Sys2Proof.Machine.execEpochWaitOwner ctx s
  | .epochWaitWord ctx => Sys2Proof.Machine.execEpochWaitWord ctx s
  | .epochWaitPoll ctx => Sys2Proof.Machine.execEpochWaitPoll ctx s
  | .tdescCreate ctx => Sys2Proof.Machine.execTdescCreate ctx s
  | .tdescDestroy ctx => Sys2Proof.Machine.execTdescDestroy ctx s
  | .tdescFree ctx => Sys2Proof.Machine.execTdescFree ctx s
  | .ctxCreate path => Sys2Proof.Machine.execCtxCreate path s
  | .ctxDestroy path => Sys2Proof.Machine.execCtxDestroy path s
  | .ctxClass path => Sys2Proof.Machine.execCtxClass path s
  | .ctxMode path => Sys2Proof.Machine.execCtxMode path s
  | .ctxWindows path => Sys2Proof.Machine.execCtxWindows path s
  | .ctxRegulate path => Sys2Proof.Machine.execCtxRegulate path s
  | .disabledMap path => Sys2Proof.Machine.execDisabledMap path s
  | .selftestReq path => Sys2Proof.Machine.execSelftestReq path s
  | .fwLoad path => Sys2Proof.Machine.execFwLoad path s
  | .keyLoad path => Sys2Proof.Machine.execKeyLoad path s
  | .keyErase path => Sys2Proof.Machine.execKeyErase path s
  | .alarmPolicy path => Sys2Proof.Machine.execAlarmPolicy path s
  | .keyStoreEraseDone => Sys2Proof.Machine.execKeyStoreEraseDone s
  | .ctxEnable ctx word => Sys2Proof.Machine.execCtxEnable ctx word s
  | .ctxDisable ctx word => Sys2Proof.Machine.execCtxDisable ctx word s
  | .ctxReset ctx word => Sys2Proof.Machine.execCtxReset ctx word s
  | .clearAcct ctx word => Sys2Proof.Machine.execClearAcct ctx word s
  | .drainEnd ctx => Sys2Proof.Machine.execDrainEnd ctx s
  | .ringConfigWrite ctx reg word => Sys2Proof.Machine.execRingConfigWrite ctx reg word s
  | .ctxGroupWrite ctx reg word => Sys2Proof.Machine.execCtxGroupWrite ctx reg word s
  | .schedQuantumWrite word => Sys2Proof.Machine.execSchedQuantumWrite word s
  | .tdcClear => Sys2Proof.Machine.execTdcClear s
  | .clearEng => Sys2Proof.Machine.execClearEng s
  | .clearCtx ctx => Sys2Proof.Machine.execClearCtx ctx s
  | .tableSnapshot word => Sys2Proof.Machine.execTableSnapshot word s
  | .spillPeerCfgWrite n word => Sys2Proof.Machine.execSpillPeerCfgWrite n word s
  | .corePortRestore m word => Sys2Proof.Machine.execCorePortRestore m word s
  | .dmaChannelEnable ch word => Sys2Proof.Machine.execDmaChannelEnable ch word s
  | .dmaChannelDisable ch word => Sys2Proof.Machine.execDmaChannelDisable ch word s
  | .dmaAbort ch word => Sys2Proof.Machine.execDmaAbort ch word s
  | .dmaBurstIssue ch => Sys2Proof.Machine.execDmaBurstIssue ch s
  | .latchedPairRead offset => Sys2Proof.Machine.execLatchedPairRead offset s
  | .registerWrite offset word enables => Sys2Proof.Machine.execRegisterWrite offset word enables s
  | .doorbellPoll ctx => Sys2Proof.Machine.execDoorbellPoll ctx s
  | .doorbellReadDone ctx word => Sys2Proof.Machine.execDoorbellReadDone ctx word s
  | .descriptorFetch ctx => Sys2Proof.Machine.execDescriptorFetch ctx s
  | .descriptorArrival ctx descs => Sys2Proof.Machine.execDescriptorArrival ctx descs s
  | .schedPick => Sys2Proof.Machine.execSchedPick s
  | .schedQuantumExpire => Sys2Proof.Machine.execSchedQuantumExpire s
  | .preemptLimitExpire => Sys2Proof.Machine.execPreemptLimitExpire s
  | .modeChangeApply ctx => Sys2Proof.Machine.execModeChangeApply ctx s
  | .regulatorWindow ctx which => Sys2Proof.Machine.execRegulatorWindow ctx which s
  | .tileStageBegin => Sys2Proof.Machine.execTileStageBegin s
  | .tokenPrenorm tile token => Sys2Proof.Machine.execTokenPrenorm tile token s
  | .tokenScore tile token waits => Sys2Proof.Machine.execTokenScore tile token waits s
  | .weightSetLoad => Sys2Proof.Machine.execWeightSetLoad s
  | .tokenSelect tile token => Sys2Proof.Machine.execTokenSelect tile token s
  | .hotsetMissFetch tile => Sys2Proof.Machine.execHotsetMissFetch tile s
  | .bucketing tile => Sys2Proof.Machine.execBucketing tile s
  | .courseStart tile => Sys2Proof.Machine.execCourseStart tile s
  | .packetWrite port => Sys2Proof.Machine.execPacketWrite port s
  | .packetSelect port => Sys2Proof.Machine.execPacketSelect port s
  | .feedFlitGrant ready => Sys2Proof.Machine.execFeedFlitGrant ready s
  | .drainFlit port tag data => Sys2Proof.Machine.execDrainFlit port tag data s
  | .endOfPacketMark port tag => Sys2Proof.Machine.execEndOfPacketMark port tag s
  | .coreTimeout port => Sys2Proof.Machine.execCoreTimeout port s
  | .tokenCombine tile token => Sys2Proof.Machine.execTokenCombine tile token s
  | .tileCommit => Sys2Proof.Machine.execTileCommit s
  | .groupReduce ctx => Sys2Proof.Machine.execGroupReduce ctx s
  | .statTimeout ctx => Sys2Proof.Machine.execStatTimeout ctx s
  | .basolBlockSend chip engine => Sys2Proof.Machine.execBasolBlockSend chip engine s
  | .basolBlockReceive port block => Sys2Proof.Machine.execBasolBlockReceive port block s
  | .spore chip engine => Sys2Proof.Machine.execSpore chip engine s
  | .result chip engine => Sys2Proof.Machine.execResult chip engine s
  | .abandon chip engine => Sys2Proof.Machine.execAbandon chip engine s
  | .statUp chip engine => Sys2Proof.Machine.execStatUp chip engine s
  | .statDown chip engine => Sys2Proof.Machine.execStatDown chip engine s
  | .readReq chip engine => Sys2Proof.Machine.execReadReq chip engine s
  | .readData chip engine => Sys2Proof.Machine.execReadData chip engine s
  | .readRetryTimer who => Sys2Proof.Machine.execReadRetryTimer who s
  | .ack port frame => Sys2Proof.Machine.execAck port frame s
  | .nak port frame => Sys2Proof.Machine.execNak port frame s
  | .credit port frame => Sys2Proof.Machine.execCredit port frame s
  | .refuse port frame => Sys2Proof.Machine.execRefuse port frame s
  | .ackTimeout chip engine => Sys2Proof.Machine.execAckTimeout chip engine s
  | .lostTimeout chip engine => Sys2Proof.Machine.execLostTimeout chip engine s
  | .streamEndTimeout chip engine => Sys2Proof.Machine.execStreamEndTimeout chip engine s
  | .sendStateRelease chip engine => Sys2Proof.Machine.execSendStateRelease chip engine s
  | .inboundStreamRelease chip engine => Sys2Proof.Machine.execInboundStreamRelease chip engine s
  | .creditRepeat chip engine => Sys2Proof.Machine.execCreditRepeat chip engine s
  | .linkStatusReport port report => Sys2Proof.Machine.execLinkStatusReport port report s
  | .memReadResponse tag data => Sys2Proof.Machine.execMemReadResponse tag data s
  | .memWriteResponse tag => Sys2Proof.Machine.execMemWriteResponse tag s
  | .memErrorResponse tag => Sys2Proof.Machine.execMemErrorResponse tag s
  | .beatWindowEnd beats => Sys2Proof.Machine.execBeatWindowEnd beats s
  | .paceCredit lost => Sys2Proof.Machine.execPaceCredit lost s
  | .currentGrant grant need => Sys2Proof.Machine.execCurrentGrant grant need s
  | .fillerLimitExpire => Sys2Proof.Machine.execFillerLimitExpire s
  | .rampStep draw => Sys2Proof.Machine.execRampStep draw s
  | .sensorRecord rec => Sys2Proof.Machine.execSensorRecord rec s
  | .sensorStale => Sys2Proof.Machine.execSensorStale s
  | .timebaseStep sample => Sys2Proof.Machine.execTimebaseStep sample s
  | .tamperInput ticks => Sys2Proof.Machine.execTamperInput ticks s
  | .handshakeFault => Sys2Proof.Machine.execHandshakeFault s
  | .resetAssert ticks => Sys2Proof.Machine.execResetAssert ticks s
  | .resetRelease pins => Sys2Proof.Machine.execResetRelease pins s
  | .powerOff => Sys2Proof.Machine.execPowerOff s
  | .provisionSlotWrite slot key perm floor => Sys2Proof.Machine.execProvisionSlotWrite slot key perm floor s
  | .provisionSlotZero slot => Sys2Proof.Machine.execProvisionSlotZero slot s
  | .dmAck => Sys2Proof.Machine.execDmAck s
  | .quiesceDone => Sys2Proof.Machine.execQuiesceDone s
  | .selftestComplete result => Sys2Proof.Machine.execSelftestComplete result s
  | .instructionStoreError kind => Sys2Proof.Machine.execInstructionStoreError kind s
  | .hostBridgeResponse id outcome => Sys2Proof.Machine.execHostBridgeResponse id outcome s
  | .selftestKeyStoreStepEnd => Sys2Proof.Machine.execSelftestKeyStoreStepEnd s

end Sys2Proof.Machine
end

