-- ==== Sys2Proof/Safety.lean ====
section
/-!
DEFINITION. What counts as a safe state and what a command answers, in the terms the statements use.
-/
namespace Sys2Proof.Machine

/-- The memories keep their canonical form. -/
def State.memWf (s : State) : Prop := s.chip.wf = true ∧ s.host.wf = true

/-- No core work queue holds more than 64 packets, nor more than one in FEEDING (06 R140, R142). -/
def State.queuesWf (s : State) : Prop :=
  ∀ p : PortId, s.queues[p].packets.length ≤ 64 ∧ (s.queues[p].packets.filter (·.state == .feeding)).length ≤ 1

/-- The answer of a command whose own effect is `t`: `t` with what follows of itself, the queue untouched. -/
def becomes (s t : State) : Res := finish s (settle t)

/-- The descriptor `j` with opcode `op` is at the front of the ring walker of `c`, in READY or RUN, and no earlier
TDESC_CREATE of an entry that it names is left (13 R298, R311). -/
def Fetched (s : State) (c : CtxId) (op : Nat) (j : Job) : Prop :=
  s.up = true ∧ frontJob s c = some j ∧ j.op = op ∧ creating (s.ctx c) j = false

/-- A descriptor so fetched that its unit accepts (13 R299). -/
def AtFront (s : State) (c : CtxId) (op : Nat) (j : Job) : Prop :=
  Fetched s c op j ∧ unitFull s c (unitOf j) = false

/-- The front descriptor leaves the ring walker for its unit. -/
def dealTo (s : State) (c : CtxId) (u : UnitId) (j : Job) : State :=
  modCtx s c fun x => { x with walker := x.walker.drop 1, dealt := x.dealt ++ [(u, j)] }

/-- The front descriptor leaves the ring walker with an error record at once. -/
def rejectFront (s : State) (c : CtxId) (j : Job) (st : Nat) : State :=
  completeErr (modCtx s c fun x => { x with walker := x.walker.drop 1 }) c (unitOf j) j st

/-- The command code and the path of a critical command's row; none for any other command. -/
def envelopeRow : Instr → Option (Nat × CritPath)
  | .ctxCreate p => some (0x01, p)
  | .ctxDestroy p => some (0x02, p)
  | .ctxClass p => some (0x03, p)
  | .ctxMode p => some (0x04, p)
  | .ctxWindows p => some (0x05, p)
  | .ctxRegulate p => some (0x06, p)
  | .disabledMap p => some (0x10, p)
  | .selftestReq p => some (0x11, p)
  | .fwLoad p => some (0x12, p)
  | .keyLoad p => some (0x20, p)
  | .keyErase p => some (0x21, p)
  | .alarmPolicy p => some (0x30, p)
  | _ => none

/-- The command may change something in OFF: it concerns the sensors, reset, power, the timebase, the erase of the key
store, a set-up access, or a response to a request made before. -/
def reachesOff : Instr → Bool
  | .sensorRecord _ => true
  | .resetAssert _ => true
  | .resetRelease _ => true
  | .powerOff => true
  | .timebaseStep _ => true
  | .keyStoreEraseDone => true
  | .latchedPairRead _ => true
  | .registerWrite _ _ _ => true
  | .ctxEnable _ _ => true
  | .ctxDisable _ _ => true
  | .ctxReset _ _ => true
  | .clearAcct _ _ => true
  | .ringConfigWrite _ _ _ => true
  | .ctxGroupWrite _ _ _ => true
  | .schedQuantumWrite _ => true
  | .tdcClear => true
  | .clearEng => true
  | .clearCtx _ => true
  | .tableSnapshot _ => true
  | .spillPeerCfgWrite _ _ => true
  | .corePortRestore _ _ => true
  | .dmaChannelEnable _ _ => true
  | .dmaChannelDisable _ _ => true
  | .dmaAbort _ _ => true
  | .memReadResponse _ _ => true
  | .memWriteResponse _ => true
  | .memErrorResponse _ => true
  | .hostBridgeResponse _ _ => true
  | _ => false

/-- The command takes the engine out of LOCKED (16 R364). -/
def endsLocked : Instr → Bool
  | .resetAssert _ => true
  | .powerOff => true
  | _ => false

/-- The command may write enable 0 to the context, or begin the drain of every context (12 R283, 17 R370). -/
def drains (c : CtxId) : Instr → Bool
  | .ctxDisable d _ => d == c
  | .ctxReset d _ => d == c
  | .clearAcct d _ => d == c
  | .registerWrite _ _ _ => true
  | .disabledMap _ => true
  | .selftestReq _ => true
  | .fwLoad _ => true
  | _ => false

/-- The command may reset the context (12 R286, 17 R370): a word of NDE_CTX_CTL, the end of a drain that a reset waits for,
or the end of a quiesce. -/
def resets (c : CtxId) : Instr → Bool
  | .ctxEnable d _ => d == c
  | .ctxDisable d _ => d == c
  | .ctxReset d _ => d == c
  | .clearAcct d _ => d == c
  | .registerWrite _ _ _ => true
  | .drainEnd d => d == c
  | .quiesceDone => true
  | _ => false

/-- The envelope `e` that the security unit handles for a path, its body read, has the command code `code`. -/
def Handles (s : State) (p : CritPath) (code e : Nat) : Prop := handled s p = some e ∧ envCmd e = code

/-- The envelope `e` that the security unit handles for a path has the command code `code` and passes every check of 16
R356 with the body `body`, its fields apart. -/
def Accepts (s : State) (p : CritPath) (code e : Nat) (body : List Byte) : Prop :=
  Handles s p code e ∧ judge s p e = .accepted body

/-- The state in which an accepted command acts: its slot has taken the envelope's counter (16 R356), and a FW_LOAD has
overwritten the store (17 R374). -/
def admitted (s : State) (e : Nat) : State := acceptEnv (dropImage s e) e

/-- The fields of an accepted command's body pass their check. -/
def fieldsOk (s : State) (e : Nat) (body : List Byte) : Bool := (fieldError s e body).isNone

/-- The answer of a command of the security unit whose own effect is `t`: `t` with what follows of itself, the queue
untouched. -/
def answers (s t : State) : Res := finish s (settleOn t)

/-- The 8 transfers of a block (15 R344). -/
def transfers (port : Fin 8) (chip : BitVec 16) (block : List Byte) : List Out :=
  tabulate 8 fun i => .transfer port chip true (i == 0) (i == 7) (slice block (64 * i) 64)

/-- The answer of a write at the set-up port whose own effect is `t`: what follows of itself, and an okay response (15
R335). -/
def writes (s t : State) : Res := finish s { settle t with setup := ⟨0, false⟩ }

/-- Two states that differ in nothing but the keys of their key slots. -/
def SameButKeys (s t : State) : Prop :=
  ∃ ks : Vector KeySlot 8, t = { s with slots := ks }
    ∧ ∀ i : Fin 8, ({ ks[i] with key := 0 } : KeySlot) = { s.slots[i] with key := 0 }

end Sys2Proof.Machine
end

