-- ==== Sys2Proof/Certificates/Slice0/Obligations.lean ====
section
/-!
DEFINITION. The statements. A command whose condition does not hold changes nothing (`finish s s`, notes/assumptions/9.md);
what follows of itself is `settle`, so `becomes s t` says that the command's own effect is `t`.
-/
open Sys2Proof Sys2Proof.Machine

/-! ## The block as a whole -/

/-- Each step runs the command at the front of the queue, on the state with the rest of the queue. -/
def Obligations.StepRunsFront : Prop :=
  ∀ (c : Instr) (rest : List Instr) (s : State), s.pending = c :: rest → step s = exec c { s with pending := rest }

/-- No command has an effect on the commands that wait. -/
def Obligations.QueueUntouched : Prop :=
  ∀ (c : Instr) (s t : State), exec c s = .next t → t.pending = s.pending

/-- Every command that could stand on its port is answered by a next state; any other is refused by name; none faults. That a
command whose condition does not hold changes nothing is the model's choice (notes/assumptions/9.md). -/
def Obligations.EveryCommandAnswers : Prop :=
  ∀ (c : Instr) (s : State),
    (c.wf = true → ∃ t, exec c s = .next t)
    ∧ (c.wf = false → ∃ why, exec c s = .refused (.illFormed why))

/-- 01 R28, 15 R351: right after reset the engine is in OFF, with no context outside FREE, empty tables, no firmware and no
key, and both memories and the queues in their form. -/
def Obligations.ResetState : Prop :=
  State.reset.eng = .off ∧ (∀ c, (State.reset.ctx c).state = .free) ∧ State.reset.seqs = [] ∧ State.reset.owner = []
    ∧ State.reset.dir = [] ∧ State.reset.tiles = [] ∧ State.reset.fw.valid = false
    ∧ (∀ i : Fin 8, State.reset.slots[i] = keySlotReset) ∧ State.reset.sec.policy = 1
    ∧ State.reset.pending = [] ∧ State.reset.memWf ∧ State.reset.queuesWf

/-- Both memories keep the model's canonical form (notes/assumptions/2.md) in every step from every state that has it. -/
def Obligations.MemoryFormKept : Prop :=
  ∀ s t : State, s.memWf → step s = .next t → t.memWf

/-- 06 R140, R142: no queue ever holds more than 64 packets, and no port has more than one packet in FEEDING: every step keeps
this, from every state that has it. -/
def Obligations.QueuesKept : Prop :=
  ∀ s t : State, s.queuesWf → step s = .next t → t.queuesWf

/-- 01 R26: the engine state changes only by the transitions of the table, each by its cause: SAFE is entered for a self-test
that fails, for an uncorrected store error, and for a FW_LOAD alone, at its row or by an error response to the read of its
body. READY and RUN are one value here, `inRun` telling them apart; what a firmware image fails on is said by 17 R374. -/
def Obligations.EngineTransitions : Prop :=
  ∀ (c : Instr) (s t : State), exec c s = .next t → t.eng ≠ s.eng →
    match s.eng, t.eng with
    | .off, .selftest => ∃ r, c = .sensorRecord r ∧ s.inReset = false ∧ railsIn r = true
    | .selftest, .up => ∃ r, c = .selftestComplete r
    | .selftest, .safe => ∃ r, c = .selftestComplete r
    | .up, .safe => (∃ p e, c = .fwLoad p ∧ Handles s p 0x12 e) ∨ c = .instructionStoreError .double
        ∨ ∃ tag r s1 p e, c = .memErrorResponse tag ∧ takeReq s tag = some (r, s1) ∧ r.owner = .crit
            ∧ s.sec.reading = some p ∧ envelopeAt s p = some e ∧ envCmd e = 0x12
    | .up, .selftest => c = .quiesceDone ∧ s.quiesce = .drain ∧ inRun s = false
    | .safe, .selftest => c = .quiesceDone ∧ s.quiesce = .drain
    | .off, .locked => False
    | _, .locked => s.sec.policy ≠ 0
        ∧ ((envelopeRow c).isSome = true ∨ (∃ n, c = .tamperInput n) ∨ c = .handshakeFault)
    | _, .off => (∃ n, c = .resetAssert n) ∨ c = .powerOff
    | _, _ => False

/-- 16 R363, R364: only reset and power leave LOCKED, and while it lasts every unit stands still: contexts, tiles, queues,
tables, streams and the work of every unit keep their values, no memory request or host access is made (those left were
made before), and nothing goes out but REFUSE frames. A sample of the timebase that jumps moves the start of the self-test
step that LOCKED broke off, so that its ticks stay (the model's choice, notes/assumptions/19.md). -/
def Obligations.LockedStandsStill : Prop :=
  ∀ (c : Instr) (s t : State), s.eng = .locked → endsLocked c = false → exec c s = .next t →
    t.eng = .locked
    ∧ t.ctxs = s.ctxs ∧ t.tiles = s.tiles ∧ t.queues = s.queues ∧ t.banks = s.banks ∧ t.seqs = s.seqs
    ∧ t.owner = s.owner ∧ t.dir = s.dir ∧ t.hotq = s.hotq ∧ t.gather = s.gather ∧ t.dma = s.dma ∧ t.peers = s.peers
    ∧ t.tx = s.tx ∧ t.rx = s.rx ∧ t.sched = s.sched ∧ t.st = { s.st with stepFrom := t.st.stepFrom } ∧ t.memWait = s.memWait
    ∧ t.frames = s.frames ∧ t.rowHolds = s.rowHolds ∧ t.serving = s.serving ∧ t.got = s.got
    ∧ (∀ r ∈ t.memOut, r ∈ s.memOut)
    ∧ (∀ h ∈ t.hostOut, ∃ k ∈ s.hostOut, h.id = k.id ∧ h.addr = k.addr ∧ h.len = k.len ∧ h.write = k.write
        ∧ h.owner = k.owner)
    ∧ (t.outbox = s.outbox ∨ ∃ (port : Fin 8) (chip : BitVec 16) (frame : Nat),
        t.outbox = s.outbox ++ [.transfer port chip false true true (leBytes 64 frame)]
        ∧ (readFrame (BitVec.ofNat 128 frame)).kind = 4)

/-- 01 R28, 15 R351: in OFF a command on a unit does nothing: only the sensor block, reset, power, the timebase, the key
store, the set-up port (which answers with an error) and the ports' late responses change anything at all
(notes/assumptions/9.md). -/
def Obligations.OffDoesNothing : Prop :=
  ∀ (c : Instr) (s t : State), s.eng = .off → reachesOff c = false → exec c s = .next t → t = s

/-! ## Descriptors dealt to their units (13 R298, R299) -/

/-- 13 R298, 05 R123, 10 R244, R249: TILE_ROUTE, TILE_COMBINE and TILE_REVERSE join their context's tile-path jobs, but the
next TILE_ROUTE after the loss of a member faults its context with PEER_LOST; MODEL_LOAD and the three forms of MODEL_PIN
join the hot-set manager's queue, and so does the reserved op 3 of MODEL_PIN. -/
def Obligations.TilePathAndHotSetDescriptors : Prop :=
  (∀ (s : State) (c : CtxId) (j : Job),
      (AtFront s c 0x01 j → (s.ctx c).groupLost = false →
        exec (.tileRoute c) s = becomes s (joinTp c (dealTo s c .tilePath j) j))
      ∧ (AtFront s c 0x02 j → exec (.tileCombine c) s = becomes s (joinTp c (dealTo s c .tilePath j) j))
      ∧ (AtFront s c 0x03 j → exec (.tileReverse c) s = becomes s (joinTp c (dealTo s c .tilePath j) j)))
  ∧ (∀ (s : State) (c : CtxId) (j : Job), AtFront s c 0x01 j → (s.ctx c).groupLost = true →
      (s.ctx c).state ≠ .free → (s.ctx c).state ≠ .faulted →
      ∃ t, exec (.tileRoute c) s = becomes s t ∧ (t.ctx c).state = .faulted ∧ (t.ctx c).faultStatus = 0x50)
  ∧ (∀ (s : State) (c : CtxId) (j : Job),
      (AtFront s c 0x40 j → exec (.modelLoad c) s = becomes s (enqueueHot c (dealTo s c .hotSet j) j))
      ∧ (AtFront s c 0x41 j → mpOp j.raw = 0 → exec (.modelUnpin c) s = becomes s (enqueueHot c (dealTo s c .hotSet j) j))
      ∧ (AtFront s c 0x41 j → mpOp j.raw = 1 ∨ mpOp j.raw = 3 →
          exec (.modelPin c) s = becomes s (enqueueHot c (dealTo s c .hotSet j) j))
      ∧ (AtFront s c 0x41 j → mpOp j.raw = 2 → exec (.modelForget c) s = becomes s (enqueueHot c (dealTo s c .hotSet j) j)))

/-- 09 R210, R223, 11 R258: a mover descriptor that fails no check joins its gather channel; one that fails completes at once
with the lowest status; with DET clear either counts as an unsynchronised block read where it is one. -/
def Obligations.MoverDescriptors : Prop :=
  ∀ (s : State) (c : CtxId) (j : Job) (i : Instr) (op : Nat),
    (i, op) ∈ [(Instr.xformCopy c, 0x10), (.gather c, 0x11), (.scatterAcc c, 0x12), (.transpose c, 0x13),
      (.expand c, 0x14)] →
    (AtFront s c op j → moverCheck s c j = none →
      exec i s = becomes s (dealMover c (countFree c (dealTo s c (unitOf j) j) j) j))
    ∧ (∀ st, Fetched s c op j → moverCheck s c j = some st →
        exec i s = becomes s (rejectFront (countFree c s j) c j st))

/-- 14 R318, R319: a DMA descriptor that fails no check enters its channel's registers; one that fails completes at once. -/
def Obligations.DmaDescriptors : Prop :=
  ∀ (s : State) (c : CtxId) (j : Job) (i : Instr) (op : Nat),
    (i, op) ∈ [(Instr.dmaCopy c, 0), (.dmaFill c, 1), (.dmaCompare c, 2)] → dmOp j = op →
    (AtFront s c 0x20 j → dmaCheck (s.ctx c) (dmaSetOf c j) = none → (s.chan (dmCh j)).state ≠ .off →
      exec i s = becomes s (modDma (dealTo s c (.dma (dmCh j)) j) (dmCh j) fun k =>
        moveShadow { k with shadow := dmaSetOf c j, shadowValid := true }))
    ∧ (∀ st, Fetched s c 0x20 j → dmaCheck (s.ctx c) (dmaSetOf c j) = some st →
        exec i s = becomes s (rejectFront s c j st))

/-- 14 R332: a descriptor dealt to an OFF channel completes with ABORTED and residue len, and nothing else happens. -/
def Obligations.DmaOffChannelAborts : Prop :=
  ∀ (s : State) (c : CtxId) (j : Job) (i : Instr) (op : Nat),
    (i, op) ∈ [(Instr.dmaCopy c, 0), (.dmaFill c, 1), (.dmaCompare c, 2)] → dmOp j = op →
    AtFront s c 0x20 j → dmaCheck (s.ctx c) (dmaSetOf c j) = none → (s.chan (dmCh j)).state = .off →
    exec i s = becomes s (complete (dealTo s c (.dma (dmCh j)) j) c (.dma (dmCh j)) j 0x21 (rf j.n 0x20 47 0) 0 0)

/-- 10 R231: a SEQ_JOIN that passes its checks makes a PENDING entry with the next join number and waits for the step
boundary; one that fails completes with the status of the first check it fails. R233: a SEQ_LEAVE of an ACTIVE entry of
its context marks it LEAVING and waits for the boundary; one of a PENDING entry frees it, ends its SEQ_JOIN with ABORTED
and completes; one that names no such entry completes with RANGE. -/
def Obligations.SequencesChanged : Prop :=
  (∀ (s : State) (c : CtxId) (j : Job), AtFront s c 0x30 j →
      (joinBad j = false → sqUser j % 64 = 0 → lookup (sqIndex j) s.seqs = none →
        (s.seqs.any fun e => e.2.ctx == c && e.2.uid == sqUid j) = false →
        exec (.seqJoin c) s = .next { settle
          (modCtx { dealTo s c .table j with seqs := insertKey (sqIndex j) (joinEntry c (s.ctx c) j) s.seqs } c fun x =>
            { markBoundary x j.c with joinSeq := x.joinSeq + 1 }) with pending := s.pending }
        ∧ (joinEntry c (s.ctx c) j).state = .pending ∧ (joinEntry c (s.ctx c) j).joinSeq = (s.ctx c).joinSeq)
      ∧ (joinBad j = true →
        exec (.seqJoin c) s = .next { settle (completeErr (dealTo s c .table j) c .table j 0x12) with pending := s.pending })
      ∧ (joinBad j = false → sqUser j % 64 ≠ 0 →
        exec (.seqJoin c) s = .next { settle (completeErr (dealTo s c .table j) c .table j 0x10) with pending := s.pending })
      ∧ (joinBad j = false → sqUser j % 64 = 0 →
        (lookup (sqIndex j) s.seqs).isSome = true ∨ (s.seqs.any fun e => e.2.ctx == c && e.2.uid == sqUid j) = true →
        exec (.seqJoin c) s = .next { settle (completeErr (dealTo s c .table j) c .table j 0x11) with pending := s.pending }))
  ∧ (∀ (s : State) (c : CtxId) (j : Job), AtFront s c 0x31 j →
      (∀ q, lookup (sqIndex j) s.seqs = some q → q.ctx = c → q.uid = sqUid j → q.state = .active →
        exec (.seqLeave c) s = .next { settle
          (modCtx { dealTo s c .table j with
              seqs := insertKey (sqIndex j) { q with state := .leaving, leaveC := some j.c } s.seqs } c fun x =>
            markBoundary x j.c) with pending := s.pending })
      ∧ (∀ q d, lookup (sqIndex j) s.seqs = some q → q.ctx = c → q.uid = sqUid j → q.state = .pending →
        q.joinC.bind (dealtJob ((dealTo s c .table j).ctx c)) = some d →
        exec (.seqLeave c) s = .next { settle
          (complete { completeErr (dealTo s c .table j) c .table d.2 0x21 with seqs := eraseKey (sqIndex j) s.seqs } c
            .table j 0 (s.ctx c).step.toNat 0 0) with pending := s.pending })
      ∧ (∀ q, lookup (sqIndex j) s.seqs = some q → q.ctx = c → q.uid = sqUid j → q.state = .pending →
        q.joinC.bind (dealtJob ((dealTo s c .table j).ctx c)) = none →
        exec (.seqLeave c) s = .next { settle
          (complete { dealTo s c .table j with seqs := eraseKey (sqIndex j) s.seqs } c .table j 0 (s.ctx c).step.toNat 0 0)
          with pending := s.pending })
      ∧ (((lookup (sqIndex j) s.seqs).filter fun q => q.ctx == c && q.uid == sqUid j && q.state != .leaving) = none →
        exec (.seqLeave c) s = .next { settle (completeErr (dealTo s c .table j) c .table j 0x11) with
          pending := s.pending }))

/-- 10 R234 to R239: a STEP_BUILD that passes its checks, with every earlier descriptor completed, runs the boundary: the
step number rises by 1, later descriptors are held, and the exit maps and the work list are written. -/
def Obligations.StepBuilt : Prop :=
  ∀ (s : State) (c : CtxId) (j : Job), AtFront s c 0x32 j → ((s.ctx c).dealt.all fun d => d.2.boundary) = true →
    (stepBad (dealTo s c .stepBuilder j) c j = none →
      exec (.stepBuild c) s = becomes s (advanceStep (runBoundary (dealTo s c .stepBuilder j) c j) c)
      ∧ ((runBoundary (dealTo s c .stepBuilder j) c j).ctx c).step = (s.ctx c).step + 1
      ∧ ((runBoundary (dealTo s c .stepBuilder j) c j).ctx c).hold = some .step
      ∧ (runBoundary (dealTo s c .stepBuilder j) c j).seqs = (boundary (dealTo s c .stepBuilder j) c j).seqs)
    ∧ (∀ st, stepBad (dealTo s c .stepBuilder j) c j = some st →
      exec (.stepBuild c) s = becomes s (completeErr (dealTo s c .stepBuilder j) c .stepBuilder j st))

/-- 09 R204, R206: a TDESC_CREATE joins the table unit, which reads the record, at rank 7 (the model's choice: 01 R24 names
no rank for it, notes/assumptions/3.md), and goes on once it has come:
a tensor that is not distributed, whose record passes the three checks, becomes an entry and is answered with its bytes; a
record at no 64-byte boundary ends it with MISALIGN. A TDESC_DESTROY of a live entry marks it and frees it, with its Owner
Table entries, once no earlier descriptor that names it is left; one of no live entry completes with RANGE. -/
def Obligations.TensorsChanged : Prop :=
  (∀ (s : State) (c : CtxId) (j : Job), AtFront s c 0x60 j →
      exec (.tdescCreate c) s = becomes s (tableStep (dealTo s c .table j) c))
  ∧ (∀ (s : State) (c : CtxId) (j : Job), createJob (s.ctx c) = some j →
      (tdRecord j % 64 ≠ 0 → createStep s c j = completeErr (dropRead s (.table c)) c .table j 0x10)
      ∧ (tdRecord j % 64 = 0 → memBusy s (· == .table c) = false →
        missingReqs s (.table c) 7 (some c) [(tdRecord j, 128)] ≠ [] →
        createStep s c j = request s (missingReqs s (.table c) 7 (some c) [(tdRecord j, 128)]))
      ∧ ∀ n, tdRecord j % 64 = 0 → memBusy s (· == .table c) = false →
        missingReqs s (.table c) 7 (some c) [(tdRecord j, 128)] = [] →
        leNat (gotRead s (.table c) (tdRecord j) 128) = n →
        recordBad n = false → recordMisaligned (tensorOf n) = false → (tensorOf n).dist = false →
        lookup (tdIndex j) (s.ctx c).tensors = none →
        inWin (s.ctx c).windows[(Fin.ofNat 4 (tensorOf n).win : Fin 4)] (tensorOf n).base (footLen (tensorOf n)) = true →
        ((s.ctx c).windows[(Fin.ofNat 4 (tensorOf n).win : Fin 4)]).base.toNat
          < ((s.ctx c).windows[(Fin.ofNat 4 (tensorOf n).win : Fin 4)]).limit.toNat →
        createStep s c j = complete (dropRead (addTensor s c (tdIndex j) (tensorOf n) []) (.table c)) c .table j 0
          (b2n (selfOverlaps (tensorOf n))) (footLen (tensorOf n)) 0)
  ∧ (∀ (s : State) (c : CtxId) (j : Job),
      (∀ t, AtFront s c 0x61 j → tensorAt (s.ctx c) (tdIndex j) j.c = some t →
        exec (.tdescDestroy c) s = becomes s (modCtx (dealTo s c .table j) c fun x =>
          { x with tensors := modKey (tdIndex j) (fun t => { t with dying := some j.c }) x.tensors }))
      ∧ (AtFront s c 0x61 j → tensorAt (s.ctx c) (tdIndex j) j.c = none →
        exec (.tdescDestroy c) s = becomes s (completeErr (dealTo s c .table j) c .table j 0x11))
      ∧ (s.live = true → freeable (s.ctx c) = some j →
        exec (.tdescFree c) s = becomes s
          (complete (modCtx { s with owner := s.owner.filter fun o => !(o.2.ctx == c && o.2.index == tdIndex j) } c
            fun x => { x with tensors := eraseKey (tdIndex j) x.tensors }) c .table j 0 0 0 0)))

/-- 13 R309, R310: a FENCE with a good scope holds every later descriptor of its context, and completes with OK and lets them
go once no earlier descriptor in its scope is left; a bad scope completes with BAD_OPCODE. An EPOCH_WAIT on a valid block,
or on an aligned word in a window, holds every later descriptor; for a block of another engine a READ_REQ goes there, unless
that engine is lost (PEER_LOST); an invalid entry and a word outside the windows complete with RANGE, a word at no 64-byte
boundary with MISALIGN. The wait ends with OK, its value the epoch or the word, once the own block has reached the epoch,
the answer from the other engine (told by its tag, the model's choice: notes/assumptions/10.md) says so, or the word has
reached its target; the word is read at once and again 500 ticks after a read that found it short of its target. -/
def Obligations.WaitsHoldTheRing : Prop :=
  (∀ (s : State) (c : CtxId) (j : Job),
      (AtFront s c 0x50 j → fenceBad j = false →
        exec (.fence c) s = becomes s (modCtx (dealTo s c .walker j) c fun x => { x with hold := some .fence }))
      ∧ (AtFront s c 0x50 j → fenceBad j = true →
        exec (.fence c) s = becomes s (completeErr (dealTo s c .walker j) c .walker j 0x12))
      ∧ (s.live = true → (s.ctx c).hold = some .fence → holder (s.ctx c) 0x50 = some j →
        (s.ctx c).dealt.any (inScope j) = false →
        exec (.fenceRelease c) s = becomes s
          (complete (modCtx s c fun x => { x with hold := none }) c .walker j 0 0 0 0)))
  ∧ (∀ (s : State) (c : CtxId) (j : Job),
      (AtFront s c 0x51 j → ewSource j = 0 → owValid (ownerRaw s (ewEntry j)) = true →
        owOwn (ownerRaw s (ewEntry j)) = true →
        exec (.epochWaitOwner c) s = becomes s (modCtx (dealTo s c .walker j) c fun x => { x with
          hold := some (.epochOwner (ewTag x c) none), waitNo := x.waitNo + 1 }))
      ∧ (AtFront s c 0x51 j → ewSource j = 0 → owValid (ownerRaw s (ewEntry j)) = true →
        owOwn (ownerRaw s (ewEntry j)) = false →
        destLost s (owChip (ownerRaw s (ewEntry j))) (owEngine (ownerRaw s (ewEntry j))) = false →
        exec (.epochWaitOwner c) s = becomes s
          (askEpoch (modCtx (dealTo s c .walker j) c fun x => { x with
            hold := some (.epochOwner (ewTag x c) none), waitNo := x.waitNo + 1 }) c j (ewTag (s.ctx c) c)))
      ∧ (AtFront s c 0x51 j → ewSource j = 0 → owValid (ownerRaw s (ewEntry j)) = true →
        owOwn (ownerRaw s (ewEntry j)) = false →
        destLost s (owChip (ownerRaw s (ewEntry j))) (owEngine (ownerRaw s (ewEntry j))) = true →
        exec (.epochWaitOwner c) s = becomes s (completeErr (dealTo s c .walker j) c .walker j 0x50))
      ∧ (AtFront s c 0x51 j → ewSource j = 0 → owValid (ownerRaw s (ewEntry j)) = false →
        exec (.epochWaitOwner c) s = becomes s (completeErr (dealTo s c .walker j) c .walker j 0x11))
      ∧ (AtFront s c 0x51 j → ewSource j = 1 → ewWord j % 64 = 0 → inWindows (s.ctx c) (ewWord j) 8 = true →
        exec (.epochWaitWord c) s = becomes s
          (request (modCtx (dealTo s c .walker j) c fun x => { x with hold := some (.epochWord true s.tick) })
            (readReqs (.wait c) (ewWord j) 8 5 (some c))))
      ∧ (AtFront s c 0x51 j → ewSource j = 1 → ewWord j % 64 ≠ 0 →
        exec (.epochWaitWord c) s = becomes s (completeErr (dealTo s c .walker j) c .walker j 0x10))
      ∧ (AtFront s c 0x51 j → ewSource j = 1 → ewWord j % 64 = 0 → inWindows (s.ctx c) (ewWord j) 8 = false →
        exec (.epochWaitWord c) s = becomes s (completeErr (dealTo s c .walker j) c .walker j 0x11))
      ∧ (∀ last, s.live = true → (s.ctx c).hold = some (.epochWord false last) → holder (s.ctx c) 0x51 = some j →
        500 ≤ s.since last →
        exec (.epochWaitPoll c) s = becomes s
          (request (modCtx s c fun x => { x with hold := some (.epochWord true s.tick) })
            (readReqs (.wait c) (ewWord j) 8 5 (some c)))))
  ∧ (∀ (s : State) (c : CtxId) (j : Job), holder (s.ctx c) 0x51 = some j →
      (∀ tag due, (s.ctx c).hold = some (.epochOwner tag due) → owOwn (ownerRaw s (ewEntry j)) = true →
        (reachedEpoch (owEpoch (ownerRaw s (ewEntry j))) (ewEpoch j) = true →
          ownWait s c = complete (modCtx s c fun x => { x with hold := none }) c .walker j 0
            (owEpoch (ownerRaw s (ewEntry j))) 0 0)
        ∧ (reachedEpoch (owEpoch (ownerRaw s (ewEntry j))) (ewEpoch j) = false → ownWait s c = s))
      ∧ (∀ (tag : BitVec 16) (chip : BitVec 16) (engine : Bool) (bs : List Byte),
        (s.ctx c).hold = some (.epochOwner tag none) → owOwn (ownerRaw s (ewEntry j)) = false →
        owChip (ownerRaw s (ewEntry j)) = chip → owEngine (ownerRaw s (ewEntry j)) = engine →
        (rdTag bs = tag.toNat → rdStatus bs = 0 →
          waitAnswer s c chip engine bs = complete (modCtx s c fun x => { x with hold := none }) c .walker j 0 (rdEpoch bs) 0 0)
        ∧ (rdTag bs ≠ tag.toNat → waitAnswer s c chip engine bs = s))
      ∧ (∀ reading last w, (s.ctx c).hold = some (.epochWord reading last) →
        (subMod 64 w (ewTarget j) < 2 ^ 63 →
          wordArrived s c w = complete (modCtx s c fun x => { x with hold := none }) c .walker j 0 w 0 0)
        ∧ (2 ^ 63 ≤ subMod 64 w (ewTarget j) →
          wordArrived s c w = modCtx s c fun x => { x with hold := some (.epochWord false last) })))

/-! ## Authenticated commands (16) -/

/-- 16 R356, R361: an accepted CTX_ command whose fields pass their check has the effect of its body on the context it
names and completes with OK. -/
def Obligations.ContextCommands : Prop :=
  ∀ (s : State) (p : CritPath) (e : Nat) (body : List Byte) (i : Instr) (code : Nat) (effect : State → Nat → State),
    envelopeRow i = some (code, p) → Accepts s p code e body → fieldsOk (admitted s e) e body = true →
    (code, effect) ∈ [(0x01, fun a b => done (createCtx a b) p e (bdCtx b).val),
      (0x02, fun a b => done (destroyCtx a (bdCtx b)) p e 0),
      (0x03, fun a b => done (modCtx a (bdCtx b) fun x => { x with lc := bdClass b }) p e 0),
      (0x04, fun a b => changeMode a p e b),
      (0x05, fun a b => done (modCtx a (bdCtx b) fun x => { x with windows := bdWindows b }) p e 0),
      (0x06, fun a b => done (regulateCtx a b) p e 0)] →
    exec i s = answers s (effect (admitted s e) (leNat (body.take 128)))

/-- 16 R361, 17 R370: accepted DISABLED_MAP and SELFTEST_REQ complete with OK and begin the quiesce; KEY_ERASE zeroes its
slot, ALARM_POLICY sets the policy, and KEY_LOAD fills its slot with the key its body wraps, or completes with RANGE where
the wrap does not open, whatever else is wrong with its body (RANGE is the lowest code that can apply, 13 R315). -/
def Obligations.EngineCommands : Prop :=
  ∀ (s : State) (p : CritPath) (e : Nat) (body : List Byte) (b : Nat), b = leNat (body.take 128) →
    (Accepts s p 0x10 e body → fieldsOk (admitted s e) e body = true →
      exec (.disabledMap p) s = answers s (driveMap (done (admitted s e) p e 0) b))
    ∧ (Accepts s p 0x11 e body → fieldsOk (admitted s e) e body = true →
      exec (.selftestReq p) s = answers s (startQuiesce (done (admitted s e) p e 0) .drain))
    ∧ (∀ key, Accepts s p 0x20 e body → fieldsOk (admitted s e) e body = true →
      wrappedKey (admitted s e) e body = some key →
      exec (.keyLoad p) s = answers s (done (loadKey (admitted s e) b key) p e (kcvOf key).toNat))
    ∧ (Accepts s p 0x20 e body → wrappedKey (admitted s e) e body = none →
      exec (.keyLoad p) s = answers s (endCrit (admitted s e) p 0x11 0 0 0))
    ∧ (Accepts s p 0x21 e body → fieldsOk (admitted s e) e body = true →
      exec (.keyErase p) s = answers s
        (done { admitted s e with slots := (admitted s e).slots.set (Fin.ofNat 8 (rf b 0 2 0)) keySlotReset } p e 0))
    ∧ (Accepts s p 0x30 e body → fieldsOk (admitted s e) e body = true →
      exec (.alarmPolicy p) s = answers s
        (done { admitted s e with sec := { (admitted s e).sec with policy := BitVec.ofNat 2 (rf b 0 1 0) } } p e 0))

/-- 17 R374, R370: a FW_LOAD whose envelope passes every check loads a good image and begins the quiesce; a bad image leaves
the engine in SAFE with cause 3 and no image. -/
def Obligations.FirmwareLoad : Prop :=
  ∀ (s : State) (p : CritPath) (e : Nat) (body : List Byte), Accepts s p 0x12 e body →
    (imageError body = none →
      exec (.fwLoad p) s = answers s
        (startQuiesce (done (loadImage (admitted s e) body) p e (envLen e)) .drain))
    ∧ (∀ n, imageError body = some n →
      ∃ t, exec (.fwLoad p) s = answers s t ∧ t.eng = .safe ∧ t.st.safeCause = 3 ∧ t.fw.valid = false ∧ t.fw.check = n)

/-- 16 R356 check 7, R362, R363: an envelope with a good tag and a counter not above its slot's executes nothing. Under LOG
it completes with COUNTER_STALE and is counted, but a FW_LOAD leaves the engine without an image, and a live one in SAFE (17
R374; that it does so under LOG is the model's reading, notes/assumptions/13.md); under LOCK and ERASE the engine is
LOCKED, every context, the policy and both memories as they were, and the key slots as the provisioning writes that waited
leave them (16 R364). -/
def Obligations.StaleEnvelopeExecutesNothing : Prop :=
  ∀ (s : State) (p : CritPath) (e : Nat) (i : Instr) (code : Nat),
    envelopeRow i = some (code, p) → Handles s p code e → earlyCheck s p e = none →
    tagOk s e (bodyGot s e) = true → envCounter e ≤ s.slots[envSlot e].counter.toNat →
    (s.sec.policy = 0 → code ≠ 0x12 →
      exec i s = answers s (endCrit (countViolation s 1) p 0x31 0 0 0))
    ∧ (s.sec.policy = 0 → code = 0x12 →
      ∃ t, exec i s = answers s t ∧ t.eng = (if s.live then .safe else s.eng) ∧ t.fw.valid = false ∧ t.slots = s.slots)
    ∧ (s.sec.policy ≠ 0 → ∃ t, exec i s = .next t ∧ t.eng = .locked ∧ t.tiles = s.tiles ∧ t.memOut = s.memOut
        ∧ t.ctxs = s.ctxs ∧ t.sec.policy = s.sec.policy ∧ t.slots = (provisionAll s).slots ∧ t.provWait = []
        ∧ t.chip = s.chip ∧ t.host = s.host ∧ t.quiesce = s.quiesce ∧ t.dm = s.dm ∧ t.pins = s.pins
        ∧ (code ≠ 0x12 → t.fw = s.fw) ∧ t.sec.accepted = s.sec.accepted
        ∧ t.sec.vcount[1] = satInc s.sec.vcount[1])

/-- 17 R375. -/
def Obligations.NoFirmwareRefusesContexts : Prop :=
  (∀ (s : State) (p : CritPath) (e : Nat) (i : Instr) (code : Nat),
    envelopeRow i = some (code, p) → Handles s p code e → 1 ≤ code → code ≤ 6 → s.fw.valid = false →
    earlyCheck s p e = none → tagOk s e (bodyGot s e) = true → s.slots[envSlot e].counter.toNat < envCounter e →
    bvBit s.slots[envSlot e].perm 0 = true →
    exec i s = answers s (endCrit (admitted s e) p 0x11 0 0 0))
  ∧ ∀ (s : State) (f : Firmware) (cmd : Nat), 6 < cmd →
      critAllowed { s with fw := f } cmd = critAllowed s cmd

/-- 16 R362 to R364, 15 R348: tamper seen high at 4 ticks, and a handshake fault, are counted at their source and
raise the alarm. Under LOG nothing else changes; under LOCK the engine is LOCKED; under ERASE the key store is to be
zeroed too, which takes until the erase ends (notes/assumptions/15.md; KeyStoreWrites says what its end does). A
shorter pulse is ignored. -/
def Obligations.ViolationsAct : Prop :=
  ∀ (s : State) (i : Instr) (src : Fin 4),
    ((∃ n, 4 ≤ n ∧ i = .tamperInput n ∧ src = 2) ∨ (i = .handshakeFault ∧ src = 3)) → s.eng ≠ .off →
    (s.sec.policy = 0 ∨ s.eng = .locked → exec i s = finish s (countViolation s src))
    ∧ (s.sec.policy ≠ 0 → s.eng ≠ .locked → ∃ t, exec i s = .next t ∧ t.eng = .locked
        ∧ t.sec.vcount[src] = satInc s.sec.vcount[src] ∧ t.sec.alarm = true
        ∧ t.sec.erasing = (s.sec.erasing || s.sec.policy == 2) ∧ t.ctxs = s.ctxs ∧ t.chip = s.chip
        ∧ t.outbox = s.outbox ∧ t.memOut = s.memOut)
    ∧ (∀ n, 1 ≤ n → n < 4 → exec (.tamperInput n) s = finish s s)

/-- 16 R359, R360, R363: a provisioning write acts on its slot at once, or waits with those before it where it is held: for
step 10 of a self-test, while an envelope is handled, and for an erase (when it is held on an entry to SELFTEST from
another state than OFF, and that writes wait for an erase, is the model's choice, notes/assumptions/15.md); the end of an
erase leaves every slot zero. -/
def Obligations.KeyStoreWrites : Prop :=
  ∀ (s : State) (slot : Fin 8) (key : BitVec 256) (perm : BitVec 6) (floor : BitVec 64),
    (s.eng ≠ .off → provHeld s = false →
      exec (.provisionSlotWrite slot key perm floor) s
        = .next { s with slots := s.slots.set slot ⟨true, key, perm, floor, kcvOf key⟩ })
    ∧ (s.eng ≠ .off → provHeld s = false →
      exec (.provisionSlotZero slot) s
        = .next { s with slots := s.slots.set slot keySlotReset })
    ∧ (s.eng ≠ .off → provHeld s = true →
      exec (.provisionSlotWrite slot key perm floor) s
        = .next { s with provWait := s.provWait ++ [.write slot key perm floor] })
    ∧ (s.eng ≠ .off → provHeld s = true →
      exec (.provisionSlotZero slot) s
        = .next { s with provWait := s.provWait ++ [.zero slot] })
    ∧ (s.sec.erasing = true → s.provWait = [] →
      exec .keyStoreEraseDone s = .next { s with
        sec := { s.sec with erasing := false }, slots := Vector.replicate 8 keySlotReset })

/-- 16 R358: no read of the set-up window shows a key: two states that differ in their keys alone answer every read
alike. -/
def Obligations.KeysAreNeverRead : Prop :=
  ∀ (s t : State) (o : BitVec 20), SameButKeys s t →
    ∃ u v, exec (.latchedPairRead o) s = .next u ∧ exec (.latchedPairRead o) t = .next v ∧ u.setup = v.setup
      ∧ u.latches = v.latches

/-! ## The set-up port (15 R335, 00 R6, 19) -/

/-- 15 R335: a write with all four byte enables to a defined register acts in READY, RUN and SAFE; any other write changes
nothing but the response and setup_err. -/
def Obligations.RegisterWrites : Prop :=
  ∀ (s : State) (o : BitVec 20) (w : Reg) (en : BitVec 4),
    (∀ r, s.live = true → regAt o.toNat = some r →
      exec (.registerWrite o w 15) s = writes s (writeEffect s r w.toNat))
    ∧ ((s.live = false ∨ en ≠ 15 ∨ regAt o.toNat = none) →
      exec (.registerWrite o w en) s = .next { s with
        setup := ⟨0, true⟩, portErr := { s.portErr with setup := s.portErr.setup || s.on } })

/-- 15 R335, 19 R388: a read returns a register's value; one of the LO of a pair latches the upper half, which a read of its
HI returns later; a read of an undefined offset, or in OFF, answers with an error. -/
def Obligations.RegisterReads : Prop :=
  ∀ (s : State) (o : BitVec 20),
    (∀ r, s.on = true → regAt o.toNat = some r →
      ∃ t, exec (.latchedPairRead o) s = .next t ∧ t.setup = ⟨BitVec.ofNat 32 (regValue s o.toNat r), false⟩)
    ∧ (∀ (pr : Pair) (o' : BitVec 20), s.on = true → regAt o.toNat = some (.lo pr) → regAt o'.toNat = some (.hi pr) →
        o'.toNat = o.toNat + 4 → pr ≠ .tdc →
        ∃ t u, exec (.latchedPairRead o) s = .next t ∧ t.setup.data = BitVec.ofNat 32 (pairValue s pr)
          ∧ exec (.latchedPairRead o') t = .next u ∧ u.setup.data = BitVec.ofNat 32 (pairValue s pr / 2 ^ 32))
    ∧ (∀ o' : BitVec 20, s.on = true → regAt o.toNat = some (.lo .tdc) → regAt o'.toNat = some (.hi .tdc) →
        o'.toNat = o.toNat + 4 →
        ∃ t u, exec (.latchedPairRead o) s = .next t ∧ t.setup.data = BitVec.ofNat 32 s.tdc.total.toNat
          ∧ exec (.latchedPairRead o') t = .next u
          ∧ u.setup.data = BitVec.ofNat 32 (s.tdc.total.toNat / 2 ^ 32 + b2n s.tdc.saturated * 2 ^ 31))
    ∧ (s.on = false ∨ regAt o.toNat = none →
      ∃ t, exec (.latchedPairRead o) s = .next t ∧ t.setup = ⟨0, true⟩ ∧ t.latches = s.latches)

/-- 12 R283, R284, R286, R290, 13 R291: enable, disable, reset and clear_acct of a context, each with the other bits of the
word of NDE_CTX_CTL as they must stand for it alone. While the context drains, enable and reset wait for the drain's end. A
FAULTED context takes a reset alone. A FREE one takes none of the first three, but an enable sets grp_err where its rank
lies outside its group (19 R396; that it does nothing else is the model's choice, notes/assumptions/20.md). -/
def Obligations.ContextControl : Prop :=
  ∀ (s : State) (c : CtxId) (w : Reg), s.live = true →
    ((s.ctx c).state ≠ .free → (s.ctx c).state ≠ .faulted → bitAt w.toNat 1 = false → bitAt w.toNat 2 = false →
      ((s.ctx c).drainBusy = false → (s.ctx c).enabled = false → ringOk (s.ctx c) = true → grpOk (s.ctx c) = true →
        exec (.ctxEnable c w) s = writes s (modCtx s c fun x =>
          { x with enabled := true, enablePending := false, pollNow := 1, lastPoll := none }))
      ∧ ((s.ctx c).drainBusy = false → (s.ctx c).enabled = false → (ringOk (s.ctx c) && grpOk (s.ctx c)) = false →
        exec (.ctxEnable c w) s = writes s (modCtx s c fun x =>
          { x with cfgErr := x.cfgErr || !ringOk x, grpErr := x.grpErr || !grpOk x }))
      ∧ ((s.ctx c).drainBusy = false → (s.ctx c).enabled = true → exec (.ctxEnable c w) s = writes s s)
      ∧ ((s.ctx c).drainBusy = true → exec (.ctxEnable c w) s = writes s (modCtx s c fun x =>
          { x with enablePending := true }))
      ∧ ((s.ctx c).drainBusy = false → (s.ctx c).enabled = true → exec (.ctxDisable c w) s = writes s (drainCtx s c))
      ∧ ((s.ctx c).drainBusy = false → (s.ctx c).enabled = false → exec (.ctxDisable c w) s = writes s s)
      ∧ ((s.ctx c).drainBusy = true → exec (.ctxDisable c w) s = writes s (modCtx s c fun x =>
          { x with enablePending := false })))
    ∧ (bitAt w.toNat 0 = false → bitAt w.toNat 2 = false → (s.ctx c).drainBusy = false →
      (s.ctx c).state = .faulted ∨ ((s.ctx c).state = .idle ∧ (s.ctx c).enabled = false) →
      exec (.ctxReset c w) s = writes s (resetCtx s c))
    ∧ (bitAt w.toNat 0 = false → bitAt w.toNat 2 = false → (s.ctx c).drainBusy = true → (s.ctx c).state ≠ .free →
      (s.ctx c).state ≠ .faulted →
      exec (.ctxReset c w) s = writes s (modCtx s c fun x => { x with enablePending := false, resetPending := true }))
    ∧ (bitAt w.toNat 1 = false → (s.ctx c).drainBusy = false →
      (bitAt w.toNat 0 = (s.ctx c).enabled ∨ (s.ctx c).state = .free ∨ (s.ctx c).state = .faulted) →
      exec (.clearAcct c w) s = writes s (modCtx s c fun x => { x with acct := Vector.replicate 8 0, acctWrap := 0 }))
    ∧ ((s.ctx c).state = .faulted → bitAt w.toNat 2 = false →
      (bitAt w.toNat 1 = false → exec (.ctxEnable c w) s = writes s s ∧ exec (.ctxDisable c w) s = writes s s)
      ∧ ((s.ctx c).drainBusy = true →
        exec (.ctxReset c w) s = writes s (modCtx s c fun x => { x with resetPending := true })))
    ∧ ((s.ctx c).state = .free → (s.ctx c).drainBusy = false → bitAt w.toNat 2 = false →
      exec (.ctxEnable c w) s = writes s (modCtx s c fun x => { x with grpErr := x.grpErr || !grpOk x })
      ∧ exec (.ctxDisable c w) s = writes s s
      ∧ (bitAt w.toNat 0 = false → exec (.ctxReset c w) s = writes s s))

/-- 13 R291, 19 R396: ring registers take a write while their context is FREE, or IDLE with enable 0 and not draining, and
so do the group registers; at any other time the write is refused with cfg_err, or grp_err, and changes nothing else.
NDE_CTX_POLL is always written. -/
def Obligations.RingAndGroupRegisters : Prop :=
  ∀ (s : State) (c : CtxId) (w : Reg), s.live = true →
    (quietCtx (s.ctx c) = true →
      exec (.ringConfigWrite c .sqBaseLo w) s = writes s (modCtx s c fun x =>
        { x with sqBase := setHalf false x.sqBase w.toNat 64 })
      ∧ exec (.ringConfigWrite c .sqBaseHi w) s = writes s (modCtx s c fun x =>
        { x with sqBase := setHalf true x.sqBase w.toNat 1 })
      ∧ exec (.ringConfigWrite c .cqBaseLo w) s = writes s (modCtx s c fun x =>
        { x with cqBase := setHalf false x.cqBase w.toNat 64 })
      ∧ exec (.ringConfigWrite c .cqBaseHi w) s = writes s (modCtx s c fun x =>
        { x with cqBase := setHalf true x.cqBase w.toNat 1 })
      ∧ exec (.ringConfigWrite c .dbLo w) s = writes s (modCtx s c fun x =>
        { x with db := setHalf false x.db w.toNat 8 })
      ∧ exec (.ringConfigWrite c .dbHi w) s = writes s (modCtx s c fun x =>
        { x with db := setHalf true x.db w.toNat 1 })
      ∧ exec (.ringConfigWrite c .ringSize w) s = writes s (modCtx s c fun x =>
        { x with sqLog2 := BitVec.ofNat 5 w.toNat, cqLog2 := BitVec.ofNat 5 (w.toNat >>> 8) })
      ∧ exec (.ctxGroupWrite c .grp w) s = writes s (modCtx s c fun x =>
        { x with grpRank := BitVec.ofNat 16 w.toNat, grpMembers := BitVec.ofNat 16 (w.toNat >>> 16) })
      ∧ ∀ l, namesSelf s c w.toNat = false → exec (.ctxGroupWrite c (.peer l) w) s = writes s (modCtx s c fun x =>
          { x with grpPeers := x.grpPeers.set l (grpPeerOf w.toNat) }))
    ∧ (∀ l, namesSelf s c w.toNat = true → exec (.ctxGroupWrite c (.peer l) w) s = writes s (modCtx s c fun x =>
          { x with grpErr := true }))
    ∧ (∀ r, quietCtx (s.ctx c) = false → r ≠ .poll →
      exec (.ringConfigWrite c r w) s = writes s (modCtx s c fun x => { x with cfgErr := true }))
    ∧ (∀ r, quietCtx (s.ctx c) = false →
      exec (.ctxGroupWrite c r w) s = writes s (modCtx s c fun x => { x with grpErr := true }))
    ∧ exec (.ringConfigWrite c .poll w) s = writes s (modCtx s c fun x => { x with pollMax := pollMaxOf w.toNat })

/-- 11 R261, 18 R383, 12 R278, 19 R399, 07 R150, 15 R343: the rows that clear counters, set the quanta, take a table
snapshot, configure a spill set entry and restore core ports. -/
def Obligations.ClearsAndSettings : Prop :=
  ∀ (s : State) (c : CtxId) (w : Reg) (n : Fin 32) (m : Fin 3), s.live = true →
    exec .tdcClear s = writes s { s with tdc := ⟨0, Vector.replicate 7 0, false⟩ }
    ∧ exec .clearEng s = writes s { s with tele := Vector.replicate 10 0, teleWrap := 0 }
    ∧ exec (.clearCtx c) s = writes s (modCtx s c fun x => { x with tele := Vector.replicate 34 0, teleWrap := 0 })
    ∧ exec (.schedQuantumWrite w) s = writes s (quantumPreempt { s with sched := { s.sched with
        quantumBe := BitVec.ofNat 16 w.toNat, quantumLc := BitVec.ofNat 16 (w.toNat >>> 16) } })
    ∧ exec (.tableSnapshot w) s = writes s (snapshot s w.toNat)
    ∧ (cfgBad s w.toNat = true → exec (.spillPeerCfgWrite n w) s = writes s { s with
        peers := vmod s.peers n fun p => { p with cfgErr := true } })
    ∧ (cfgBad s w.toNat = false → exec (.spillPeerCfgWrite n w) s = writes s (peerCfg s n w.toNat))
    ∧ exec (.corePortRestore m w) s = writes s { s with
        coreFail := s.coreFail &&& ~~~ BitVec.ofNat 80 (w.toNat <<< (32 * m.val)) }

/-- 14 R333: enable 1 while a channel drains sets enable_pending, enable 0 then clears it, and the drain ends in IDLE or in
OFF accordingly; enable 1 of an enabled channel and enable 0 of an OFF one leave its state. (share_m1 is written with every
word.) -/
def Obligations.DmaEnableWhileDraining : Prop :=
  ∀ (s : State) (ch : ChanId) (w : Reg), s.live = true → bitAt w.toNat 1 = false →
    ((s.chan ch).state = .draining → exec (.dmaChannelEnable ch w) s = writes s (modDma s ch fun k =>
      { k with shareM1 := BitVec.ofNat 8 (fld w.toNat 15 8), enable := true, enablePending := true }))
    ∧ ((s.chan ch).state = .draining → exec (.dmaChannelDisable ch w) s = writes s (modDma s ch fun k =>
      { k with shareM1 := BitVec.ofNat 8 (fld w.toNat 15 8), enable := false, enablePending := false }))
    ∧ ((s.chan ch).state = .off → exec (.dmaChannelEnable ch w) s = writes s (modDma s ch fun k =>
      { k with shareM1 := BitVec.ofNat 8 (fld w.toNat 15 8), enable := true, state := .idle }))
    ∧ ((s.chan ch).state = .idle → exec (.dmaChannelDisable ch w) s = writes s (modDma s ch fun k =>
      { k with shareM1 := BitVec.ofNat 8 (fld w.toNat 15 8), enable := false, state := .off }))
    ∧ ((s.chan ch).state = .idle ∨ (s.chan ch).state = .busy →
      exec (.dmaChannelEnable ch w) s = writes s (modDma s ch fun k =>
        { k with shareM1 := BitVec.ofNat 8 (fld w.toNat 15 8), enable := true }))
    ∧ ((s.chan ch).state = .off → exec (.dmaChannelDisable ch w) s = writes s (modDma s ch fun k =>
      { k with shareM1 := BitVec.ofNat 8 (fld w.toNat 15 8), enable := false }))
    ∧ (drainOver s ch = true → ((endChanDrain s ch).chan ch).state = (if (s.chan ch).enablePending then .idle else .off)
        ∧ ((endChanDrain s ch).chan ch).enablePending = false)

/-- 14 R327, R331, R324: an abort marks the active descriptor of an enabled channel; a disable while BUSY aborts it too, and
the channel drains with an empty shadow set. A burst that is left, with fewer than four in flight, the limiter open and no
request of the channel waiting, issues, unless its context's memory regulator or a full channel of the memory port holds
its first request. That it issues when its first request can is the model's choice (notes/assumptions/41.md), and so is
that a DMA_BURST_ISSUE of one that cannot changes nothing (notes/assumptions/9.md). -/
def Obligations.DmaAbortAndBurst : Prop :=
  ∀ (s : State) (ch : ChanId) (w : Reg),
    (s.live = true → bitAt w.toNat 0 = true → (s.chan ch).state = .busy ∨ (s.chan ch).state = .idle →
      exec (.dmaAbort ch w) s = writes s (modDma s ch fun k =>
        { k with shareM1 := BitVec.ofNat 8 (fld w.toNat 15 8), enable := true,
                 aborting := k.activeValid || k.aborting }))
    ∧ (s.live = true → bitAt w.toNat 1 = false → (s.chan ch).state = .busy →
      ∃ t, exec (.dmaChannelDisable ch w) s = writes s t ∧ (t.chan ch).state = .draining
        ∧ (t.chan ch).shadowValid = false ∧ (t.chan ch).aborting = ((s.chan ch).activeValid || (s.chan ch).aborting)
        ∧ (t.chan ch).active = (s.chan ch).active)
    ∧ (s.live = true → burstLeft (s.chan ch) = true → limiterHeld s (s.chan ch) = false → channelFree s ch = true →
      (∀ a, firstOnChip (s.chan ch).active (s.chan ch).nextBurst = some a →
        memOpen s (Fin.ofNat 16 (s.chan ch).active.ctx.toNat) = true ∧ chanRoom s a = true) →
      exec (.dmaBurstIssue ch) s = becomes s (issueBurst s ch)
      ∧ ((s.chan ch).active.op = 1 → (issueBurst s ch).chip = s.chip
          ∧ ((issueBurst s ch).chan ch).nextBurst = (s.chan ch).nextBurst + 1))
    ∧ (∀ a, s.live = true → burstLeft (s.chan ch) = true → limiterHeld s (s.chan ch) = false → channelFree s ch = true →
      firstOnChip (s.chan ch).active (s.chan ch).nextBurst = some a →
      (memOpen s (Fin.ofNat 16 (s.chan ch).active.ctx.toNat) = false →
        exec (.dmaBurstIssue ch) s = becomes s (modCtx s (Fin.ofNat 16 (s.chan ch).active.ctx.toNat) fun x =>
          { x with regMem := { regNow x.regMem s.now with held := true } }))
      ∧ (memOpen s (Fin.ofNat 16 (s.chan ch).active.ctx.toNat) = true → chanRoom s a = false →
        exec (.dmaBurstIssue ch) s = becomes s s))
    ∧ (burstLeft (s.chan ch) = false ∨ limiterHeld s (s.chan ch) = true ∨ channelFree s ch = false →
      exec (.dmaBurstIssue ch) s = finish s s)

/-! ## Host rings (13) -/

/-- 13 R294 to R296: an enabled context's doorbell is read once its interval has passed. A valid word gives the tail and the
head, and the poll interval is 1 after a change, else twice the last up to poll_max; a bus error sets host_err and counts
as no change. A record write that failed is made again (13 R317). -/
def Obligations.DoorbellRead : Prop :=
  (∀ (s : State) (c : CtxId), s.live = true → polled (s.ctx c) = true → (s.ctx c).dbReading = false →
      (∀ t, (s.ctx c).lastPoll = some t → 250 * (s.ctx c).pollNow.toNat ≤ s.since t) →
      exec (.doorbellPoll c) s = becomes s (modCtx s c fun x => { x with lastPoll := some s.tick, dbReading := true }))
  ∧ (∀ (s : State) (c : CtxId), s.live = true → (s.ctx c).dbReading = true → polled (s.ctx c) = true →
      (∀ (tail head : BitVec 32), doorbellOk (s.ctx c) tail head = true →
        exec (.doorbellReadDone c (some (head ++ tail))) s = becomes s (retryRecord (modCtx s c fun x =>
          { x with
            dbReading := false, fetchFailed := false, tail := tail, head := head
            pollNow := if tail = x.tail ∧ head = x.head then
                BitVec.ofNat 9 (min (2 * x.pollNow.toNat) (max 1 x.pollMax.toNat)) else 1 }) c))
      ∧ exec (.doorbellReadDone c none) s = becomes s (retryRecord (modCtx s c fun x =>
          { x with
            dbReading := false, fetchFailed := false, hostErr := true
            pollNow := BitVec.ofNat 9 (min (2 * x.pollNow.toNat) (max 1 x.pollMax.toNat)) }) c))

/-- 13 R295: which doorbell values are rejected, and what the engine keeps and sets then; the read has ended, so the next
poll reads the word afresh. -/
def Obligations.DoorbellRejected : Prop :=
  ∀ (s : State) (c : CtxId) (tail head : BitVec 32), s.live = true → (s.ctx c).dbReading = true →
    polled (s.ctx c) = true →
    (2 ^ (s.ctx c).sqLog2.toNat < (tail - (s.ctx c).fetched).toNat
      ∨ 2 ^ (s.ctx c).cqLog2.toNat < ((s.ctx c).written - head).toNat) →
    ∃ t, exec (.doorbellReadDone c (some (head ++ tail))) s = becomes s t
      ∧ (t.ctx c).tail = (s.ctx c).tail ∧ (t.ctx c).head = (s.ctx c).head ∧ (t.ctx c).badDoorbell = true
      ∧ (t.ctx c).dbReading = false

/-- 13 R292, R297, R300, R317: in its turn a context has one ring read outstanding, of as many descriptors as its tail, its
queue and the ring's end allow, at SQ base + 64 × (F mod ring size), in SAFE of their headers alone; the descriptors that
arrive join the ring walker in order and F advances by their number; in SAFE each is answered with SAFE_STATE instead; a
bus error sets host_err and F does not advance. -/
def Obligations.DescriptorsFetched : Prop :=
  ∀ (s : State) (c : CtxId),
    (s.live = true → fetchTurn s = some c →
      ∃ t, exec (.descriptorFetch c) s = becomes s t
        ∧ (t.ctx c).fetching = some ⟨fetchCount (s.ctx c),
            (s.ctx c).sqBase.toNat + 64 * ((s.ctx c).fetched.toNat % 2 ^ (s.ctx c).sqLog2.toNat), s.eng == .safe⟩
        ∧ (t.ctx c).fetched = (s.ctx c).fetched ∧ fetchCount (s.ctx c) ≤ 8)
    ∧ (∀ (ds : List (BitVec 512)) (f : FetchRead), s.eng = .up → 1 ≤ ds.length → ds.length ≤ 8 →
      (s.ctx c).fetching = some f → f.count = ds.length →
      ∃ t, exec (.descriptorArrival c (some ds)) s = becomes s t ∧ (t.ctx c).fetching = none
        ∧ (t.ctx c).fetched = (s.ctx c).fetched + BitVec.ofNat 32 ds.length
        ∧ (t.ctx c).walker.map (·.raw) = (s.ctx c).walker.map (·.raw)
            ++ ds.map (fun d => if f.headers then (d.setWidth 64).setWidth 512 else d)
        ∧ (t.ctx c).recs = (s.ctx c).recs)
    ∧ (∀ (ds : List (BitVec 512)) (f : FetchRead), s.eng = .safe → 1 ≤ ds.length → ds.length ≤ 8 →
      (s.ctx c).fetching = some f → f.count = ds.length →
      ∃ t, exec (.descriptorArrival c (some ds)) s = becomes s t
        ∧ (t.ctx c).walker = (s.ctx c).walker ∧ (t.ctx c).recs.length = (s.ctx c).recs.length + ds.length
        ∧ ∀ r ∈ (t.ctx c).recs, r ∈ (s.ctx c).recs ∨ r.status = 0x60)
    ∧ (s.live = true → (s.ctx c).fetching.isSome = true →
      exec (.descriptorArrival c none) s = becomes s (modCtx s c fun x =>
        { x with fetching := none, fetchFailed := true, hostErr := true }))

/-! ## Contexts and the scheduler (12) -/

/-- 12 R283, R284, R286, 13 R293: a drain with nothing left ends: a DRAINING context becomes IDLE, and a reset that waits is
done, else an enable that waits. A reset leaves the context IDLE with enable 0, F, W, T and H zero, no tensor descriptor, no
sequence and no Owner Table entry, and no other context changed; of chip memory it clears tp_valid, next_tile, next_pos,
compact_count, courses and status_acc in the context's save record, where nothing waits for the memory port: chip memory
shows a write when it is issued (notes/assumptions/42.md), and nothing waits for these (notes/assumptions/28.md). -/
def Obligations.DrainsAndResets : Prop :=
  (∀ (s : State) (c : CtxId), s.live = true → drained s c = true →
      ((s.ctx c).resetPending = false → (s.ctx c).state = .draining → (s.ctx c).enablePending = false →
        exec (.drainEnd c) s = becomes s (modCtx s c fun x =>
          { x with drainBusy := false, drainRecs := [], state := .idle }))
      ∧ ((s.ctx c).resetPending = false → (s.ctx c).state = .draining → (s.ctx c).enablePending = true →
        exec (.drainEnd c) s = becomes s (modCtx (modCtx s c fun x =>
          { x with drainBusy := false, drainRecs := [], state := .idle }) c enableNow))
      ∧ ((s.ctx c).resetPending = false → (s.ctx c).state = .faulted →
        exec (.drainEnd c) s = becomes s (modCtx s c fun x => { x with drainBusy := false, drainRecs := [] }))
      ∧ ((s.ctx c).resetPending = true → (s.ctx c).destroyPending = false →
        ∃ t, exec (.drainEnd c) s = becomes s t ∧ (t.ctx c).state = .idle ∧ (t.ctx c).fetched = 0
          ∧ (t.ctx c).drainBusy = false)
      ∧ ((s.ctx c).resetPending = true → (s.ctx c).destroyPending = true →
        ∃ t, exec (.drainEnd c) s = becomes s t ∧ (t.ctx c).state = .free))
  ∧ (∀ (s : State) (c : CtxId),
      ((resetCtx s c).ctx c).state = .idle ∧ ((resetCtx s c).ctx c).enabled = false
      ∧ ((resetCtx s c).ctx c).fetched = 0 ∧ ((resetCtx s c).ctx c).written = 0
      ∧ ((resetCtx s c).ctx c).tail = 0 ∧ ((resetCtx s c).ctx c).head = 0
      ∧ ((resetCtx s c).ctx c).tensors = [] ∧ (∀ e ∈ (resetCtx s c).seqs, e.2.ctx ≠ c)
      ∧ (∀ e ∈ (resetCtx s c).owner, e.2.ctx ≠ c)
      ∧ (∀ d, d ≠ c → { (resetCtx s c).ctx d with regMem := (s.ctx d).regMem } = s.ctx d)
      ∧ (s.memWait = [] → s.memOut.length < 250 →
        (∀ d, d ≠ c → (resetCtx s c).ctx d = s.ctx d)
        ∧ ∀ a, memByte (resetCtx s c).chip a =
            if a = (s.ctx c).save.toNat + 0x12 ∨ ((s.ctx c).save.toNat + 0x18 ≤ a ∧ a < (s.ctx c).save.toNat + 0x2C) then 0
            else memByte s.chip a))

/-- 12 R277, R278, R279, R282, 11 R253, R254: with no context running the scheduler picks a QUEUED one, an LC context before
any BE one; it enters RUNNING, its mode is loaded into every slice and its save record is read. A running context at its
quantum gives way to another of its class, and at the pre-emption limit the tiles it still has are abandoned. Once no tile
of a context is in flight, its pending mode is in force. -/
def Obligations.SchedulerPicksAndSwitches : Prop :=
  (∀ (s : State) (c : CtxId), s.up = true → s.running = none → pickCtx s = some c →
    exec .schedPick s = becomes s (runCtx s c) ∧ (s.ctx c).state = .queued
    ∧ ((runCtx s c).ctx c).state = .running
    ∧ (∀ l : SliceId, (runCtx s c).slices[l].det = (s.ctx c).det ∧ (runCtx s c).slices[l].pace = (s.ctx c).pace)
    ∧ ((∃ d, (s.ctx d).state = .queued ∧ (s.ctx d).lc = true) → (s.ctx c).lc = true))
  ∧ (∀ (s : State) (c : CtxId), s.up = true → s.running = some c →
      (overQuantum s c = true → exec .schedQuantumExpire s = becomes s (preempt s c)
        ∧ ((preempt s c).ctx c).state = .preempting)
      ∧ (limitPassed s c = true → exec .preemptLimitExpire s = becomes s (abandonAll s c true)
        ∧ ∀ t ∈ (abandonAll s c true).tiles, t.ctx = c → t.dead = true))
  ∧ (∀ (s : State) (c : CtxId) (det pace : Bool), s.up = true → (s.ctx c).pendMode = some (det, pace) →
      tilesOf s c = [] →
      exec (.modeChangeApply c) s = becomes s (applyMode s c)
      ∧ ((applyMode s c).ctx c).det = det ∧ ((applyMode s c).ctx c).pace = pace
      ∧ ((applyMode s c).ctx c).pendMode = none)

/-- 12 R275, R286: a context's state changes only along the edges of the table, each by the commands it names, in every step
from every state. What follows of itself may add an edge in the same step: a context that a drain's end or a response left in
IDLE becomes QUEUED where it may begin, and one just picked is pre-empted, or has nothing to begin. Reset and power take every
context to FREE (01 R28). -/
def Obligations.ContextTransitions : Prop :=
  ∀ (i : Instr) (s t : State) (c : CtxId), exec i s = .next t → (t.ctx c).state ≠ (s.ctx c).state →
    match (s.ctx c).state, (t.ctx c).state with
    | a, .free => (∃ n, i = .resetAssert n) ∨ i = .powerOff
        ∨ ((a = .idle ∨ a = .faulted) ∧ ∃ p, i = .ctxDestroy p)
        ∨ ((a = .draining ∨ a = .faulted) ∧ i = .drainEnd c ∧ (s.ctx c).destroyPending = true)
    | .free, .idle => (t.ctx c).enabled = false ∧ ∃ p, i = .ctxCreate p
    | .idle, .queued => (t.ctx c).enabled = true
    | .queued, .running => i = .schedPick
    | .queued, .preempting => i = .schedPick
    | .queued, .idle => i = .schedPick
    | .running, .idle => True
    | .running, .preempting => True
    | .preempting, .queued => ∃ tag, i = .memWriteResponse tag
    | .preempting, .idle => ∃ tag, i = .memWriteResponse tag
    | .draining, .idle => i = .drainEnd c
    | .draining, .queued => i = .drainEnd c ∧ (t.ctx c).enabled = true
    | .faulted, .idle => resets c i = true
    | .free, _ => False
    | .faulted, _ => False
    | .draining, a => a = .faulted
    | _, .draining => drains c i = true
    | _, .faulted => True
    | _, _ => False

/-- 12 R287: window n of a regulator covers the ticks from n × W up to (n + 1) × W; each starts with its used count at zero,
and a budget of 0 never holds a request. -/
def Obligations.RegulatorWindows : Prop :=
  (∀ (s : State) (c : CtxId) (k : RegKind), s.live = true → regNow (regOf (s.ctx c) k) s.now ≠ regOf (s.ctx c) k →
    exec (.regulatorWindow c k) s = becomes s (modCtx s c fun x => setReg x k (regNow (regOf (s.ctx c) k) s.now)))
  ∧ (∀ (r : Regul) (t : Nat), r.next = [] → r.window ≠ 0 →
      (regNow r t).winNo * (1000 * r.window) ≤ t ∧ t < ((regNow r t).winNo + 1) * (1000 * r.window)
      ∧ ((regNow r t).winNo ≠ r.winNo → (regNow r t).used = 0))
  ∧ ∀ r : Regul, r.budget = 0 → regOpen r = true

/-! ## The tile path (01 to 08) -/

/-- 01 R10, 07 R166: with a half free, the running context's next tile is staged under its next epoch, but no sooner than
256 ticks after its last (before that the command changes nothing, notes/assumptions/9.md); the tile begun holds its half
and no bank. -/
def Obligations.TilesStaged : Prop :=
  ∀ (s : State) (c : CtxId) (j : TpJob), s.up = true → stageJob s = some (c, j) →
    ((s.tiles.filter (·.halfHeld)).length < 2 →
      (∀ t, (s.ctx c).lastEpoch = some t → 256 ≤ s.since t) →
      exec .tileStageBegin s = becomes s (stageNext s c j))
    ∧ (∀ t, (s.ctx c).lastEpoch = some t → s.since t < 256 → exec .tileStageBegin s = finish s s)
    ∧ ∀ inT p ps ms, ∃ t, (beginTile s c j inT p ps ms).tiles = s.tiles ++ [t] ∧ t.epoch = (s.ctx c).epoch
        ∧ t.n = p.n ∧ t.halfHeld = true ∧ t.bank = none
        ∧ ((beginTile s c j inT p ps ms).ctx c).epoch = (s.ctx c).epoch + 1
        ∧ ((beginTile s c j inT p ps ms).ctx c).lastEpoch = some s.tick
        ∧ (beginTile s c j inT p ps ms).banks = s.banks ∧ (beginTile s c j inT p ps ms).outbox = s.outbox

/-- 03 R59, R65, R69 to R71: a staged token of a tile with a bank gets its router input; in its turn, with its hold record
read where it needs one, it streams through the set in its slice's cells, with the first of them its halt logit is formed;
and with every enabled slice's shadow free the next set is broadcast, which it is not while one still holds a set
(notes/assumptions/9.md). -/
def Obligations.TokensScored : Prop :=
  ∀ (s : State) (tile : Fin 4) (token : BitVec 12) (t : Tile), s.up = true →
    (∀ k row, tileTok s tile token = some (t, k) → k.row = some row → t.dead = false →
      t.kind = .route → t.bank.isSome = true → k.status = none → k.y = none →
      exec (.tokenPrenorm tile token) s = becomes s
        (readHold (teleCtx (convCount (modTok (operandNow s .sfu (lanesOf s k)) t token.toNat fun k => { k with
            y := some (prenorm (leNat t.hdr) t.rowFmt row).y
            nanInput := (prenorm (leNat t.hdr) t.rowFmt row).y.any isNan })
          t.ctx (prenorm (leNat t.hdr) t.rowFmt row).cnt) t.ctx 2 (prenorm (leNat t.hdr) t.rowFmt row).dom)
          t token.toNat k))
    ∧ (∀ d e s1 t1 k l y w, tileNo s tile = some t → tileDir s t = some (d, e) → mayScore s t e = true →
      beginScoring s t d e = some s1 →
      tileTok (swapAll s1) tile token = some (t1, k) → k.slice = some l → k.y = some y →
      tokTurn (swapAll s1) t1 token.toNat k = true → holdReady (swapAll s1) t1 k = true →
      exec (.tokenScore tile token w) s = becomes s (scoreTok (scoreUnits (swapAll s1) t1 k l) t1 token.toNat k l e y w))
    ∧ (shadowsFree (swapAll s) = true →
      nextBroadcast (swapAll s) = some t → exec .weightSetLoad s = becomes s (loadSet (swapAll s) t))
    ∧ (shadowsFree (swapAll s) = false → exec .weightSetLoad s = finish s s)
    ∧ ∀ e q b (k : Tok) y, (streamTok e q t b k y).1.sets = k.sets + 1
      ∧ (k.sets = 0 → hHalt (leNat t.hdr) = true → (streamTok e q t b k y).1.halt = haltOf e (leNat t.hdr) y)

/-- 03 R56. The first tile of a context after it enters RUNNING is the one that finds `scored` clear. -/
def Obligations.FixedShares : Prop :=
  ∀ (s : State) (t : Tile), findTile s t.ctx t.epoch = some t → enabledSlices s ≠ [] →
    ((s.ctx t.ctx).det = true ∨ s.sched.scored = false ∨ s.sched.shareAdapt = false) →
    ∃ x, findTile (dealShares s t) t.ctx t.epoch = some x
      ∧ ∀ u i k, (unmasked t)[u]? = some i → x.toks[i]? = some k →
          k.slice = (enabledSlices s)[u % (enabledSlices s).length]?
      ∧ (∀ c, (runCtx s c).sched.scored = false) ∧ (dealShares s t).sched.scored = true

/-- 05 R104, R108, R110 to R112: a token with every logit tile scored, or held, gets its status and its choices: a bad or
missing logit or a NaN halt logit makes it invalid, a halt logit above the threshold exits it, else it is routed. Fill
writes the k Route Table entries of each token whose turn has come, in ascending index; a token that is not routed has no
valid entry. -/
def Obligations.TokensSelected : Prop :=
  (∀ (s : State) (tile : Fin 4) (token : BitVec 12) (t : Tile) (k : Tok), s.up = true →
    tileTok s tile token = some (t, k) → t.dead = false → t.kind = .route → t.bank.isSome = true → k.status = none →
    k.y.isSome = true → k.slice.isSome = true → k.scored (leNat t.hdr) = true →
    exec (.tokenSelect tile token) s = becomes s (selectTok (operandNow s .sfu (lanesOf s k)) t token.toNat k))
  ∧ (∀ (h : Nat) (k : Tok), k.held = false →
      ((k.badLogit = true ∨ k.allNegInf = true ∨ (hHalt h = true ∧ isNan k.halt = true)) → (outcomeOf h k).1 = .invalid)
      ∧ (k.badLogit = false → k.allNegInf = false → hHalt h = true → isNan k.halt = false →
          ltF (hHaltThr h) k.halt = true → (outcomeOf h k).1 = .exited)
      ∧ (k.badLogit = false → k.allNegInf = false → (hHalt h = false ∨ (isNan k.halt = false
          ∧ ltF (hHaltThr h) k.halt = false)) → (outcomeOf h k).1 = .routed))
  ∧ (∀ (h : Nat) (k : Tok), k.held = true → (outcomeOf h k).1 = (if holdExited k.holdRec then .exited else .routed))
  ∧ (∀ (t k : Nat) (held : Bool) (cs : List (Nat × F32)), (entriesOf t k held cs).length = k)
  ∧ (∀ (s : State) (t : Tile) (b : Fin 2), t.bank = some b →
      (fillMore s t).banks[b].entries =
        ((fillNext t).flatMap fun p => entriesOf p.1 t.k p.2.held p.2.choices).foldl (fun es e => insertKey e.1 e.2 es)
          s.banks[b].entries)
  ∧ ∀ (h : Nat) (k : Tok) (t n : Nat), (outcomeOf h k).1 ≠ .routed → t < 4096 → n ≤ 16 →
      ∀ e ∈ entriesOf t n k.held (outcomeOf h k).2.1, rtValid e.2 = false

/-- 06 R128, R134, R135, R149, 10 R247: a filled tile, once the older ones of its context are dispatched whole, is dispatched
over its core set, but is abandoned with RANGE where the core
set gives fewer than 256 local slots; its next course runs, or is dropped past its deadline; a tile whose route context is
not resident fetches it. -/
def Obligations.TilesDispatched : Prop :=
  ∀ (s : State) (tile : Fin 4) (t : Tile), s.up = true → tileNo s tile = some t → t.dead = false →
    (t.kind ≠ .combine → t.bank.isSome = true → t.filled = true → t.bucketed = false →
      (olderTiles s t).all Tile.dispatched = true →
      (256 ≤ (capPlan s t).quota * (coreSet s t.ctx).length →
        exec (.bucketing tile) s = becomes s
          (again (modTile s t.ctx t.epoch fun t => { t with cores := coreSet s t.ctx, bucketTick := s.tick }) t
            fun u t' => dispatchTile u t' (capPlan s t)))
      ∧ ((capPlan s t).quota * (coreSet s t.ctx).length < 256 →
        exec (.bucketing tile) s = becomes s (failTp s t.ctx t.c 0x11)))
    ∧ (∀ xs rest, t.bucketed = true → t.writers = [] → feeds s t = false → t.later = xs :: rest →
      (courseLate s t (capPlan s t) = false →
        exec (.courseStart tile) s = becomes s (runCourse s t (capPlan s t) xs))
      ∧ (courseLate s t (capPlan s t) = true → exec (.courseStart tile) s = becomes s (dropCourses s t)))
    ∧ (∀ i e, tileDir s t = some (i, e) → t.kind = .route → t.sharesDealt = false → e.resident = false →
      exec (.hotsetMissFetch tile) s = becomes s (missFetch s t i e))

/-! ## Core work queues, feed and drain (06, 15) -/

/-- 06 R140 to R142, R149, 12 R273: the packet to be written next, a tile's before a spore's (the model's choice,
notes/assumptions/25.md), enters its port's queue under the next number and, where it is this engine's, in its context's
class, unless 64 packets are in it (notes/assumptions/9.md); with none in FEEDING the oldest LC packet is selected, else the
oldest BE one, in the order of their commits (notes/assumptions/26.md). -/
def Obligations.PacketsQueued : Prop :=
  ∀ (s : State) (p : PortId), s.up = true →
    (∀ t k, s.queues[p].packets.length < 64 → tileWriter s p = some (t, k) →
      exec (.packetWrite p) s = becomes s
        (commitTo (modTile s t.ctx t.epoch fun t => { t with writers := t.writers.drop 1 }) p k))
    ∧ (∀ w ws, s.queues[p].packets.length < 64 → tileWriter s p = none → s.sporeWriters = w :: ws →
      exec (.packetWrite p) s = becomes s
        (if w.1 = p then commitTo { s with sporeWriters := ws } p w.2 else s))
    ∧ (64 ≤ s.queues[p].packets.length → exec (.packetWrite p) s = finish s s)
    ∧ (∀ k, (commitTo s p k).queues[p].packets = s.queues[p].packets ++
        [{ classed s k with seq := s.queues[p].lastCommit + 1, state := .committed, since := s.tick }]
      ∧ (k.spore = false → (classed s k).lc = (s.ctx (pktCtx k)).lc) ∧ (k.spore = true → classed s k = k)
      ∧ ∀ q, q ≠ p → (commitTo s p k).queues[q] = s.queues[q])
    ∧ ∀ k, selected s.queues[p] = some k → (s.queues[p].packets.any fun k => k.state == .feeding) = false →
      exec (.packetSelect p) s = becomes s (modQueue s p fun q =>
        modPkt k.seq (fun k => { k with state := .feeding, since := s.tick }) { q with lastTaken := k.seq })
      ∧ k.state = .committed
      ∧ ((∃ x ∈ s.queues[p].packets, x.state = .committed ∧ x.lc = true) → k.lc = true)
      ∧ ∃ older later, s.queues[p].packets = older ++ k :: later
          ∧ ∀ x ∈ older, x.state = .committed → x.lc ≠ k.lc

/-- 06 R145, R147, 12 R289: the next unit of the packet in FEEDING goes out on the port whose turn it is; after its last
the packet awaits its results. A data flit of the engine's own packet is charged to its context's feed regulator. -/
def Obligations.PacketsFed : Prop :=
  ∀ (s : State) (ready : BitVec 80) (p : PortId) (k : Packet), s.live = true → grantTurn s ready = some p →
    feedingOn s p = some k →
    exec (.feedFlitGrant ready) s = becomes s (grantUnit s p k)
    ∧ ∀ u rest, k.feed = u :: rest → (k.spore = false ∨ rest ≠ []) →
        (grantUnit s p k).outbox = s.outbox ++ [feedOut s p k u] ∧ (grantUnit s p k).chip = s.chip
        ∧ (grantUnit s p k).tiles = s.tiles ∧ (∀ q, q ≠ p → (grantUnit s p k).queues[q] = s.queues[q])
        ∧ (charged k = true → ((grantUnit s p k).ctx (pktCtx k)).regFeed.used
            = (regNow (s.ctx (pktCtx k)).regFeed s.now).used + 256)

/-- 06 R147, 08 R181, 15 R341 to R343: a drain flit or a mark stands in its port's lane, which holds one, and leaves it in
the round robin of the ports by ascending number, but a row's last flit stays while the row cannot be placed, which holds no
other port (when that is, is the model's choice, notes/assumptions/26.md). A flit is placed with the packet its tag names,
and its row's last flit ends the row; a mark frees the packet it names; one that names no packet sets drain_bad. A row whose
slot is not of the tile, is not expected or has its result is counted and written nowhere. A stuck core's port fails, its
queue empty. -/
def Obligations.PacketsDrained : Prop :=
  ∀ (s : State) (p : PortId) (g : BitVec 128) (data : List Byte), s.live = true →
    (data.length = 256 → tagMark g = false →
      (laneFull s p = false → exec (.drainFlit p g data) s = becomes s { s with lanes := s.lanes ++ [(p, g, data)] })
      ∧ (laneFull s p = true → exec (.drainFlit p g data) s = finish s s))
    ∧ (tagMark g = true →
      (laneFull s p = false → exec (.endOfPacketMark p g) s = becomes s { s with lanes := s.lanes ++ [(p, g, [])] })
      ∧ (laneFull s p = true → exec (.endOfPacketMark p g) s = finish s s))
    ∧ (∀ l, laneTurn s = some l → l ∈ s.lanes ∧ mayDrain s l = true
      ∧ ∀ m ∈ s.lanes, mayDrain s m = true →
          (l.1.val + 79 - s.drainLast.val) % 80 ≤ (m.1.val + 79 - s.drainLast.val) % 80)
    ∧ (laneTurn s = none → ∀ m ∈ s.lanes, mayDrain s m = false)
    ∧ (∀ s1 : State, s1 = { s with lanes := s.lanes.filter fun k => k.1 != p, drainLast := p } →
      (tagMark g = false →
        (drainPkt s1 p g = none → drainLane s (p, g, data) = drainBad s1)
        ∧ (∀ k, drainPkt s1 p g = some k → tagLast g = false →
          drainLane s (p, g, data) = modQueue s1 p (addFlit g data))
        ∧ (∀ k, drainPkt s1 p g = some k → tagLast g = true →
          drainLane s (p, g, data) = endRow (modQueue s1 p (addFlit g data)) p k g))
      ∧ (tagMark g = true → markedPkt s1 p g = none → drainLane s (p, g, data) = drainBad s1)
      ∧ (∀ k, tagMark g = true → markedPkt s1 p g = some k →
        drainLane s (p, g, data)
          = modQueue s1 p fun q => { q with packets := q.packets.filter fun x => x.seq != k.seq }))
    ∧ (coreStuck s p = true → exec (.coreTimeout p) s = becomes s (failPort s p)
      ∧ (failPort s p).queues[p].packets = [] ∧ bvBit (failPort s p).coreFail p.val = true)
    ∧ ∀ k slot row t, findTile s (pktCtx k) k.epoch = some t →
        ((t.n * t.k ≤ slot ∨ expected s t slot = false ∨ resultIn s t slot = true ∨ slotBusy s t slot = true) →
          localRow s k slot row = teleEng s 7 1)
        ∧ (slot < t.n * t.k → expected s t slot = true → resultIn s t slot = false → slotBusy s t slot = false →
            localRow s k slot row = writeMem s (.slot t.ctx t.epoch slot) (slotAddr s t slot) row 3 (some t.ctx))

/-! ## Combine, commit and reduction (08, 05) -/

/-- 08 R190 to R194, 05 R121, R123, 07 R170: a ready token takes a frame in its section's turn, and is combined once what
it reads has come; the oldest tile, once every token is combined and every write has returned, has its records written and
is counted and committed when they are. A context's reductions run while it has one; after lost_timeout the group of one
that still waits is lost: with a TILE_ROUTE dealt its context faults with PEER_LOST, else at its next one (before that the
command changes nothing, notes/assumptions/9.md). -/
def Obligations.TilesCombinedAndReduced : Prop :=
  (∀ (s : State) (t : Tile), s.up = true →
      (∀ tile token k l, tileTok s tile token = some (t, k) → t.dead = false → k.combined = false → k.mixing = false →
        sectionOf s token.toNat = some l → sectionTurn s t token.toNat = true → frameFree s t l = true →
        exec (.tokenCombine tile token) s = becomes s (takeFrame s t token.toNat l))
      ∧ (committable s = some t →
        exec .tileCommit s = becomes s (beginCommit s t)
        ∧ t.mixed = true ∧ t.logged = true ∧ t.committing = false ∧ tileBusy s t = false)
      ∧ (committable s = none → exec .tileCommit s = finish s s))
  ∧ (∀ (s : State) (t : Tile) (i : Nat) (k : Tok),
      (findTile s t.ctx t.epoch = some t → tokAt t i = some k → combineOn s t.ctx t.epoch i = combineTok s t i k)
      ∧ (t.committing = true → tileBusy s t = false → commitOn s t = endJob
          (dropTile (modTp (acctAdd (contribute s t) t.ctx 3 1) t.ctx t.c (commitJob t)) t) t.ctx t.c))
  ∧ (∀ (s : State) (c : CtxId) (r : Reduction) (rest : List Reduction), s.live = true → (s.ctx c).reductions = r :: rest →
      exec (.groupReduce c) s = becomes s (reduce s c)
      ∧ (lostTicks s ≤ s.since r.since → ((s.ctx c).tp.find? fun j => tpOp j.ops == 1) = none →
        exec (.statTimeout c) s = becomes s (modCtx s c fun x => { x with groupLost := true, reductions := [] }))
      ∧ (∀ j, lostTicks s ≤ s.since r.since → ((s.ctx c).tp.find? fun j => tpOp j.ops == 1) = some j →
        exec (.statTimeout c) s = becomes s
          (faultCtx (modCtx s c fun x => { x with reductions := [] }) c 0x50 (some j.c)))
      ∧ (s.since r.since < lostTicks s → exec (.statTimeout c) s = finish s s))

/-! ## Basol (07, 15, 18) -/

/-- 07 R155, R160, R161, 15 R344: a stream that is neither ended nor held off sends blocks again first, without a credit,
then goes on with its message, each block for a credit of its kind, then begins the first message that may begin (the order of
these three, in which a later message may pass one that is held, is the model's choice, notes/assumptions/34.md); a block
goes out as 8 transfers. -/
def Obligations.BlocksSent : Prop :=
  ∀ (s : State) (chip : BitVec 16) (engine : Bool) (t : TxStream), s.up = true → findTx s chip engine = some t →
    t.ended = false → t.stopped = false →
    (∀ q qs b, t.resend = q :: qs → (t.unacked.find? fun b => b.seq == q) = some b →
      exec (.basolBlockSend chip engine) s = becomes s (resendBlk s t q b)
      ∧ (resendBlk s t q b).outbox = s.outbox ++ transfers t.port t.chip b.bytes)
    ∧ (∀ m off, t.resend = [] → t.cur = some (m, off) →
      exec (.basolBlockSend chip engine) s = becomes s (sendNext s t m off))
    ∧ (t.resend = [] → t.cur = none → exec (.basolBlockSend chip engine) s = becomes s (beginMsg s t))
    ∧ (∀ m off, spend m.kind t.general t.reserved = none → sendNext s t m off = s)
    ∧ (∀ m off, (spend m.kind t.general t.reserved).isSome = true →
      ∃ bytes : List Byte, (sendNext s t m off).outbox = s.outbox ++ transfers t.port t.chip bytes ∧ bytes.length = 512
        ∧ (sendNext s t m off).chip = s.chip ∧ (sendNext s t m off).tiles = s.tiles)
    ∧ (∀ kind g r, isAnswer kind = true → 0 < r → spend kind g r = some (g, r - 1))
    ∧ (∀ kind g r, isAnswer kind = false ∨ r = 0 → spend kind g r = (if g = 0 then none else some (g - 1, r)))

/-- 07 R161, R165: a bad block is counted; a good one of a stream that is held has been heard, and where it is the next
expected it is kept and acknowledged at once (the model's choice within R161's bounds, notes/assumptions/35.md); one out of
order draws a NAK; one of an older generation is discarded; and where SPOREs, or messages at all, are not served, a message's
first block draws REFUSE. -/
def Obligations.BlocksReceived : Prop :=
  ∀ (s : State) (port : Fin 8) (bs : List Byte), bs.length = 512 → s.on = true → s.inReset = false →
    (blockGood bs = false → exec (.basolBlockReceive port bs) s = becomes s (badBlock (teleEng s 6 1) port))
    ∧ (blockGood bs = true → s.up = false → (readBlock bs).first = true →
      exec (.basolBlockReceive port bs) s = becomes s (sendFrame (teleEng s 6 1) port (readBlock bs).chip
        (readBlock bs).engine (readBlock bs).gen 4 (readBlock bs).seq 0))
    ∧ (blockGood bs = true → s.up = false → (readBlock bs).first = false →
      exec (.basolBlockReceive port bs) s = becomes s (teleEng s 6 1))
    ∧ ∀ r b, b = readBlock bs → blockGood bs = true → s.up = true → findRx s b.chip b.engine = some r →
        (b.gen = r.gen → b.seq ≠ r.expect →
          exec (.basolBlockReceive port bs) s = becomes s (outOfOrder (hearRx (teleEng s 6 1) r) r))
        ∧ (b.gen = r.gen → b.seq = r.expect → b.kind = 1 → b.first = true → refusesSpores s = true →
          ∃ t, exec (.basolBlockReceive port bs) s = becomes s t
            ∧ t.outbox = (sendFrame s r.port b.chip b.engine b.gen 4 b.seq 0).outbox)
        ∧ (b.gen = r.gen → b.seq = r.expect → (b.kind ≠ 1 ∨ b.first = false ∨ refusesSpores s = false) →
          (b.first = true ∨ r.partBlocks ≠ 0) →
          exec (.basolBlockReceive port bs) s
            = becomes s (ackBlock (keepBlock (takeSeq (hearRx (teleEng s 6 1) r) r b) b) b.chip b.engine))
        ∧ (r.known = true → olderGen b.gen r.gen = true →
          exec (.basolBlockReceive port bs) s = becomes s (teleEng s 6 1))

/-- 07 R163 to R170, R175, 13 R310: the front message of a stream, of its row's type, is taken from the stream and has its
effect. A RETRY is answered by the same request 1 µs later; that an EPOCH_WAIT's request is sent again too is the model's
choice (notes/assumptions/30.md). -/
def Obligations.MessagesServed : Prop :=
  ∀ (s s1 : State) (chip : BitVec 16) (engine : Bool) (m : RxMsg), s.up = true →
    (∀ i kind f, (i, kind, f) ∈ ([(.spore chip engine, 1, serveSpore chip engine),
        (.abandon chip engine, 3, raiseFloor chip engine),
        (.statUp chip engine, 4, deliverStat addUp chip engine),
        (.statDown chip engine, 5, deliverStat addDown chip engine),
        (.readReq chip engine, 6, fun a m => acceptRead (freePlaces a chip engine m.places)
          ⟨BitVec.ofNat 16 (leNat (m.bytes.take 64)), rb (leNat (m.bytes.take 64)) 0 16,
            BitVec.ofNat 512 (leNat (m.bytes.take 64))⟩),
        (.readData chip engine, 7, acceptData chip engine)]
        : List (Instr × BitVec 4 × (State → RxMsg → State))) →
      takeMsg s chip engine kind = some (s1, m) → exec i s = becomes s (f s1 m))
    ∧ (takeMsg s chip engine 2 = some (s1, m) →
      exec (.result chip engine) s = becomes s (acceptResult chip engine s1 m))
    ∧ (∀ ch run src, s.mover ch = some run → heldTensor (s.ctx run.ctx) (mvSrc run.raw) = some src →
      run.reqs.any (retryDue s) = true → run.failed = none →
      exec (.readRetryTimer (.chan ch)) s = becomes s (resendReqs s ch run src))
    ∧ (∀ c tag t j, (s.ctx c).hold = some (.epochOwner tag (some t)) → holder (s.ctx c) 0x51 = some j →
      1000 ≤ s.since t →
      exec (.readRetryTimer (.wait c)) s
        = becomes s (askEpoch (modCtx s c fun x => { x with hold := some (.epochOwner tag none) }) c j tag))

/-- 07 R159 to R161, R165, 18 R380: a good frame of the stream's generation brings the load and credits, and then: ACK frees
the blocks up to its number, NAK those before it (the model's choice, notes/assumptions/34.md) and resends, CREDIT with no
credits holds the stream off, REFUSE ends it. Any other frame is discarded whole (notes/assumptions/9.md,
notes/assumptions/35.md). -/
def Obligations.FramesServed : Prop :=
  ∀ (s : State) (port : Fin 8) (w : BitVec 128) (f : CtlFrame) (t u : TxStream), f = readFrame w → s.up = true →
    findTx s f.chip f.engine = some t → t.ended = false →
    (frameGood w = true → t.gen = f.gen → findTx (hearFrame s f) f.chip f.engine = some u →
      (f.kind = 1 → exec (.ack port w) s = becomes s
        (modTx (hearFrame s f) u.chip u.engine (ackTo f.seq (hearFrame s f).tick)))
      ∧ (f.kind = 2 → ∀ v, findTx (modTx (hearFrame s f) u.chip u.engine (ackTo (f.seq - 1) (hearFrame s f).tick)) u.chip
          u.engine = some v →
          (∀ b bs, v.unacked = b :: bs → b.seq = f.seq → exec (.nak port w) s = becomes s
            (resendFrom (modTx (hearFrame s f) u.chip u.engine (ackTo (f.seq - 1) (hearFrame s f).tick)) v)))
      ∧ (f.kind = 3 → f.credits ≠ 0 → exec (.credit port w) s = becomes s (hearFrame s f))
      ∧ (f.kind = 3 → f.credits = 0 → exec (.credit port w) s = becomes s
        (modTx (hearFrame s f) u.chip u.engine fun t => { t with stopped := true, resend := [] }))
      ∧ (f.kind = 4 → exec (.refuse port w) s = becomes s (loseDest (hearFrame s f) u.chip u.engine .refused)))
    ∧ (frameGood w = false ∨ t.gen ≠ f.gen →
      exec (.ack port w) s = finish s s ∧ exec (.nak port w) s = finish s s ∧ exec (.credit port w) s = finish s s
      ∧ exec (.refuse port w) s = finish s s)

/-- 07 R156, R161, R162, R171, 18 R380, 15 R345: the timeouts of a stream, the release of its state to one that waits, the
repeated CREDIT to one held off, and the reports of a port. -/
def Obligations.StreamTimers : Prop :=
  ∀ (s : State) (chip : BitVec 16) (engine : Bool), s.up = true →
    (∀ t b bs, findTx s chip engine = some t → t.ended = false → t.unacked = b :: bs →
      (t.stopped = false → t.resend = [] → ackTicks s ≤ s.since b.sentAt →
        exec (.ackTimeout chip engine) s = becomes s (resendFrom s t))
      ∧ (lostTicks s ≤ s.since b.born → lostTicks s ≤ s.since t.heardAt →
        exec (.lostTimeout chip engine) s = becomes s (loseDest s chip engine .lost)))
    ∧ (∀ t, findTx s chip engine = some t → txIdle t = true → s.txWait ≠ [] → lostTicks s ≤ s.since t.idleSince →
      exec (.sendStateRelease chip engine) s = becomes s (startWaiting (releaseTx s t)))
    ∧ (∀ r, findRx s chip engine = some r → lostTicks s ≤ s.since r.lastBlock →
      (r.known = true →
        (r.general ≠ 0 → exec (.streamEndTimeout chip engine) s
          = becomes s (modRx (rewind s chip engine) chip engine fun r => { r with known := false }))
        ∧ (r.general = 0 → exec (.streamEndTimeout chip engine) s
          = becomes s (modRx s chip engine fun r => { r with known := false })))
      ∧ (s.rxWait ≠ [] → holdsMsg s r = false →
        exec (.inboundStreamRelease chip engine) s
          = becomes s (admitWaiter { s with
              rx := s.rx.filter fun x => !isRx chip engine x
              rxPast := insertKey (engKey chip engine) (r.gen, r.expect) s.rxPast })))
    ∧ (∀ w, (s.rxWait.find? fun w => w.chip == chip && w.engine == engine) = some w → ackTicks s ≤ s.since w.lastFrame →
      exec (.creditRepeat chip engine) s = becomes s
        (sendFrame { s with rxWait := updFirst (· == w) (fun w => { w with lastFrame := s.tick }) s.rxWait } w.port chip
          engine w.gen 3 w.seq 0))
    ∧ (∀ port report, s.inReset = false → exec (.linkStatusReport port report) s = becomes s
        (linkEffect { s with portErr := { s.portErr with link := true } } port report))

/-- 07 R158, R159: what the engine sends as a block or a control frame reads back as it was built, every field at every value
it can hold, with a good CRC. -/
def Obligations.BlocksAndFramesReadBack : Prop :=
  (∀ (s : State) (t : TxStream) (kind : BitVec 4) (first last : Bool) (payload bs : List Byte), payload.length ≤ 496 →
    bs = blockBytes512 (blockHead s t kind first last payload.length) payload →
    bs.length = 512
    ∧ readBlock bs = ⟨s.fuse.chipId, s.fuse.engineId, first, last, kind, t.gen, t.next, payload⟩
    ∧ rb (leAt bs 0 12) 0 17 = t.engine ∧ rf (leAt bs 0 12) 8 15 0 = t.chip.toNat
    ∧ (1 ≤ kind.toNat → kind.toNat ≤ 7 → blockGood bs = true))
  ∧ ∀ (s : State) (port : Fin 8) (chip : BitVec 16) (engine : Bool) (gen : BitVec 8) (kind : Nat) (seq : BitVec 32)
      (credits : Nat), kind < 16 → credits < 65536 →
      ∃ f : Nat, f < 2 ^ 128
        ∧ sendFrame s port chip engine gen kind seq credits
            = { s with outbox := s.outbox ++ [.transfer port chip false true true (leBytes 64 f)] }
        ∧ frameGood (BitVec.ofNat 128 f) = true
        ∧ readFrame (BitVec.ofNat 128 f) = ⟨s.fuse.chipId, s.fuse.engineId, kind, gen, seq, credits, BitVec.ofNat 16 (reportedLoad s)⟩

/-! ## Responses (15, 13, 14) -/

/-- 15 R338, R339, 13 R317, 17 R371: the response to an outstanding access ends it. In READY, RUN and SAFE the bytes
of a read, and the end of a write, go to their owner; an error response sets mem_err and ends its owner's work, and a
failed host access sets its owner's error, host_err for a record. In SELFTEST the security unit's reads and the
diagnosis record's writes still go to their owner (notes/assumptions/14.md, notes/assumptions/17.md); any other
response that comes while the units are stopped is discarded, but a failed write has failed in memory. Host memory
shows a write at its response (notes/assumptions/41.md, notes/assumptions/44.md). A response with a tag that is not
outstanding does nothing (notes/assumptions/9.md). -/
def Obligations.ResponsesServed : Prop :=
  (∀ (s s1 : State) (tag : BitVec 12) (r : MemReq), takeReq s tag = some (r, s1) →
    (∀ data : List Byte, r.write = false → data.length = 64 * slotsOf r.addr r.len → 64 ≤ data.length → data.length ≤ 2048 →
      (s.live = true ∨ (s.eng = .selftest ∧ r.owner = .crit) →
        exec (.memReadResponse tag data) s = .next
          { dropGot (settleOn (readReturned s1 r (slice data (r.addr % 64) r.len))) with pending := s.pending })
      ∧ (s.live = false → s.eng ≠ .selftest ∨ r.owner ≠ .crit → exec (.memReadResponse tag data) s = .next s1))
    ∧ (r.write = true →
      (s.live = true ∨ (s.eng = .selftest ∧ r.owner = .crit) →
        exec (.memWriteResponse tag) s = .next
          { dropGot (settleOn (writeReturned s1 r)) with pending := s.pending })
      ∧ (s.live = false → s.eng ≠ .selftest ∨ r.owner ≠ .crit → exec (.memWriteResponse tag) s = .next s1))
    ∧ (∀ s2 : State, s2 = (if r.write then revertWrite s1 r else s1) →
      (s.live = true ∨ (s.eng = .selftest ∧ r.owner = .crit) →
        exec (.memErrorResponse tag) s = .next
          { dropGot (settleOn (unitError (memErr s2) r.owner)) with pending := s.pending })
      ∧ (s.eng = .selftest → r.owner ≠ .crit → exec (.memErrorResponse tag) s = .next (memErr s2))
      ∧ (s.eng = .locked → exec (.memErrorResponse tag) s = .next s2)))
  ∧ (∀ (s : State) (tag : BitVec 12), takeReq s tag = none →
      exec (.memWriteResponse tag) s = .next s ∧ exec (.memErrorResponse tag) s = .next s
      ∧ ∀ data : List Byte, data.length % 64 = 0 → 64 ≤ data.length → data.length ≤ 2048 →
          exec (.memReadResponse tag data) s = .next s)
  ∧ (∀ (s s1 : State) (id : BitVec 16) (h : HostReq), (s.hostOut.find? fun h => h.id == id) = some h →
      s1 = { s with hostOut := s.hostOut.filter fun k => k.id != h.id } →
      (∀ data : List Byte, data.length ≤ 4096 → data.length = (if h.write then 0 else h.len) →
        (s.live = true → exec (.hostBridgeResponse id (.ok data)) s = .next
          { dropGot (settle (hostGood (if h.write then landHost s1 h else s1) h data)) with pending := s.pending })
        ∧ (∀ k, s.eng = .selftest → h.owner = .diag k →
          exec (.hostBridgeResponse id (.ok data)) s = .next
            { diagGood (if h.write then landHost s1 h else s1) k with pending := s.pending }))
      ∧ (∀ o, o = .busError ∨ o = .unreachable →
        (s.live = true → exec (.hostBridgeResponse id o) s = .next
          { dropGot (settle (hostBad (if h.write && h.owner.isDma then revertHost s1 h else s1) h.owner)) with
            pending := s.pending })
        ∧ (∀ k, s.eng = .selftest → h.owner = .diag k →
          exec (.hostBridgeResponse id o) s = .next { diagBad s1 k with pending := s.pending }))
      ∧ (h.write = true → ∀ a, memByte (landHost s1 h).host a
          = if h.addr ≤ a ∧ a < h.addr + h.data.length then h.data.getD (a - h.addr) 0 else memByte s.host a)
      ∧ (∀ c, h.owner = .record c → hostBad s1 h.owner = modCtx s1 c fun x => { x with hostErr := true }))
  ∧ ∀ (s : State) (id : BitVec 16), (s.hostOut.find? fun h => h.id == id) = none →
      (∀ data : List Byte, data.length ≤ 4096 → exec (.hostBridgeResponse id (.ok data)) s = .next s)
      ∧ exec (.hostBridgeResponse id .busError) s = .next s ∧ exec (.hostBridgeResponse id .unreachable) s = .next s

/-- 15 R338, R339: a byte of chip memory changes only where a write that the engine has issued stores to it, and then it is
that write's byte, or where a response names a request that covers it; a byte of host memory changes only where a response
names a host write that covers it. When memory shows a write, and that a read's response brings the bytes read into it, are
the model's choices (notes/assumptions/42.md, notes/assumptions/2.md). -/
def Obligations.MemoryChangesByRequestsAlone : Prop :=
  ∀ (c : Instr) (s t : State), exec c s = .next t →
    (∀ a, memByte t.chip a ≠ memByte s.chip a →
      (∃ r ∈ t.memOut, r.write = true ∧ r.addr ≤ a ∧ a < r.addr + r.data.length
        ∧ memByte t.chip a = r.data.getD (a - r.addr) 0)
      ∨ (∃ tag data r, c = .memReadResponse tag data ∧ r ∈ s.memOut ∧ r.tag = tag ∧ r.write = false
        ∧ r.addr ≤ a ∧ a < r.addr + r.len)
      ∨ (∃ tag r, c = .memErrorResponse tag ∧ r ∈ s.memOut ∧ r.tag = tag ∧ r.write = true
        ∧ r.addr ≤ a ∧ a < r.addr + r.old.length))
    ∧ (∀ a, memByte t.host a ≠ memByte s.host a →
      ∃ id o h, c = .hostBridgeResponse id o ∧ h ∈ s.hostOut ∧ h.id = id ∧ h.write = true ∧ h.addr ≤ a
        ∧ a < h.addr + h.data.length)

/-! ## Power, sensors and the timebase (15, 17, 01, 11) -/

/-- 01 R11, 19 R393, R394, 15 R349, 17 R377: the end of a beat window of 65,536 ticks publishes each enabled slice's count;
credits that stages could not use are counted while paced; a current grant bounds the estimate, and the request rises by at
most 16 units at a time; 2,000 ticks after the last operand of a unit of an
enabled slice a ramp begins, which lowers the estimate by at most 6 % of its
start a µs. That fillers hold the estimate where the work needs less is the model's reading (notes/assumptions/43.md); that
an earlier BEAT_WINDOW_END or FILLER_LIMIT_EXPIRE changes nothing, and the first in LOCKED neither (16 R363), is its choice
(notes/assumptions/9.md). BEATS counts beats as they come, those that no command has told by the window's end then
(notes/assumptions/7.md). -/
def Obligations.PaceAndPower : Prop :=
  ∀ s : State,
    (∀ beats, s.on = true → s.eng ≠ .locked → 65536 ≤ s.since s.beatFrom →
      ∃ t : State, exec (.beatWindowEnd beats) s = .next t
      ∧ t = { s with beatTick := s.beatFrom + 65536, beatFrom := s.beatFrom + 65536, slices := t.slices }
      ∧ ∀ (i : SliceId) (n : Nat), n = max (if sliceOn s i then beats[i].toNat else 0) s.slices[i].seen.toNat →
          t.slices[i] = { s.slices[i] with
            beatWin := BitVec.ofNat 32 n, seen := 0
            beats := s.slices[i].beats + BitVec.ofNat 64 (n - s.slices[i].seen.toNat) })
    ∧ (∀ beats, s.since s.beatFrom < 65536 ∨ s.eng = .locked → exec (.beatWindowEnd beats) s = .next s)
    ∧ (∀ lost, s.up = true → paced s = true →
      exec (.paceCredit lost) s = .next { s with paceShort := s.paceShort + lost.setWidth 64 })
    ∧ (∀ grant need, s.on = true → ∃ t, exec (.currentGrant grant need) s = .next t ∧ t = { s with power := t.power }
      ∧ t.power.grant = grant ∧ t.power.need = need
      ∧ t.power.estimate.toNat = min (max need.toNat s.power.estimate.toNat) (min grant.toNat (ceiling s))
      ∧ (t.power.req ≠ s.power.req → grant = s.power.req ∧ t.power.req.toNat ≤ grant.toNat + 16
          ∧ t.power.req.toNat ≤ need.toNat ∧ t.power.req.toNat ≤ ceiling s)
      ∧ (t.power.throttledSince = none ↔ need.toNat ≤ min grant.toNat (ceiling s)))
    ∧ (∀ (k : UnitKind) (l : SliceId), s.on = true → s.power.ramp = none → sliceOn s l = true →
      2000 ≤ s.since s.power.lastOperand[unitNo k l] →
      exec .fillerLimitExpire s = .next { s with power := { s.power with ramp := some (s.power.estimate, s.tick) } })
    ∧ ((∀ (k : UnitKind) (l : SliceId), sliceOn s l = true → s.since s.power.lastOperand[unitNo k l] < 2000) →
      exec .fillerLimitExpire s = .next s)
    ∧ ∀ draw e0 t0, s.on = true → s.power.ramp = some (e0, t0) → 1000 ≤ s.since t0 →
      ∃ t, exec (.rampStep draw) s = .next t ∧ t = { s with power := t.power }
        ∧ t.power.ramp = some (e0, s.tick) ∧ t.power.estimate.toNat ≤ s.power.estimate.toNat
        ∧ 100 * s.power.estimate.toNat ≤ 100 * t.power.estimate.toNat + 6 * e0.toNat
        ∧ t.power.req.toNat ≤ s.power.req.toNat

/-- 15 R346, R347, 01 R26: a sensor record is published and sets the flags of what is out of range; from OFF, with
reset released, the first record with both rails in range enters SELFTEST; 10 µs without a record sets the stale flag,
and every rail counts as out of range; a sample of the timebase that steps back or jumps by more than 2^20 is taken
with an error, any other is the passing of its ticks (notes/assumptions/19.md). -/
def Obligations.SensorsAndTimebase : Prop :=
  ∀ s : State,
    (∀ r, s.eng = .up ∨ s.eng = .safe ∨ s.eng = .locked →
      ∃ t, exec (.sensorRecord r) s = .next t ∧ t = { s with sensor := t.sensor, power := t.power }
        ∧ t.sensor.latest = r ∧ t.sensor.lastTick = s.tick ∧ t.sensor.gap = false
        ∧ t.sensor.ndeOor = (s.sensor.ndeOor || !ndeIn r) ∧ t.sensor.nsramOor = (s.sensor.nsramOor || !nsramIn r)
        ∧ t.sensor.tempOor = (s.sensor.tempOor || !tempsIn r) ∧ t.sensor.stale = s.sensor.stale)
    ∧ (∀ r, s.eng = .off → s.inReset = false → railsIn r = true →
      ∃ t, exec (.sensorRecord r) s = .next t ∧ t.eng = .selftest ∧ t.fuse = s.pins ∧ t.sensor.latest = r
        ∧ t.chip = s.chip ∧ t.host = s.host ∧ t.slots = s.slots)
    ∧ (∀ r, s.eng = .off → s.inReset = true ∨ railsIn r = false → exec (.sensorRecord r) s = finish s s)
    ∧ (s.on = true → s.sensor.gap = false → 10000 ≤ s.since s.sensor.lastTick →
      ∃ t : State, exec .sensorStale s = .next t ∧ t = { s with sensor := t.sensor, st := t.st }
        ∧ t.sensor = { s.sensor with stale := true, gap := true, ndeOor := true, nsramOor := true }
        ∧ (s.eng ≠ .selftest → t.st = s.st) ∧ (s.eng = .selftest → t.st.oor = true))
    ∧ (∀ n : BitVec 64, s.eng ≠ .off → jumped s.tick n = true →
      ∃ t, exec (.timebaseStep n) s = .next t ∧ t.tick = n ∧ t.sensor.timebaseErr = true ∧ t.chip = s.chip
        ∧ t.outbox = s.outbox ∧ t.eng = s.eng)
    ∧ ∀ n : BitVec 64, s.eng ≠ .off → jumped s.tick n = false →
      ∃ t, exec (.timebaseStep n) s = .next t ∧ t.tick = n ∧ t.sensor = s.sensor ∧ t.chip = s.chip
        ∧ t.outbox = s.outbox ∧ t.eng = s.eng ∧ t.tiles = s.tiles

/-! ## Reset, self-test and the quiesce (01, 15, 17) -/

/-- 01 R28, 15 R350, R351: reset held for 100 ticks leaves OFF with every register but the RWS ones at its reset value
and the key store zero; what lies outside the engine stays. The released engine has the fuse input that then stands,
but for a map the fuse logic holds. Without power the RWS registers and that map are lost too. -/
def Obligations.ResetAndPower : Prop :=
  ∀ s : State,
    (∀ n, 100 ≤ n → exec (.resetAssert n) s = .next (offState s))
    ∧ ((offState s).eng = .off ∧ (∀ i : Fin 8, (offState s).slots[i] = keySlotReset) ∧ (offState s).ctxs = State.reset.ctxs
      ∧ (offState s).tiles = []
      ∧ (offState s).fw = State.reset.fw ∧ (offState s).chip = s.chip ∧ (offState s).host = s.host
      ∧ (offState s).pins = s.pins ∧ (offState s).heldMap = s.heldMap ∧ (offState s).st.diag = s.st.diag
      ∧ (offState s).sec.vcount = s.sec.vcount ∧ (offState s).sec.policy = State.reset.sec.policy
      ∧ (offState s).inReset = true ∧ (offState s).outbox = s.outbox)
    ∧ (∀ pins, s.inReset = true → exec (.resetRelease pins) s = .next { s with
        inReset := false, pins := { pins with disabledMap := s.heldMap.getD pins.disabledMap } })
    ∧ ∃ t, exec .powerOff s = .next t ∧ t.eng = .off ∧ t.heldMap = none ∧ t.st = State.reset.st
        ∧ t.sec = State.reset.sec ∧ t.slots = State.reset.slots ∧ t.chip = s.chip ∧ t.host = s.host

/-- 17 R366, R367, R369, R370, R376: the key-store step, in its time (notes/assumptions/18.md), zeroes the slots (all
of them from OFF, else those whose check value differs); a self-test with no failing step and five slices enters
READY, any other SAFE; a quiesce (notes/assumptions/17.md) enters SELFTEST with every context in use reset; an
instruction store error that is corrected is counted, and one that is not loses the image. -/
def Obligations.SelfTest : Prop :=
  ∀ s : State,
    (s.eng = .selftest → s.st.keyStepPending = true → 2157152 ≤ testTicks s → s.provWait = [] →
      ∃ t, exec .selftestKeyStoreStepEnd s = .next t ∧ t.st.keyStepPending = false
        ∧ ∀ i : Fin 8, t.slots[i] = (if s.st.fromOff ∨ kcvWrong s.slots[i] then keySlotReset else s.slots[i]))
    ∧ (∀ r, s.eng = .selftest → s.st.keyStepPending = false → s.fw.valid = false ∨ 2657152 ≤ testTicks s →
      (testPasses (logTest s r) = true →
        ∃ t, exec (.selftestComplete r) s = .next t ∧ t.eng = .up ∧ t.st.passed = true ∧ t.slots = s.slots)
      ∧ (testPasses (logTest s r) = false →
        ∃ t, exec (.selftestComplete r) s = .next t ∧ t.eng = .safe ∧ t.st.passed = false
          ∧ 1 ≤ t.st.safeCause ∧ t.st.safeCause ≤ 4))
    ∧ (s.live = true → s.quiesce = .map →
      exec .dmAck s = .next { s with
        dm := ⟨false, s.dm.data⟩, heldMap := some s.dm.data, quiesce := .drain
        pins := { s.pins with disabledMap := s.dm.data } })
    ∧ (s.live = true → quiesced s = true →
      ∃ t, exec .quiesceDone s = .next t ∧ t.eng = .selftest ∧ t.fuse = s.pins ∧ t.dir = [] ∧ t.tiles = []
        ∧ (∀ c, (t.ctx c).state = (if (s.ctx c).state = .free then .free else .idle)) ∧ t.slots = s.slots)
    ∧ (s.eng ≠ .off → s.eng ≠ .locked →
      exec (.instructionStoreError .single) s
        = .next { s with fw := { s.fw with corrected := satInc s.fw.corrected } }
      ∧ ∃ t, exec (.instructionStoreError .double) s = .next t ∧ t.fw.valid = false
        ∧ (s.eng = .up → t.eng = .safe ∧ t.st.safeCause = 4))
end

