-- ==== Sys2Proof/Laws/Memory.lean ====
section
/-!
SUPPORT. The two memories: reading after writing, and the canonical form.
-/
namespace Sys2Proof.Machine

/-! ## Reading -/

/-- The entries of a run do not lie below its address. -/
theorem runCells_ge (bs : List Byte) : ∀ (a : Nat), ∀ c ∈ runCells a bs, a ≤ c.1 ∧ c.1 < a + bs.length ∧ c.2 ≠ 0 := by
  induction bs with
  | nil => intro a c h; simp [runCells] at h
  | cons b bs ih =>
    intro a c h
    unfold runCells at h
    split at h
    · obtain ⟨h1, h2, h3⟩ := ih (a + 1) c h; simp only [List.length_cons]; exact ⟨by omega, by omega, h3⟩
    · rename_i hb
      rcases List.mem_cons.1 h with rfl | h
      · simp at hb; simp [hb]
      · obtain ⟨h1, h2, h3⟩ := ih (a + 1) c h; simp only [List.length_cons]; exact ⟨by omega, by omega, h3⟩

/-- A key that no entry has finds nothing. -/
theorem lookup_none {α : Type} (k : Nat) (l : List (Nat × α)) (h : ∀ c ∈ l, c.1 ≠ k) : lookup k l = none := by
  induction l with
  | nil => rfl
  | cons c l ih =>
    have := h c List.mem_cons_self
    simp [lookup, this, ih fun d hd => h d (List.mem_cons_of_mem _ hd)]

/-- Looking up in two lists, one after the other. -/
theorem lookup_append {α : Type} (k : Nat) (l m : List (Nat × α)) :
    lookup k (l ++ m) = (lookup k l).or (lookup k m) := by
  induction l with
  | nil => rfl
  | cons c l ih => by_cases h : c.1 = k <;> simp [lookup, h, ih]

/-- Filtering entries of other keys away changes nothing. -/
theorem lookup_filter {α : Type} (k : Nat) (l : List (Nat × α)) (p : Nat × α → Bool)
    (h : ∀ c ∈ l, c.1 = k → p c = true) : lookup k (l.filter p) = lookup k l := by
  induction l with
  | nil => rfl
  | cons c l ih =>
    have ih' := ih fun d hd => h d (List.mem_cons_of_mem _ hd)
    by_cases hk : c.1 = k
    · simp [lookup, hk, h c List.mem_cons_self hk]
    · by_cases hp : p c = true <;> simp [lookup, hk, hp, ih']

/-- The bytes of a run. -/
theorem lookup_runCells (bs : List Byte) : ∀ (a x : Nat), a ≤ x →
    (lookup x (runCells a bs)).getD 0 = bs.getD (x - a) 0 := by
  induction bs with
  | nil => intro a x _; simp [runCells, lookup]
  | cons b bs ih =>
    intro a x hx
    unfold runCells
    by_cases he : x = a
    · subst he
      split
      · rename_i hb
        rw [lookup_none]
        · simp at hb; simp [hb]
        · intro c hc; have := runCells_ge bs (x + 1) c hc; omega
      · simp [lookup]
    · have hstep : x - a = (x - (a + 1)) + 1 := by omega
      split
      · rw [ih (a + 1) x (by omega), hstep]; simp
      · have : lookup x ((a, b) :: runCells (a + 1) bs) = lookup x (runCells (a + 1) bs) := by
          simp [lookup, Ne.symm he]
        rw [this, ih (a + 1) x (by omega), hstep]; simp

/-- Reading after writing: the run's bytes inside it, the old bytes elsewhere. -/
theorem memByte_memWrite (m : Memory) (a : Nat) (bs : List Byte) (x : Nat) :
    memByte (memWrite m a bs) x = if a ≤ x ∧ x < a + bs.length then bs.getD (x - a) 0 else memByte m x := by
  simp only [memByte, memWrite, lookup_append]
  by_cases hlo : a ≤ x
  · rw [lookup_none x (m.cells.filter fun c => c.1 < a)]
    · by_cases hhi : x < a + bs.length
      · rw [lookup_none x (m.cells.filter fun c => a + bs.length ≤ c.1)]
        · have := lookup_runCells bs a x hlo
          rw [if_pos ⟨hlo, hhi⟩, ← this]; simp
        · intro c hc; have := (List.mem_filter.1 hc).2; simp at this; omega
      · rw [lookup_none x (runCells a bs), lookup_filter]
        · simp [hhi]
        · intro c _ hk; simp; omega
        · intro c hc; have := runCells_ge bs a c hc; omega
    · intro c hc; have := (List.mem_filter.1 hc).2; simp at this; omega
  · rw [lookup_filter x m.cells fun c => c.1 < a]
    · rw [lookup_none x (runCells a bs), lookup_none x (m.cells.filter fun c => a + bs.length ≤ c.1)]
      · simp [hlo]
      · intro c hc; have := (List.mem_filter.1 hc).2; simp at this; omega
      · intro c hc; have := runCells_ge bs a c hc; omega
    · intro c _ hk; simp; omega

/-- A byte outside a write keeps its value. -/
theorem memByte_memWrite_out (m : Memory) (a : Nat) (bs : List Byte) (x : Nat) (h : x < a ∨ a + bs.length ≤ x) :
    memByte (memWrite m a bs) x = memByte m x := by
  rw [memByte_memWrite, if_neg (by omega)]

/-! ## The canonical form -/

/-- The form, as a statement about pairs of entries. -/
theorem memory_wf_iff (m : Memory) :
    m.wf = true ↔ (∀ c ∈ m.cells, c.2 ≠ 0) ∧ m.cells.Pairwise fun a b => a.1 < b.1 := by
  have key : ∀ l : List Host.Cell,
      ((List.zip l (l.drop 1)).all fun p => decide (p.1.1 < p.2.1)) = true ↔ l.Pairwise fun a b => a.1 < b.1 := by
    intro l
    rw [← List.isChain_iff_pairwise]
    induction l with
    | nil => simp
    | cons x l ih =>
      cases l with
      | nil => simp
      | cons y l => simpa using fun _ => ih
  simp only [Memory.wf, Bool.and_eq_true, key]
  simp

/-- The entries of a run rise. -/
theorem runCells_pairwise (bs : List Byte) : ∀ a : Nat, (runCells a bs).Pairwise fun a b => a.1 < b.1 := by
  induction bs with
  | nil => intro a; simp [runCells]
  | cons b bs ih =>
    intro a
    unfold runCells
    split
    · exact ih _
    · refine List.pairwise_cons.2 ⟨fun c hc => ?_, ih _⟩
      have := runCells_ge bs (a + 1) c hc
      exact Nat.lt_of_succ_le this.1

/-- A write keeps the form. -/
theorem memWrite_wf (m : Memory) (a : Nat) (bs : List Byte) (h : m.wf = true) : (memWrite m a bs).wf = true := by
  rw [memory_wf_iff] at h ⊢
  simp only [memWrite, List.pairwise_append, List.mem_append, List.mem_filter, decide_eq_true_eq]
  refine ⟨?_, ⟨h.2.filter _, runCells_pairwise bs a, ?_⟩, h.2.filter _, ?_⟩
  · rintro c ((hc | hc) | hc)
    · exact h.1 c hc.1
    · exact (runCells_ge bs a c hc).2.2
    · exact h.1 c hc.1
  · intro c hc d hd
    exact Nat.lt_of_lt_of_le hc.2 (runCells_ge bs a d hd).1
  · rintro c (hc | hc) d hd
    · omega
    · have := runCells_ge bs a c hc; omega

/-- Both memories have the form at reset. -/
theorem reset_memories_wf : State.reset.chip.wf = true ∧ State.reset.host.wf = true := ⟨rfl, rfl⟩

end Sys2Proof.Machine
end

