-- ==== Sys2Proof/Laws/State.lean ====
section
/-!
SUPPORT. One lemma a shared update: every field that it leaves alone. Each is a conjunction, which `simp` uses field by
field, so that no later proof unfolds a record update.
-/
namespace Sys2Proof.Machine

/-- What `modCtx` leaves alone. -/
@[simp] theorem modCtx_frame (s : State) (c : CtxId) (f : Ctx → Ctx) :
    (modCtx s c f).pending = s.pending ∧ (modCtx s c f).eng = s.eng ∧ (modCtx s c f).inReset = s.inReset
    ∧ (modCtx s c f).tick = s.tick ∧ (modCtx s c f).pins = s.pins ∧ (modCtx s c f).fuse = s.fuse
    ∧ (modCtx s c f).dm = s.dm ∧ (modCtx s c f).heldMap = s.heldMap ∧ (modCtx s c f).quiesce = s.quiesce
    ∧ (modCtx s c f).latches = s.latches ∧ (modCtx s c f).setup = s.setup ∧ (modCtx s c f).chip = s.chip
    ∧ (modCtx s c f).host = s.host ∧ (modCtx s c f).memWait = s.memWait ∧ (modCtx s c f).memOut = s.memOut
    ∧ (modCtx s c f).got = s.got ∧ (modCtx s c f).nextTag = s.nextTag ∧ (modCtx s c f).dmaLast = s.dmaLast
    ∧ (modCtx s c f).moverLast = s.moverLast ∧ (modCtx s c f).hostOut = s.hostOut
    ∧ (modCtx s c f).nextHost = s.nextHost ∧ (modCtx s c f).outbox = s.outbox ∧ (modCtx s c f).fresh = s.fresh
    ∧ (modCtx s c f).sched = s.sched ∧ (modCtx s c f).tiles = s.tiles ∧ (modCtx s c f).ready = s.ready
    ∧ (modCtx s c f).frames = s.frames ∧ (modCtx s c f).banks = s.banks ∧ (modCtx s c f).slices = s.slices
    ∧ (modCtx s c f).queues = s.queues ∧ (modCtx s c f).coreFail = s.coreFail ∧ (modCtx s c f).feedLast = s.feedLast
    ∧ (modCtx s c f).drainLast = s.drainLast ∧ (modCtx s c f).coreTimeout = s.coreTimeout
    ∧ (modCtx s c f).lanes = s.lanes ∧ (modCtx s c f).rxPast = s.rxPast
    ∧ (modCtx s c f).nextUpdate = s.nextUpdate
    ∧ (modCtx s c f).sporeWriters = s.sporeWriters ∧ (modCtx s c f).seqs = s.seqs ∧ (modCtx s c f).owner = s.owner
    ∧ (modCtx s c f).dir = s.dir ∧ (modCtx s c f).stamp = s.stamp ∧ (modCtx s c f).hotq = s.hotq
    ∧ (modCtx s c f).gather = s.gather ∧ (modCtx s c f).dma = s.dma ∧ (modCtx s c f).peers = s.peers
    ∧ (modCtx s c f).spore = s.spore ∧ (modCtx s c f).tx = s.tx ∧ (modCtx s c f).txWait = s.txWait
    ∧ (modCtx s c f).txGen = s.txGen ∧ (modCtx s c f).rx = s.rx ∧ (modCtx s c f).rxWait = s.rxWait
    ∧ (modCtx s c f).floors = s.floors ∧ (modCtx s c f).readPend = s.readPend ∧ (modCtx s c f).serving = s.serving
    ∧ (modCtx s c f).nextServe = s.nextServe ∧ (modCtx s c f).rowHolds = s.rowHolds ∧ (modCtx s c f).slots = s.slots
    ∧ (modCtx s c f).provWait = s.provWait ∧ (modCtx s c f).sec = s.sec ∧ (modCtx s c f).st = s.st
    ∧ (modCtx s c f).fw = s.fw ∧ (modCtx s c f).sensor = s.sensor ∧ (modCtx s c f).power = s.power
    ∧ (modCtx s c f).beatTick = s.beatTick ∧ (modCtx s c f).beatFrom = s.beatFrom
    ∧ (modCtx s c f).paceShort = s.paceShort ∧ (modCtx s c f).tdc = s.tdc ∧ (modCtx s c f).tele = s.tele
    ∧ (modCtx s c f).teleWrap = s.teleWrap ∧ (modCtx s c f).portErr = s.portErr ∧ (modCtx s c f).tbl = s.tbl := by
  repeat' constructor

/-- What `modTile` leaves alone. -/
@[simp] theorem modTile_frame (s : State) (c : CtxId) (e : BitVec 16) (f : Tile → Tile) :
    (modTile s c e f).pending = s.pending ∧ (modTile s c e f).eng = s.eng ∧ (modTile s c e f).inReset = s.inReset
    ∧ (modTile s c e f).tick = s.tick ∧ (modTile s c e f).pins = s.pins ∧ (modTile s c e f).fuse = s.fuse
    ∧ (modTile s c e f).dm = s.dm ∧ (modTile s c e f).heldMap = s.heldMap ∧ (modTile s c e f).quiesce = s.quiesce
    ∧ (modTile s c e f).latches = s.latches ∧ (modTile s c e f).setup = s.setup ∧ (modTile s c e f).chip = s.chip
    ∧ (modTile s c e f).host = s.host ∧ (modTile s c e f).memWait = s.memWait ∧ (modTile s c e f).memOut = s.memOut
    ∧ (modTile s c e f).got = s.got ∧ (modTile s c e f).nextTag = s.nextTag ∧ (modTile s c e f).dmaLast = s.dmaLast
    ∧ (modTile s c e f).moverLast = s.moverLast ∧ (modTile s c e f).hostOut = s.hostOut
    ∧ (modTile s c e f).nextHost = s.nextHost ∧ (modTile s c e f).outbox = s.outbox
    ∧ (modTile s c e f).fresh = s.fresh ∧ (modTile s c e f).ctxs = s.ctxs ∧ (modTile s c e f).sched = s.sched
    ∧ (modTile s c e f).ready = s.ready ∧ (modTile s c e f).frames = s.frames ∧ (modTile s c e f).banks = s.banks
    ∧ (modTile s c e f).slices = s.slices ∧ (modTile s c e f).queues = s.queues
    ∧ (modTile s c e f).coreFail = s.coreFail ∧ (modTile s c e f).feedLast = s.feedLast
    ∧ (modTile s c e f).drainLast = s.drainLast ∧ (modTile s c e f).coreTimeout = s.coreTimeout
    ∧ (modTile s c e f).lanes = s.lanes ∧ (modTile s c e f).rxPast = s.rxPast
    ∧ (modTile s c e f).nextUpdate = s.nextUpdate
    ∧ (modTile s c e f).sporeWriters = s.sporeWriters ∧ (modTile s c e f).seqs = s.seqs
    ∧ (modTile s c e f).owner = s.owner ∧ (modTile s c e f).dir = s.dir ∧ (modTile s c e f).stamp = s.stamp
    ∧ (modTile s c e f).hotq = s.hotq ∧ (modTile s c e f).gather = s.gather ∧ (modTile s c e f).dma = s.dma
    ∧ (modTile s c e f).peers = s.peers ∧ (modTile s c e f).spore = s.spore ∧ (modTile s c e f).tx = s.tx
    ∧ (modTile s c e f).txWait = s.txWait ∧ (modTile s c e f).txGen = s.txGen ∧ (modTile s c e f).rx = s.rx
    ∧ (modTile s c e f).rxWait = s.rxWait ∧ (modTile s c e f).floors = s.floors
    ∧ (modTile s c e f).readPend = s.readPend ∧ (modTile s c e f).serving = s.serving
    ∧ (modTile s c e f).nextServe = s.nextServe ∧ (modTile s c e f).rowHolds = s.rowHolds
    ∧ (modTile s c e f).slots = s.slots ∧ (modTile s c e f).provWait = s.provWait ∧ (modTile s c e f).sec = s.sec
    ∧ (modTile s c e f).st = s.st ∧ (modTile s c e f).fw = s.fw ∧ (modTile s c e f).sensor = s.sensor
    ∧ (modTile s c e f).power = s.power ∧ (modTile s c e f).beatTick = s.beatTick
    ∧ (modTile s c e f).beatFrom = s.beatFrom ∧ (modTile s c e f).paceShort = s.paceShort
    ∧ (modTile s c e f).tdc = s.tdc ∧ (modTile s c e f).tele = s.tele ∧ (modTile s c e f).teleWrap = s.teleWrap
    ∧ (modTile s c e f).portErr = s.portErr ∧ (modTile s c e f).tbl = s.tbl := by
  repeat' constructor

/-- What `modTok` leaves alone. -/
@[simp] theorem modTok_frame (s : State) (t : Tile) (i : Nat) (f : Tok → Tok) :
    (modTok s t i f).pending = s.pending ∧ (modTok s t i f).eng = s.eng ∧ (modTok s t i f).inReset = s.inReset
    ∧ (modTok s t i f).tick = s.tick ∧ (modTok s t i f).pins = s.pins ∧ (modTok s t i f).fuse = s.fuse
    ∧ (modTok s t i f).dm = s.dm ∧ (modTok s t i f).heldMap = s.heldMap ∧ (modTok s t i f).quiesce = s.quiesce
    ∧ (modTok s t i f).latches = s.latches ∧ (modTok s t i f).setup = s.setup ∧ (modTok s t i f).chip = s.chip
    ∧ (modTok s t i f).host = s.host ∧ (modTok s t i f).memWait = s.memWait ∧ (modTok s t i f).memOut = s.memOut
    ∧ (modTok s t i f).got = s.got ∧ (modTok s t i f).nextTag = s.nextTag ∧ (modTok s t i f).dmaLast = s.dmaLast
    ∧ (modTok s t i f).moverLast = s.moverLast ∧ (modTok s t i f).hostOut = s.hostOut
    ∧ (modTok s t i f).nextHost = s.nextHost ∧ (modTok s t i f).outbox = s.outbox ∧ (modTok s t i f).fresh = s.fresh
    ∧ (modTok s t i f).ctxs = s.ctxs ∧ (modTok s t i f).sched = s.sched ∧ (modTok s t i f).ready = s.ready
    ∧ (modTok s t i f).frames = s.frames ∧ (modTok s t i f).banks = s.banks ∧ (modTok s t i f).slices = s.slices
    ∧ (modTok s t i f).queues = s.queues ∧ (modTok s t i f).coreFail = s.coreFail
    ∧ (modTok s t i f).feedLast = s.feedLast ∧ (modTok s t i f).drainLast = s.drainLast
    ∧ (modTok s t i f).coreTimeout = s.coreTimeout
    ∧ (modTok s t i f).lanes = s.lanes ∧ (modTok s t i f).rxPast = s.rxPast
    ∧ (modTok s t i f).nextUpdate = s.nextUpdate ∧ (modTok s t i f).sporeWriters = s.sporeWriters
    ∧ (modTok s t i f).seqs = s.seqs ∧ (modTok s t i f).owner = s.owner ∧ (modTok s t i f).dir = s.dir
    ∧ (modTok s t i f).stamp = s.stamp ∧ (modTok s t i f).hotq = s.hotq ∧ (modTok s t i f).gather = s.gather
    ∧ (modTok s t i f).dma = s.dma ∧ (modTok s t i f).peers = s.peers ∧ (modTok s t i f).spore = s.spore
    ∧ (modTok s t i f).tx = s.tx ∧ (modTok s t i f).txWait = s.txWait ∧ (modTok s t i f).txGen = s.txGen
    ∧ (modTok s t i f).rx = s.rx ∧ (modTok s t i f).rxWait = s.rxWait ∧ (modTok s t i f).floors = s.floors
    ∧ (modTok s t i f).readPend = s.readPend ∧ (modTok s t i f).serving = s.serving
    ∧ (modTok s t i f).nextServe = s.nextServe ∧ (modTok s t i f).rowHolds = s.rowHolds
    ∧ (modTok s t i f).slots = s.slots ∧ (modTok s t i f).provWait = s.provWait ∧ (modTok s t i f).sec = s.sec
    ∧ (modTok s t i f).st = s.st ∧ (modTok s t i f).fw = s.fw ∧ (modTok s t i f).sensor = s.sensor
    ∧ (modTok s t i f).power = s.power ∧ (modTok s t i f).beatTick = s.beatTick
    ∧ (modTok s t i f).beatFrom = s.beatFrom ∧ (modTok s t i f).paceShort = s.paceShort
    ∧ (modTok s t i f).tdc = s.tdc ∧ (modTok s t i f).tele = s.tele ∧ (modTok s t i f).teleWrap = s.teleWrap
    ∧ (modTok s t i f).portErr = s.portErr ∧ (modTok s t i f).tbl = s.tbl := by
  repeat' constructor

/-- What `modTp` leaves alone. -/
@[simp] theorem modTp_frame (s : State) (c : CtxId) (k : BitVec 32) (f : TpJob → TpJob) :
    (modTp s c k f).pending = s.pending ∧ (modTp s c k f).eng = s.eng ∧ (modTp s c k f).inReset = s.inReset
    ∧ (modTp s c k f).tick = s.tick ∧ (modTp s c k f).pins = s.pins ∧ (modTp s c k f).fuse = s.fuse
    ∧ (modTp s c k f).dm = s.dm ∧ (modTp s c k f).heldMap = s.heldMap ∧ (modTp s c k f).quiesce = s.quiesce
    ∧ (modTp s c k f).latches = s.latches ∧ (modTp s c k f).setup = s.setup ∧ (modTp s c k f).chip = s.chip
    ∧ (modTp s c k f).host = s.host ∧ (modTp s c k f).memWait = s.memWait ∧ (modTp s c k f).memOut = s.memOut
    ∧ (modTp s c k f).got = s.got ∧ (modTp s c k f).nextTag = s.nextTag ∧ (modTp s c k f).dmaLast = s.dmaLast
    ∧ (modTp s c k f).moverLast = s.moverLast ∧ (modTp s c k f).hostOut = s.hostOut
    ∧ (modTp s c k f).nextHost = s.nextHost ∧ (modTp s c k f).outbox = s.outbox ∧ (modTp s c k f).fresh = s.fresh
    ∧ (modTp s c k f).sched = s.sched ∧ (modTp s c k f).tiles = s.tiles ∧ (modTp s c k f).ready = s.ready
    ∧ (modTp s c k f).frames = s.frames ∧ (modTp s c k f).banks = s.banks ∧ (modTp s c k f).slices = s.slices
    ∧ (modTp s c k f).queues = s.queues ∧ (modTp s c k f).coreFail = s.coreFail
    ∧ (modTp s c k f).feedLast = s.feedLast ∧ (modTp s c k f).drainLast = s.drainLast
    ∧ (modTp s c k f).coreTimeout = s.coreTimeout
    ∧ (modTp s c k f).lanes = s.lanes ∧ (modTp s c k f).rxPast = s.rxPast
    ∧ (modTp s c k f).nextUpdate = s.nextUpdate ∧ (modTp s c k f).sporeWriters = s.sporeWriters
    ∧ (modTp s c k f).seqs = s.seqs ∧ (modTp s c k f).owner = s.owner ∧ (modTp s c k f).dir = s.dir
    ∧ (modTp s c k f).stamp = s.stamp ∧ (modTp s c k f).hotq = s.hotq ∧ (modTp s c k f).gather = s.gather
    ∧ (modTp s c k f).dma = s.dma ∧ (modTp s c k f).peers = s.peers ∧ (modTp s c k f).spore = s.spore
    ∧ (modTp s c k f).tx = s.tx ∧ (modTp s c k f).txWait = s.txWait ∧ (modTp s c k f).txGen = s.txGen
    ∧ (modTp s c k f).rx = s.rx ∧ (modTp s c k f).rxWait = s.rxWait ∧ (modTp s c k f).floors = s.floors
    ∧ (modTp s c k f).readPend = s.readPend ∧ (modTp s c k f).serving = s.serving
    ∧ (modTp s c k f).nextServe = s.nextServe ∧ (modTp s c k f).rowHolds = s.rowHolds
    ∧ (modTp s c k f).slots = s.slots ∧ (modTp s c k f).provWait = s.provWait ∧ (modTp s c k f).sec = s.sec
    ∧ (modTp s c k f).st = s.st ∧ (modTp s c k f).fw = s.fw ∧ (modTp s c k f).sensor = s.sensor
    ∧ (modTp s c k f).power = s.power ∧ (modTp s c k f).beatTick = s.beatTick
    ∧ (modTp s c k f).beatFrom = s.beatFrom ∧ (modTp s c k f).paceShort = s.paceShort ∧ (modTp s c k f).tdc = s.tdc
    ∧ (modTp s c k f).tele = s.tele ∧ (modTp s c k f).teleWrap = s.teleWrap ∧ (modTp s c k f).portErr = s.portErr
    ∧ (modTp s c k f).tbl = s.tbl := by
  repeat' constructor

/-- What `modQueue` leaves alone. -/
@[simp] theorem modQueue_frame (s : State) (p : PortId) (f : CoreQ → CoreQ) :
    (modQueue s p f).pending = s.pending ∧ (modQueue s p f).eng = s.eng ∧ (modQueue s p f).inReset = s.inReset
    ∧ (modQueue s p f).tick = s.tick ∧ (modQueue s p f).pins = s.pins ∧ (modQueue s p f).fuse = s.fuse
    ∧ (modQueue s p f).dm = s.dm ∧ (modQueue s p f).heldMap = s.heldMap ∧ (modQueue s p f).quiesce = s.quiesce
    ∧ (modQueue s p f).latches = s.latches ∧ (modQueue s p f).setup = s.setup ∧ (modQueue s p f).chip = s.chip
    ∧ (modQueue s p f).host = s.host ∧ (modQueue s p f).memWait = s.memWait ∧ (modQueue s p f).memOut = s.memOut
    ∧ (modQueue s p f).got = s.got ∧ (modQueue s p f).nextTag = s.nextTag ∧ (modQueue s p f).dmaLast = s.dmaLast
    ∧ (modQueue s p f).moverLast = s.moverLast ∧ (modQueue s p f).hostOut = s.hostOut
    ∧ (modQueue s p f).nextHost = s.nextHost ∧ (modQueue s p f).outbox = s.outbox ∧ (modQueue s p f).fresh = s.fresh
    ∧ (modQueue s p f).ctxs = s.ctxs ∧ (modQueue s p f).sched = s.sched ∧ (modQueue s p f).tiles = s.tiles
    ∧ (modQueue s p f).ready = s.ready ∧ (modQueue s p f).frames = s.frames ∧ (modQueue s p f).banks = s.banks
    ∧ (modQueue s p f).slices = s.slices ∧ (modQueue s p f).coreFail = s.coreFail
    ∧ (modQueue s p f).feedLast = s.feedLast ∧ (modQueue s p f).drainLast = s.drainLast
    ∧ (modQueue s p f).coreTimeout = s.coreTimeout
    ∧ (modQueue s p f).lanes = s.lanes ∧ (modQueue s p f).rxPast = s.rxPast
    ∧ (modQueue s p f).nextUpdate = s.nextUpdate ∧ (modQueue s p f).sporeWriters = s.sporeWriters
    ∧ (modQueue s p f).seqs = s.seqs ∧ (modQueue s p f).owner = s.owner ∧ (modQueue s p f).dir = s.dir
    ∧ (modQueue s p f).stamp = s.stamp ∧ (modQueue s p f).hotq = s.hotq ∧ (modQueue s p f).gather = s.gather
    ∧ (modQueue s p f).dma = s.dma ∧ (modQueue s p f).peers = s.peers ∧ (modQueue s p f).spore = s.spore
    ∧ (modQueue s p f).tx = s.tx ∧ (modQueue s p f).txWait = s.txWait ∧ (modQueue s p f).txGen = s.txGen
    ∧ (modQueue s p f).rx = s.rx ∧ (modQueue s p f).rxWait = s.rxWait ∧ (modQueue s p f).floors = s.floors
    ∧ (modQueue s p f).readPend = s.readPend ∧ (modQueue s p f).serving = s.serving
    ∧ (modQueue s p f).nextServe = s.nextServe ∧ (modQueue s p f).rowHolds = s.rowHolds
    ∧ (modQueue s p f).slots = s.slots ∧ (modQueue s p f).provWait = s.provWait ∧ (modQueue s p f).sec = s.sec
    ∧ (modQueue s p f).st = s.st ∧ (modQueue s p f).fw = s.fw ∧ (modQueue s p f).sensor = s.sensor
    ∧ (modQueue s p f).power = s.power ∧ (modQueue s p f).beatTick = s.beatTick
    ∧ (modQueue s p f).beatFrom = s.beatFrom ∧ (modQueue s p f).paceShort = s.paceShort
    ∧ (modQueue s p f).tdc = s.tdc ∧ (modQueue s p f).tele = s.tele ∧ (modQueue s p f).teleWrap = s.teleWrap
    ∧ (modQueue s p f).portErr = s.portErr ∧ (modQueue s p f).tbl = s.tbl := by
  repeat' constructor

/-- What `mapQueues` leaves alone. -/
@[simp] theorem mapQueues_frame (s : State) (f : CoreQ → CoreQ) :
    (mapQueues s f).pending = s.pending ∧ (mapQueues s f).eng = s.eng ∧ (mapQueues s f).inReset = s.inReset
    ∧ (mapQueues s f).tick = s.tick ∧ (mapQueues s f).pins = s.pins ∧ (mapQueues s f).fuse = s.fuse
    ∧ (mapQueues s f).dm = s.dm ∧ (mapQueues s f).heldMap = s.heldMap ∧ (mapQueues s f).quiesce = s.quiesce
    ∧ (mapQueues s f).latches = s.latches ∧ (mapQueues s f).setup = s.setup ∧ (mapQueues s f).chip = s.chip
    ∧ (mapQueues s f).host = s.host ∧ (mapQueues s f).memWait = s.memWait ∧ (mapQueues s f).memOut = s.memOut
    ∧ (mapQueues s f).got = s.got ∧ (mapQueues s f).nextTag = s.nextTag ∧ (mapQueues s f).dmaLast = s.dmaLast
    ∧ (mapQueues s f).moverLast = s.moverLast ∧ (mapQueues s f).hostOut = s.hostOut
    ∧ (mapQueues s f).nextHost = s.nextHost ∧ (mapQueues s f).outbox = s.outbox ∧ (mapQueues s f).fresh = s.fresh
    ∧ (mapQueues s f).ctxs = s.ctxs ∧ (mapQueues s f).sched = s.sched ∧ (mapQueues s f).tiles = s.tiles
    ∧ (mapQueues s f).ready = s.ready ∧ (mapQueues s f).frames = s.frames ∧ (mapQueues s f).banks = s.banks
    ∧ (mapQueues s f).slices = s.slices ∧ (mapQueues s f).coreFail = s.coreFail
    ∧ (mapQueues s f).feedLast = s.feedLast ∧ (mapQueues s f).drainLast = s.drainLast
    ∧ (mapQueues s f).coreTimeout = s.coreTimeout
    ∧ (mapQueues s f).lanes = s.lanes ∧ (mapQueues s f).rxPast = s.rxPast
    ∧ (mapQueues s f).nextUpdate = s.nextUpdate ∧ (mapQueues s f).sporeWriters = s.sporeWriters
    ∧ (mapQueues s f).seqs = s.seqs ∧ (mapQueues s f).owner = s.owner ∧ (mapQueues s f).dir = s.dir
    ∧ (mapQueues s f).stamp = s.stamp ∧ (mapQueues s f).hotq = s.hotq ∧ (mapQueues s f).gather = s.gather
    ∧ (mapQueues s f).dma = s.dma ∧ (mapQueues s f).peers = s.peers ∧ (mapQueues s f).spore = s.spore
    ∧ (mapQueues s f).tx = s.tx ∧ (mapQueues s f).txWait = s.txWait ∧ (mapQueues s f).txGen = s.txGen
    ∧ (mapQueues s f).rx = s.rx ∧ (mapQueues s f).rxWait = s.rxWait ∧ (mapQueues s f).floors = s.floors
    ∧ (mapQueues s f).readPend = s.readPend ∧ (mapQueues s f).serving = s.serving
    ∧ (mapQueues s f).nextServe = s.nextServe ∧ (mapQueues s f).rowHolds = s.rowHolds
    ∧ (mapQueues s f).slots = s.slots ∧ (mapQueues s f).provWait = s.provWait ∧ (mapQueues s f).sec = s.sec
    ∧ (mapQueues s f).st = s.st ∧ (mapQueues s f).fw = s.fw ∧ (mapQueues s f).sensor = s.sensor
    ∧ (mapQueues s f).power = s.power ∧ (mapQueues s f).beatTick = s.beatTick
    ∧ (mapQueues s f).beatFrom = s.beatFrom ∧ (mapQueues s f).paceShort = s.paceShort ∧ (mapQueues s f).tdc = s.tdc
    ∧ (mapQueues s f).tele = s.tele ∧ (mapQueues s f).teleWrap = s.teleWrap ∧ (mapQueues s f).portErr = s.portErr
    ∧ (mapQueues s f).tbl = s.tbl := by
  repeat' constructor

/-- What `modTx` leaves alone. -/
@[simp] theorem modTx_frame (s : State) (chip : BitVec 16) (engine : Bool) (f : TxStream → TxStream) :
    (modTx s chip engine f).pending = s.pending ∧ (modTx s chip engine f).eng = s.eng
    ∧ (modTx s chip engine f).inReset = s.inReset ∧ (modTx s chip engine f).tick = s.tick
    ∧ (modTx s chip engine f).pins = s.pins ∧ (modTx s chip engine f).fuse = s.fuse
    ∧ (modTx s chip engine f).dm = s.dm ∧ (modTx s chip engine f).heldMap = s.heldMap
    ∧ (modTx s chip engine f).quiesce = s.quiesce ∧ (modTx s chip engine f).latches = s.latches
    ∧ (modTx s chip engine f).setup = s.setup ∧ (modTx s chip engine f).chip = s.chip
    ∧ (modTx s chip engine f).host = s.host ∧ (modTx s chip engine f).memWait = s.memWait
    ∧ (modTx s chip engine f).memOut = s.memOut ∧ (modTx s chip engine f).got = s.got
    ∧ (modTx s chip engine f).nextTag = s.nextTag ∧ (modTx s chip engine f).dmaLast = s.dmaLast
    ∧ (modTx s chip engine f).moverLast = s.moverLast ∧ (modTx s chip engine f).hostOut = s.hostOut
    ∧ (modTx s chip engine f).nextHost = s.nextHost ∧ (modTx s chip engine f).outbox = s.outbox
    ∧ (modTx s chip engine f).fresh = s.fresh ∧ (modTx s chip engine f).ctxs = s.ctxs
    ∧ (modTx s chip engine f).sched = s.sched ∧ (modTx s chip engine f).tiles = s.tiles
    ∧ (modTx s chip engine f).ready = s.ready ∧ (modTx s chip engine f).frames = s.frames
    ∧ (modTx s chip engine f).banks = s.banks ∧ (modTx s chip engine f).slices = s.slices
    ∧ (modTx s chip engine f).queues = s.queues ∧ (modTx s chip engine f).coreFail = s.coreFail
    ∧ (modTx s chip engine f).feedLast = s.feedLast ∧ (modTx s chip engine f).drainLast = s.drainLast
    ∧ (modTx s chip engine f).coreTimeout = s.coreTimeout
    ∧ (modTx s chip engine f).lanes = s.lanes ∧ (modTx s chip engine f).rxPast = s.rxPast
    ∧ (modTx s chip engine f).nextUpdate = s.nextUpdate ∧ (modTx s chip engine f).sporeWriters = s.sporeWriters
    ∧ (modTx s chip engine f).seqs = s.seqs ∧ (modTx s chip engine f).owner = s.owner
    ∧ (modTx s chip engine f).dir = s.dir ∧ (modTx s chip engine f).stamp = s.stamp
    ∧ (modTx s chip engine f).hotq = s.hotq ∧ (modTx s chip engine f).gather = s.gather
    ∧ (modTx s chip engine f).dma = s.dma ∧ (modTx s chip engine f).peers = s.peers
    ∧ (modTx s chip engine f).spore = s.spore ∧ (modTx s chip engine f).txWait = s.txWait
    ∧ (modTx s chip engine f).txGen = s.txGen ∧ (modTx s chip engine f).rx = s.rx
    ∧ (modTx s chip engine f).rxWait = s.rxWait ∧ (modTx s chip engine f).floors = s.floors
    ∧ (modTx s chip engine f).readPend = s.readPend ∧ (modTx s chip engine f).serving = s.serving
    ∧ (modTx s chip engine f).nextServe = s.nextServe ∧ (modTx s chip engine f).rowHolds = s.rowHolds
    ∧ (modTx s chip engine f).slots = s.slots ∧ (modTx s chip engine f).provWait = s.provWait
    ∧ (modTx s chip engine f).sec = s.sec ∧ (modTx s chip engine f).st = s.st ∧ (modTx s chip engine f).fw = s.fw
    ∧ (modTx s chip engine f).sensor = s.sensor ∧ (modTx s chip engine f).power = s.power
    ∧ (modTx s chip engine f).beatTick = s.beatTick ∧ (modTx s chip engine f).beatFrom = s.beatFrom
    ∧ (modTx s chip engine f).paceShort = s.paceShort ∧ (modTx s chip engine f).tdc = s.tdc
    ∧ (modTx s chip engine f).tele = s.tele ∧ (modTx s chip engine f).teleWrap = s.teleWrap
    ∧ (modTx s chip engine f).portErr = s.portErr ∧ (modTx s chip engine f).tbl = s.tbl := by
  repeat' constructor

/-- What `modRx` leaves alone. -/
@[simp] theorem modRx_frame (s : State) (chip : BitVec 16) (engine : Bool) (f : RxStream → RxStream) :
    (modRx s chip engine f).pending = s.pending ∧ (modRx s chip engine f).eng = s.eng
    ∧ (modRx s chip engine f).inReset = s.inReset ∧ (modRx s chip engine f).tick = s.tick
    ∧ (modRx s chip engine f).pins = s.pins ∧ (modRx s chip engine f).fuse = s.fuse
    ∧ (modRx s chip engine f).dm = s.dm ∧ (modRx s chip engine f).heldMap = s.heldMap
    ∧ (modRx s chip engine f).quiesce = s.quiesce ∧ (modRx s chip engine f).latches = s.latches
    ∧ (modRx s chip engine f).setup = s.setup ∧ (modRx s chip engine f).chip = s.chip
    ∧ (modRx s chip engine f).host = s.host ∧ (modRx s chip engine f).memWait = s.memWait
    ∧ (modRx s chip engine f).memOut = s.memOut ∧ (modRx s chip engine f).got = s.got
    ∧ (modRx s chip engine f).nextTag = s.nextTag ∧ (modRx s chip engine f).dmaLast = s.dmaLast
    ∧ (modRx s chip engine f).moverLast = s.moverLast ∧ (modRx s chip engine f).hostOut = s.hostOut
    ∧ (modRx s chip engine f).nextHost = s.nextHost ∧ (modRx s chip engine f).outbox = s.outbox
    ∧ (modRx s chip engine f).fresh = s.fresh ∧ (modRx s chip engine f).ctxs = s.ctxs
    ∧ (modRx s chip engine f).sched = s.sched ∧ (modRx s chip engine f).tiles = s.tiles
    ∧ (modRx s chip engine f).ready = s.ready ∧ (modRx s chip engine f).frames = s.frames
    ∧ (modRx s chip engine f).banks = s.banks ∧ (modRx s chip engine f).slices = s.slices
    ∧ (modRx s chip engine f).queues = s.queues ∧ (modRx s chip engine f).coreFail = s.coreFail
    ∧ (modRx s chip engine f).feedLast = s.feedLast ∧ (modRx s chip engine f).drainLast = s.drainLast
    ∧ (modRx s chip engine f).coreTimeout = s.coreTimeout
    ∧ (modRx s chip engine f).lanes = s.lanes ∧ (modRx s chip engine f).rxPast = s.rxPast
    ∧ (modRx s chip engine f).nextUpdate = s.nextUpdate ∧ (modRx s chip engine f).sporeWriters = s.sporeWriters
    ∧ (modRx s chip engine f).seqs = s.seqs ∧ (modRx s chip engine f).owner = s.owner
    ∧ (modRx s chip engine f).dir = s.dir ∧ (modRx s chip engine f).stamp = s.stamp
    ∧ (modRx s chip engine f).hotq = s.hotq ∧ (modRx s chip engine f).gather = s.gather
    ∧ (modRx s chip engine f).dma = s.dma ∧ (modRx s chip engine f).peers = s.peers
    ∧ (modRx s chip engine f).spore = s.spore ∧ (modRx s chip engine f).tx = s.tx
    ∧ (modRx s chip engine f).txWait = s.txWait ∧ (modRx s chip engine f).txGen = s.txGen
    ∧ (modRx s chip engine f).rxWait = s.rxWait ∧ (modRx s chip engine f).floors = s.floors
    ∧ (modRx s chip engine f).readPend = s.readPend ∧ (modRx s chip engine f).serving = s.serving
    ∧ (modRx s chip engine f).nextServe = s.nextServe ∧ (modRx s chip engine f).rowHolds = s.rowHolds
    ∧ (modRx s chip engine f).slots = s.slots ∧ (modRx s chip engine f).provWait = s.provWait
    ∧ (modRx s chip engine f).sec = s.sec ∧ (modRx s chip engine f).st = s.st ∧ (modRx s chip engine f).fw = s.fw
    ∧ (modRx s chip engine f).sensor = s.sensor ∧ (modRx s chip engine f).power = s.power
    ∧ (modRx s chip engine f).beatTick = s.beatTick ∧ (modRx s chip engine f).beatFrom = s.beatFrom
    ∧ (modRx s chip engine f).paceShort = s.paceShort ∧ (modRx s chip engine f).tdc = s.tdc
    ∧ (modRx s chip engine f).tele = s.tele ∧ (modRx s chip engine f).teleWrap = s.teleWrap
    ∧ (modRx s chip engine f).portErr = s.portErr ∧ (modRx s chip engine f).tbl = s.tbl := by
  repeat' constructor

/-- What `modDir` leaves alone. -/
@[simp] theorem modDir_frame (s : State) (i : Nat) (f : HotEntry → HotEntry) :
    (modDir s i f).pending = s.pending ∧ (modDir s i f).eng = s.eng ∧ (modDir s i f).inReset = s.inReset
    ∧ (modDir s i f).tick = s.tick ∧ (modDir s i f).pins = s.pins ∧ (modDir s i f).fuse = s.fuse
    ∧ (modDir s i f).dm = s.dm ∧ (modDir s i f).heldMap = s.heldMap ∧ (modDir s i f).quiesce = s.quiesce
    ∧ (modDir s i f).latches = s.latches ∧ (modDir s i f).setup = s.setup ∧ (modDir s i f).chip = s.chip
    ∧ (modDir s i f).host = s.host ∧ (modDir s i f).memWait = s.memWait ∧ (modDir s i f).memOut = s.memOut
    ∧ (modDir s i f).got = s.got ∧ (modDir s i f).nextTag = s.nextTag ∧ (modDir s i f).dmaLast = s.dmaLast
    ∧ (modDir s i f).moverLast = s.moverLast ∧ (modDir s i f).hostOut = s.hostOut
    ∧ (modDir s i f).nextHost = s.nextHost ∧ (modDir s i f).outbox = s.outbox ∧ (modDir s i f).fresh = s.fresh
    ∧ (modDir s i f).ctxs = s.ctxs ∧ (modDir s i f).sched = s.sched ∧ (modDir s i f).tiles = s.tiles
    ∧ (modDir s i f).ready = s.ready ∧ (modDir s i f).frames = s.frames ∧ (modDir s i f).banks = s.banks
    ∧ (modDir s i f).slices = s.slices ∧ (modDir s i f).queues = s.queues ∧ (modDir s i f).coreFail = s.coreFail
    ∧ (modDir s i f).feedLast = s.feedLast ∧ (modDir s i f).drainLast = s.drainLast
    ∧ (modDir s i f).coreTimeout = s.coreTimeout
    ∧ (modDir s i f).lanes = s.lanes ∧ (modDir s i f).rxPast = s.rxPast
    ∧ (modDir s i f).nextUpdate = s.nextUpdate ∧ (modDir s i f).sporeWriters = s.sporeWriters
    ∧ (modDir s i f).seqs = s.seqs ∧ (modDir s i f).owner = s.owner ∧ (modDir s i f).stamp = s.stamp
    ∧ (modDir s i f).hotq = s.hotq ∧ (modDir s i f).gather = s.gather ∧ (modDir s i f).dma = s.dma
    ∧ (modDir s i f).peers = s.peers ∧ (modDir s i f).spore = s.spore ∧ (modDir s i f).tx = s.tx
    ∧ (modDir s i f).txWait = s.txWait ∧ (modDir s i f).txGen = s.txGen ∧ (modDir s i f).rx = s.rx
    ∧ (modDir s i f).rxWait = s.rxWait ∧ (modDir s i f).floors = s.floors ∧ (modDir s i f).readPend = s.readPend
    ∧ (modDir s i f).serving = s.serving ∧ (modDir s i f).nextServe = s.nextServe
    ∧ (modDir s i f).rowHolds = s.rowHolds ∧ (modDir s i f).slots = s.slots ∧ (modDir s i f).provWait = s.provWait
    ∧ (modDir s i f).sec = s.sec ∧ (modDir s i f).st = s.st ∧ (modDir s i f).fw = s.fw
    ∧ (modDir s i f).sensor = s.sensor ∧ (modDir s i f).power = s.power ∧ (modDir s i f).beatTick = s.beatTick
    ∧ (modDir s i f).beatFrom = s.beatFrom ∧ (modDir s i f).paceShort = s.paceShort ∧ (modDir s i f).tdc = s.tdc
    ∧ (modDir s i f).tele = s.tele ∧ (modDir s i f).teleWrap = s.teleWrap ∧ (modDir s i f).portErr = s.portErr
    ∧ (modDir s i f).tbl = s.tbl := by
  repeat' constructor

/-- What `modRun` leaves alone. -/
@[simp] theorem modRun_frame (s : State) (ch : ChanId) (f : MoverRun → MoverRun) :
    (modRun s ch f).pending = s.pending ∧ (modRun s ch f).eng = s.eng ∧ (modRun s ch f).inReset = s.inReset
    ∧ (modRun s ch f).tick = s.tick ∧ (modRun s ch f).pins = s.pins ∧ (modRun s ch f).fuse = s.fuse
    ∧ (modRun s ch f).dm = s.dm ∧ (modRun s ch f).heldMap = s.heldMap ∧ (modRun s ch f).quiesce = s.quiesce
    ∧ (modRun s ch f).latches = s.latches ∧ (modRun s ch f).setup = s.setup ∧ (modRun s ch f).chip = s.chip
    ∧ (modRun s ch f).host = s.host ∧ (modRun s ch f).memWait = s.memWait ∧ (modRun s ch f).memOut = s.memOut
    ∧ (modRun s ch f).got = s.got ∧ (modRun s ch f).nextTag = s.nextTag ∧ (modRun s ch f).dmaLast = s.dmaLast
    ∧ (modRun s ch f).moverLast = s.moverLast ∧ (modRun s ch f).hostOut = s.hostOut
    ∧ (modRun s ch f).nextHost = s.nextHost ∧ (modRun s ch f).outbox = s.outbox ∧ (modRun s ch f).fresh = s.fresh
    ∧ (modRun s ch f).ctxs = s.ctxs ∧ (modRun s ch f).sched = s.sched ∧ (modRun s ch f).tiles = s.tiles
    ∧ (modRun s ch f).ready = s.ready ∧ (modRun s ch f).frames = s.frames ∧ (modRun s ch f).banks = s.banks
    ∧ (modRun s ch f).slices = s.slices ∧ (modRun s ch f).queues = s.queues ∧ (modRun s ch f).coreFail = s.coreFail
    ∧ (modRun s ch f).feedLast = s.feedLast ∧ (modRun s ch f).drainLast = s.drainLast
    ∧ (modRun s ch f).coreTimeout = s.coreTimeout
    ∧ (modRun s ch f).lanes = s.lanes ∧ (modRun s ch f).rxPast = s.rxPast
    ∧ (modRun s ch f).nextUpdate = s.nextUpdate ∧ (modRun s ch f).sporeWriters = s.sporeWriters
    ∧ (modRun s ch f).seqs = s.seqs ∧ (modRun s ch f).owner = s.owner ∧ (modRun s ch f).dir = s.dir
    ∧ (modRun s ch f).stamp = s.stamp ∧ (modRun s ch f).hotq = s.hotq ∧ (modRun s ch f).dma = s.dma
    ∧ (modRun s ch f).peers = s.peers ∧ (modRun s ch f).spore = s.spore ∧ (modRun s ch f).tx = s.tx
    ∧ (modRun s ch f).txWait = s.txWait ∧ (modRun s ch f).txGen = s.txGen ∧ (modRun s ch f).rx = s.rx
    ∧ (modRun s ch f).rxWait = s.rxWait ∧ (modRun s ch f).floors = s.floors ∧ (modRun s ch f).readPend = s.readPend
    ∧ (modRun s ch f).serving = s.serving ∧ (modRun s ch f).nextServe = s.nextServe
    ∧ (modRun s ch f).rowHolds = s.rowHolds ∧ (modRun s ch f).slots = s.slots
    ∧ (modRun s ch f).provWait = s.provWait ∧ (modRun s ch f).sec = s.sec ∧ (modRun s ch f).st = s.st
    ∧ (modRun s ch f).fw = s.fw ∧ (modRun s ch f).sensor = s.sensor ∧ (modRun s ch f).power = s.power
    ∧ (modRun s ch f).beatTick = s.beatTick ∧ (modRun s ch f).beatFrom = s.beatFrom
    ∧ (modRun s ch f).paceShort = s.paceShort ∧ (modRun s ch f).tdc = s.tdc ∧ (modRun s ch f).tele = s.tele
    ∧ (modRun s ch f).teleWrap = s.teleWrap ∧ (modRun s ch f).portErr = s.portErr ∧ (modRun s ch f).tbl = s.tbl := by
  repeat' constructor

/-- What `modDma` leaves alone. -/
@[simp] theorem modDma_frame (s : State) (ch : ChanId) (f : DmaChan → DmaChan) :
    (modDma s ch f).pending = s.pending ∧ (modDma s ch f).eng = s.eng ∧ (modDma s ch f).inReset = s.inReset
    ∧ (modDma s ch f).tick = s.tick ∧ (modDma s ch f).pins = s.pins ∧ (modDma s ch f).fuse = s.fuse
    ∧ (modDma s ch f).dm = s.dm ∧ (modDma s ch f).heldMap = s.heldMap ∧ (modDma s ch f).quiesce = s.quiesce
    ∧ (modDma s ch f).latches = s.latches ∧ (modDma s ch f).setup = s.setup ∧ (modDma s ch f).chip = s.chip
    ∧ (modDma s ch f).host = s.host ∧ (modDma s ch f).memWait = s.memWait ∧ (modDma s ch f).memOut = s.memOut
    ∧ (modDma s ch f).got = s.got ∧ (modDma s ch f).nextTag = s.nextTag ∧ (modDma s ch f).dmaLast = s.dmaLast
    ∧ (modDma s ch f).moverLast = s.moverLast ∧ (modDma s ch f).hostOut = s.hostOut
    ∧ (modDma s ch f).nextHost = s.nextHost ∧ (modDma s ch f).outbox = s.outbox ∧ (modDma s ch f).fresh = s.fresh
    ∧ (modDma s ch f).ctxs = s.ctxs ∧ (modDma s ch f).sched = s.sched ∧ (modDma s ch f).tiles = s.tiles
    ∧ (modDma s ch f).ready = s.ready ∧ (modDma s ch f).frames = s.frames ∧ (modDma s ch f).banks = s.banks
    ∧ (modDma s ch f).slices = s.slices ∧ (modDma s ch f).queues = s.queues ∧ (modDma s ch f).coreFail = s.coreFail
    ∧ (modDma s ch f).feedLast = s.feedLast ∧ (modDma s ch f).drainLast = s.drainLast
    ∧ (modDma s ch f).coreTimeout = s.coreTimeout
    ∧ (modDma s ch f).lanes = s.lanes ∧ (modDma s ch f).rxPast = s.rxPast
    ∧ (modDma s ch f).nextUpdate = s.nextUpdate ∧ (modDma s ch f).sporeWriters = s.sporeWriters
    ∧ (modDma s ch f).seqs = s.seqs ∧ (modDma s ch f).owner = s.owner ∧ (modDma s ch f).dir = s.dir
    ∧ (modDma s ch f).stamp = s.stamp ∧ (modDma s ch f).hotq = s.hotq ∧ (modDma s ch f).gather = s.gather
    ∧ (modDma s ch f).peers = s.peers ∧ (modDma s ch f).spore = s.spore ∧ (modDma s ch f).tx = s.tx
    ∧ (modDma s ch f).txWait = s.txWait ∧ (modDma s ch f).txGen = s.txGen ∧ (modDma s ch f).rx = s.rx
    ∧ (modDma s ch f).rxWait = s.rxWait ∧ (modDma s ch f).floors = s.floors ∧ (modDma s ch f).readPend = s.readPend
    ∧ (modDma s ch f).serving = s.serving ∧ (modDma s ch f).nextServe = s.nextServe
    ∧ (modDma s ch f).rowHolds = s.rowHolds ∧ (modDma s ch f).slots = s.slots
    ∧ (modDma s ch f).provWait = s.provWait ∧ (modDma s ch f).sec = s.sec ∧ (modDma s ch f).st = s.st
    ∧ (modDma s ch f).fw = s.fw ∧ (modDma s ch f).sensor = s.sensor ∧ (modDma s ch f).power = s.power
    ∧ (modDma s ch f).beatTick = s.beatTick ∧ (modDma s ch f).beatFrom = s.beatFrom
    ∧ (modDma s ch f).paceShort = s.paceShort ∧ (modDma s ch f).tdc = s.tdc ∧ (modDma s ch f).tele = s.tele
    ∧ (modDma s ch f).teleWrap = s.teleWrap ∧ (modDma s ch f).portErr = s.portErr ∧ (modDma s ch f).tbl = s.tbl := by
  repeat' constructor

/-- What `teleEng` leaves alone. -/
@[simp] theorem teleEng_frame (s : State) (i k : Nat) :
    (teleEng s i k).pending = s.pending ∧ (teleEng s i k).eng = s.eng ∧ (teleEng s i k).inReset = s.inReset
    ∧ (teleEng s i k).tick = s.tick ∧ (teleEng s i k).pins = s.pins ∧ (teleEng s i k).fuse = s.fuse
    ∧ (teleEng s i k).dm = s.dm ∧ (teleEng s i k).heldMap = s.heldMap ∧ (teleEng s i k).quiesce = s.quiesce
    ∧ (teleEng s i k).latches = s.latches ∧ (teleEng s i k).setup = s.setup ∧ (teleEng s i k).chip = s.chip
    ∧ (teleEng s i k).host = s.host ∧ (teleEng s i k).memWait = s.memWait ∧ (teleEng s i k).memOut = s.memOut
    ∧ (teleEng s i k).got = s.got ∧ (teleEng s i k).nextTag = s.nextTag ∧ (teleEng s i k).dmaLast = s.dmaLast
    ∧ (teleEng s i k).moverLast = s.moverLast ∧ (teleEng s i k).hostOut = s.hostOut
    ∧ (teleEng s i k).nextHost = s.nextHost ∧ (teleEng s i k).outbox = s.outbox ∧ (teleEng s i k).fresh = s.fresh
    ∧ (teleEng s i k).ctxs = s.ctxs ∧ (teleEng s i k).sched = s.sched ∧ (teleEng s i k).tiles = s.tiles
    ∧ (teleEng s i k).ready = s.ready ∧ (teleEng s i k).frames = s.frames ∧ (teleEng s i k).banks = s.banks
    ∧ (teleEng s i k).slices = s.slices ∧ (teleEng s i k).queues = s.queues ∧ (teleEng s i k).coreFail = s.coreFail
    ∧ (teleEng s i k).feedLast = s.feedLast ∧ (teleEng s i k).drainLast = s.drainLast
    ∧ (teleEng s i k).coreTimeout = s.coreTimeout
    ∧ (teleEng s i k).lanes = s.lanes ∧ (teleEng s i k).rxPast = s.rxPast
    ∧ (teleEng s i k).nextUpdate = s.nextUpdate ∧ (teleEng s i k).sporeWriters = s.sporeWriters
    ∧ (teleEng s i k).seqs = s.seqs ∧ (teleEng s i k).owner = s.owner ∧ (teleEng s i k).dir = s.dir
    ∧ (teleEng s i k).stamp = s.stamp ∧ (teleEng s i k).hotq = s.hotq ∧ (teleEng s i k).gather = s.gather
    ∧ (teleEng s i k).dma = s.dma ∧ (teleEng s i k).peers = s.peers ∧ (teleEng s i k).spore = s.spore
    ∧ (teleEng s i k).tx = s.tx ∧ (teleEng s i k).txWait = s.txWait ∧ (teleEng s i k).txGen = s.txGen
    ∧ (teleEng s i k).rx = s.rx ∧ (teleEng s i k).rxWait = s.rxWait ∧ (teleEng s i k).floors = s.floors
    ∧ (teleEng s i k).readPend = s.readPend ∧ (teleEng s i k).serving = s.serving
    ∧ (teleEng s i k).nextServe = s.nextServe ∧ (teleEng s i k).rowHolds = s.rowHolds
    ∧ (teleEng s i k).slots = s.slots ∧ (teleEng s i k).provWait = s.provWait ∧ (teleEng s i k).sec = s.sec
    ∧ (teleEng s i k).st = s.st ∧ (teleEng s i k).fw = s.fw ∧ (teleEng s i k).sensor = s.sensor
    ∧ (teleEng s i k).power = s.power ∧ (teleEng s i k).beatTick = s.beatTick
    ∧ (teleEng s i k).beatFrom = s.beatFrom ∧ (teleEng s i k).paceShort = s.paceShort ∧ (teleEng s i k).tdc = s.tdc
    ∧ (teleEng s i k).portErr = s.portErr ∧ (teleEng s i k).tbl = s.tbl := by
  repeat' constructor

/-- What `teleCtx` leaves alone. -/
@[simp] theorem teleCtx_frame (s : State) (c : CtxId) (i k : Nat) :
    (teleCtx s c i k).pending = s.pending ∧ (teleCtx s c i k).eng = s.eng ∧ (teleCtx s c i k).inReset = s.inReset
    ∧ (teleCtx s c i k).tick = s.tick ∧ (teleCtx s c i k).pins = s.pins ∧ (teleCtx s c i k).fuse = s.fuse
    ∧ (teleCtx s c i k).dm = s.dm ∧ (teleCtx s c i k).heldMap = s.heldMap ∧ (teleCtx s c i k).quiesce = s.quiesce
    ∧ (teleCtx s c i k).latches = s.latches ∧ (teleCtx s c i k).setup = s.setup ∧ (teleCtx s c i k).chip = s.chip
    ∧ (teleCtx s c i k).host = s.host ∧ (teleCtx s c i k).memWait = s.memWait ∧ (teleCtx s c i k).memOut = s.memOut
    ∧ (teleCtx s c i k).got = s.got ∧ (teleCtx s c i k).nextTag = s.nextTag ∧ (teleCtx s c i k).dmaLast = s.dmaLast
    ∧ (teleCtx s c i k).moverLast = s.moverLast ∧ (teleCtx s c i k).hostOut = s.hostOut
    ∧ (teleCtx s c i k).nextHost = s.nextHost ∧ (teleCtx s c i k).outbox = s.outbox
    ∧ (teleCtx s c i k).fresh = s.fresh ∧ (teleCtx s c i k).sched = s.sched ∧ (teleCtx s c i k).tiles = s.tiles
    ∧ (teleCtx s c i k).ready = s.ready ∧ (teleCtx s c i k).frames = s.frames ∧ (teleCtx s c i k).banks = s.banks
    ∧ (teleCtx s c i k).slices = s.slices ∧ (teleCtx s c i k).queues = s.queues
    ∧ (teleCtx s c i k).coreFail = s.coreFail ∧ (teleCtx s c i k).feedLast = s.feedLast
    ∧ (teleCtx s c i k).drainLast = s.drainLast ∧ (teleCtx s c i k).coreTimeout = s.coreTimeout
    ∧ (teleCtx s c i k).lanes = s.lanes ∧ (teleCtx s c i k).rxPast = s.rxPast
    ∧ (teleCtx s c i k).nextUpdate = s.nextUpdate
    ∧ (teleCtx s c i k).sporeWriters = s.sporeWriters ∧ (teleCtx s c i k).seqs = s.seqs
    ∧ (teleCtx s c i k).owner = s.owner ∧ (teleCtx s c i k).dir = s.dir ∧ (teleCtx s c i k).stamp = s.stamp
    ∧ (teleCtx s c i k).hotq = s.hotq ∧ (teleCtx s c i k).gather = s.gather ∧ (teleCtx s c i k).dma = s.dma
    ∧ (teleCtx s c i k).peers = s.peers ∧ (teleCtx s c i k).spore = s.spore ∧ (teleCtx s c i k).tx = s.tx
    ∧ (teleCtx s c i k).txWait = s.txWait ∧ (teleCtx s c i k).txGen = s.txGen ∧ (teleCtx s c i k).rx = s.rx
    ∧ (teleCtx s c i k).rxWait = s.rxWait ∧ (teleCtx s c i k).floors = s.floors
    ∧ (teleCtx s c i k).readPend = s.readPend ∧ (teleCtx s c i k).serving = s.serving
    ∧ (teleCtx s c i k).nextServe = s.nextServe ∧ (teleCtx s c i k).rowHolds = s.rowHolds
    ∧ (teleCtx s c i k).slots = s.slots ∧ (teleCtx s c i k).provWait = s.provWait ∧ (teleCtx s c i k).sec = s.sec
    ∧ (teleCtx s c i k).st = s.st ∧ (teleCtx s c i k).fw = s.fw ∧ (teleCtx s c i k).sensor = s.sensor
    ∧ (teleCtx s c i k).power = s.power ∧ (teleCtx s c i k).beatTick = s.beatTick
    ∧ (teleCtx s c i k).beatFrom = s.beatFrom ∧ (teleCtx s c i k).paceShort = s.paceShort
    ∧ (teleCtx s c i k).tdc = s.tdc ∧ (teleCtx s c i k).tele = s.tele ∧ (teleCtx s c i k).teleWrap = s.teleWrap
    ∧ (teleCtx s c i k).portErr = s.portErr ∧ (teleCtx s c i k).tbl = s.tbl := by
  repeat' constructor

/-- What `acctAdd` leaves alone. -/
@[simp] theorem acctAdd_frame (s : State) (c : CtxId) (i k : Nat) :
    (acctAdd s c i k).pending = s.pending ∧ (acctAdd s c i k).eng = s.eng ∧ (acctAdd s c i k).inReset = s.inReset
    ∧ (acctAdd s c i k).tick = s.tick ∧ (acctAdd s c i k).pins = s.pins ∧ (acctAdd s c i k).fuse = s.fuse
    ∧ (acctAdd s c i k).dm = s.dm ∧ (acctAdd s c i k).heldMap = s.heldMap ∧ (acctAdd s c i k).quiesce = s.quiesce
    ∧ (acctAdd s c i k).latches = s.latches ∧ (acctAdd s c i k).setup = s.setup ∧ (acctAdd s c i k).chip = s.chip
    ∧ (acctAdd s c i k).host = s.host ∧ (acctAdd s c i k).memWait = s.memWait ∧ (acctAdd s c i k).memOut = s.memOut
    ∧ (acctAdd s c i k).got = s.got ∧ (acctAdd s c i k).nextTag = s.nextTag ∧ (acctAdd s c i k).dmaLast = s.dmaLast
    ∧ (acctAdd s c i k).moverLast = s.moverLast ∧ (acctAdd s c i k).hostOut = s.hostOut
    ∧ (acctAdd s c i k).nextHost = s.nextHost ∧ (acctAdd s c i k).outbox = s.outbox
    ∧ (acctAdd s c i k).fresh = s.fresh ∧ (acctAdd s c i k).sched = s.sched ∧ (acctAdd s c i k).tiles = s.tiles
    ∧ (acctAdd s c i k).ready = s.ready ∧ (acctAdd s c i k).frames = s.frames ∧ (acctAdd s c i k).banks = s.banks
    ∧ (acctAdd s c i k).slices = s.slices ∧ (acctAdd s c i k).queues = s.queues
    ∧ (acctAdd s c i k).coreFail = s.coreFail ∧ (acctAdd s c i k).feedLast = s.feedLast
    ∧ (acctAdd s c i k).drainLast = s.drainLast ∧ (acctAdd s c i k).coreTimeout = s.coreTimeout
    ∧ (acctAdd s c i k).lanes = s.lanes ∧ (acctAdd s c i k).rxPast = s.rxPast
    ∧ (acctAdd s c i k).nextUpdate = s.nextUpdate
    ∧ (acctAdd s c i k).sporeWriters = s.sporeWriters ∧ (acctAdd s c i k).seqs = s.seqs
    ∧ (acctAdd s c i k).owner = s.owner ∧ (acctAdd s c i k).dir = s.dir ∧ (acctAdd s c i k).stamp = s.stamp
    ∧ (acctAdd s c i k).hotq = s.hotq ∧ (acctAdd s c i k).gather = s.gather ∧ (acctAdd s c i k).dma = s.dma
    ∧ (acctAdd s c i k).peers = s.peers ∧ (acctAdd s c i k).spore = s.spore ∧ (acctAdd s c i k).tx = s.tx
    ∧ (acctAdd s c i k).txWait = s.txWait ∧ (acctAdd s c i k).txGen = s.txGen ∧ (acctAdd s c i k).rx = s.rx
    ∧ (acctAdd s c i k).rxWait = s.rxWait ∧ (acctAdd s c i k).floors = s.floors
    ∧ (acctAdd s c i k).readPend = s.readPend ∧ (acctAdd s c i k).serving = s.serving
    ∧ (acctAdd s c i k).nextServe = s.nextServe ∧ (acctAdd s c i k).rowHolds = s.rowHolds
    ∧ (acctAdd s c i k).slots = s.slots ∧ (acctAdd s c i k).provWait = s.provWait ∧ (acctAdd s c i k).sec = s.sec
    ∧ (acctAdd s c i k).st = s.st ∧ (acctAdd s c i k).fw = s.fw ∧ (acctAdd s c i k).sensor = s.sensor
    ∧ (acctAdd s c i k).power = s.power ∧ (acctAdd s c i k).beatTick = s.beatTick
    ∧ (acctAdd s c i k).beatFrom = s.beatFrom ∧ (acctAdd s c i k).paceShort = s.paceShort
    ∧ (acctAdd s c i k).tdc = s.tdc ∧ (acctAdd s c i k).tele = s.tele ∧ (acctAdd s c i k).teleWrap = s.teleWrap
    ∧ (acctAdd s c i k).portErr = s.portErr ∧ (acctAdd s c i k).tbl = s.tbl := by
  repeat' constructor

/-- What `convCount` leaves alone. -/
@[simp] theorem convCount_frame (s : State) (c : CtxId) (n : ConvCount) :
    (convCount s c n).pending = s.pending ∧ (convCount s c n).eng = s.eng ∧ (convCount s c n).inReset = s.inReset
    ∧ (convCount s c n).tick = s.tick ∧ (convCount s c n).pins = s.pins ∧ (convCount s c n).fuse = s.fuse
    ∧ (convCount s c n).dm = s.dm ∧ (convCount s c n).heldMap = s.heldMap ∧ (convCount s c n).quiesce = s.quiesce
    ∧ (convCount s c n).latches = s.latches ∧ (convCount s c n).setup = s.setup ∧ (convCount s c n).chip = s.chip
    ∧ (convCount s c n).host = s.host ∧ (convCount s c n).memWait = s.memWait ∧ (convCount s c n).memOut = s.memOut
    ∧ (convCount s c n).got = s.got ∧ (convCount s c n).nextTag = s.nextTag ∧ (convCount s c n).dmaLast = s.dmaLast
    ∧ (convCount s c n).moverLast = s.moverLast ∧ (convCount s c n).hostOut = s.hostOut
    ∧ (convCount s c n).nextHost = s.nextHost ∧ (convCount s c n).outbox = s.outbox
    ∧ (convCount s c n).fresh = s.fresh ∧ (convCount s c n).sched = s.sched ∧ (convCount s c n).tiles = s.tiles
    ∧ (convCount s c n).ready = s.ready ∧ (convCount s c n).frames = s.frames ∧ (convCount s c n).banks = s.banks
    ∧ (convCount s c n).slices = s.slices ∧ (convCount s c n).queues = s.queues
    ∧ (convCount s c n).coreFail = s.coreFail ∧ (convCount s c n).feedLast = s.feedLast
    ∧ (convCount s c n).drainLast = s.drainLast ∧ (convCount s c n).coreTimeout = s.coreTimeout
    ∧ (convCount s c n).lanes = s.lanes ∧ (convCount s c n).rxPast = s.rxPast
    ∧ (convCount s c n).nextUpdate = s.nextUpdate
    ∧ (convCount s c n).sporeWriters = s.sporeWriters ∧ (convCount s c n).seqs = s.seqs
    ∧ (convCount s c n).owner = s.owner ∧ (convCount s c n).dir = s.dir ∧ (convCount s c n).stamp = s.stamp
    ∧ (convCount s c n).hotq = s.hotq ∧ (convCount s c n).gather = s.gather ∧ (convCount s c n).dma = s.dma
    ∧ (convCount s c n).peers = s.peers ∧ (convCount s c n).spore = s.spore ∧ (convCount s c n).tx = s.tx
    ∧ (convCount s c n).txWait = s.txWait ∧ (convCount s c n).txGen = s.txGen ∧ (convCount s c n).rx = s.rx
    ∧ (convCount s c n).rxWait = s.rxWait ∧ (convCount s c n).floors = s.floors
    ∧ (convCount s c n).readPend = s.readPend ∧ (convCount s c n).serving = s.serving
    ∧ (convCount s c n).nextServe = s.nextServe ∧ (convCount s c n).rowHolds = s.rowHolds
    ∧ (convCount s c n).slots = s.slots ∧ (convCount s c n).provWait = s.provWait ∧ (convCount s c n).sec = s.sec
    ∧ (convCount s c n).st = s.st ∧ (convCount s c n).fw = s.fw ∧ (convCount s c n).sensor = s.sensor
    ∧ (convCount s c n).power = s.power ∧ (convCount s c n).beatTick = s.beatTick
    ∧ (convCount s c n).beatFrom = s.beatFrom ∧ (convCount s c n).paceShort = s.paceShort
    ∧ (convCount s c n).tdc = s.tdc ∧ (convCount s c n).tele = s.tele ∧ (convCount s c n).teleWrap = s.teleWrap
    ∧ (convCount s c n).portErr = s.portErr ∧ (convCount s c n).tbl = s.tbl := by
  repeat' constructor

/-- What `memCharge` leaves alone. -/
@[simp] theorem memCharge_frame (s : State) (c : CtxId) (n : Nat) :
    (memCharge s c n).pending = s.pending ∧ (memCharge s c n).eng = s.eng ∧ (memCharge s c n).inReset = s.inReset
    ∧ (memCharge s c n).tick = s.tick ∧ (memCharge s c n).pins = s.pins ∧ (memCharge s c n).fuse = s.fuse
    ∧ (memCharge s c n).dm = s.dm ∧ (memCharge s c n).heldMap = s.heldMap ∧ (memCharge s c n).quiesce = s.quiesce
    ∧ (memCharge s c n).latches = s.latches ∧ (memCharge s c n).setup = s.setup ∧ (memCharge s c n).chip = s.chip
    ∧ (memCharge s c n).host = s.host ∧ (memCharge s c n).memWait = s.memWait ∧ (memCharge s c n).memOut = s.memOut
    ∧ (memCharge s c n).got = s.got ∧ (memCharge s c n).nextTag = s.nextTag ∧ (memCharge s c n).dmaLast = s.dmaLast
    ∧ (memCharge s c n).moverLast = s.moverLast ∧ (memCharge s c n).hostOut = s.hostOut
    ∧ (memCharge s c n).nextHost = s.nextHost ∧ (memCharge s c n).outbox = s.outbox
    ∧ (memCharge s c n).fresh = s.fresh ∧ (memCharge s c n).sched = s.sched ∧ (memCharge s c n).tiles = s.tiles
    ∧ (memCharge s c n).ready = s.ready ∧ (memCharge s c n).frames = s.frames ∧ (memCharge s c n).banks = s.banks
    ∧ (memCharge s c n).slices = s.slices ∧ (memCharge s c n).queues = s.queues
    ∧ (memCharge s c n).coreFail = s.coreFail ∧ (memCharge s c n).feedLast = s.feedLast
    ∧ (memCharge s c n).drainLast = s.drainLast ∧ (memCharge s c n).coreTimeout = s.coreTimeout
    ∧ (memCharge s c n).lanes = s.lanes ∧ (memCharge s c n).rxPast = s.rxPast
    ∧ (memCharge s c n).nextUpdate = s.nextUpdate
    ∧ (memCharge s c n).sporeWriters = s.sporeWriters ∧ (memCharge s c n).seqs = s.seqs
    ∧ (memCharge s c n).owner = s.owner ∧ (memCharge s c n).dir = s.dir ∧ (memCharge s c n).stamp = s.stamp
    ∧ (memCharge s c n).hotq = s.hotq ∧ (memCharge s c n).gather = s.gather ∧ (memCharge s c n).dma = s.dma
    ∧ (memCharge s c n).peers = s.peers ∧ (memCharge s c n).spore = s.spore ∧ (memCharge s c n).tx = s.tx
    ∧ (memCharge s c n).txWait = s.txWait ∧ (memCharge s c n).txGen = s.txGen ∧ (memCharge s c n).rx = s.rx
    ∧ (memCharge s c n).rxWait = s.rxWait ∧ (memCharge s c n).floors = s.floors
    ∧ (memCharge s c n).readPend = s.readPend ∧ (memCharge s c n).serving = s.serving
    ∧ (memCharge s c n).nextServe = s.nextServe ∧ (memCharge s c n).rowHolds = s.rowHolds
    ∧ (memCharge s c n).slots = s.slots ∧ (memCharge s c n).provWait = s.provWait ∧ (memCharge s c n).sec = s.sec
    ∧ (memCharge s c n).st = s.st ∧ (memCharge s c n).fw = s.fw ∧ (memCharge s c n).sensor = s.sensor
    ∧ (memCharge s c n).power = s.power ∧ (memCharge s c n).beatTick = s.beatTick
    ∧ (memCharge s c n).beatFrom = s.beatFrom ∧ (memCharge s c n).paceShort = s.paceShort
    ∧ (memCharge s c n).tdc = s.tdc ∧ (memCharge s c n).tele = s.tele ∧ (memCharge s c n).teleWrap = s.teleWrap
    ∧ (memCharge s c n).portErr = s.portErr ∧ (memCharge s c n).tbl = s.tbl := by
  repeat' constructor

/-- What `memErr` leaves alone. -/
@[simp] theorem memErr_frame (s : State) :
    (memErr s).pending = s.pending ∧ (memErr s).eng = s.eng ∧ (memErr s).inReset = s.inReset
    ∧ (memErr s).tick = s.tick ∧ (memErr s).pins = s.pins ∧ (memErr s).fuse = s.fuse ∧ (memErr s).dm = s.dm
    ∧ (memErr s).heldMap = s.heldMap ∧ (memErr s).quiesce = s.quiesce ∧ (memErr s).latches = s.latches
    ∧ (memErr s).setup = s.setup ∧ (memErr s).chip = s.chip ∧ (memErr s).host = s.host
    ∧ (memErr s).memWait = s.memWait ∧ (memErr s).memOut = s.memOut ∧ (memErr s).got = s.got
    ∧ (memErr s).nextTag = s.nextTag ∧ (memErr s).dmaLast = s.dmaLast ∧ (memErr s).moverLast = s.moverLast
    ∧ (memErr s).hostOut = s.hostOut ∧ (memErr s).nextHost = s.nextHost ∧ (memErr s).outbox = s.outbox
    ∧ (memErr s).fresh = s.fresh ∧ (memErr s).ctxs = s.ctxs ∧ (memErr s).sched = s.sched
    ∧ (memErr s).tiles = s.tiles ∧ (memErr s).ready = s.ready ∧ (memErr s).frames = s.frames
    ∧ (memErr s).banks = s.banks ∧ (memErr s).slices = s.slices ∧ (memErr s).queues = s.queues
    ∧ (memErr s).coreFail = s.coreFail ∧ (memErr s).feedLast = s.feedLast ∧ (memErr s).drainLast = s.drainLast
    ∧ (memErr s).coreTimeout = s.coreTimeout
    ∧ (memErr s).lanes = s.lanes ∧ (memErr s).rxPast = s.rxPast
    ∧ (memErr s).nextUpdate = s.nextUpdate ∧ (memErr s).sporeWriters = s.sporeWriters ∧ (memErr s).seqs = s.seqs
    ∧ (memErr s).owner = s.owner ∧ (memErr s).dir = s.dir ∧ (memErr s).stamp = s.stamp ∧ (memErr s).hotq = s.hotq
    ∧ (memErr s).gather = s.gather ∧ (memErr s).dma = s.dma ∧ (memErr s).peers = s.peers
    ∧ (memErr s).spore = s.spore ∧ (memErr s).tx = s.tx ∧ (memErr s).txWait = s.txWait ∧ (memErr s).txGen = s.txGen
    ∧ (memErr s).rx = s.rx ∧ (memErr s).rxWait = s.rxWait ∧ (memErr s).floors = s.floors
    ∧ (memErr s).readPend = s.readPend ∧ (memErr s).serving = s.serving ∧ (memErr s).nextServe = s.nextServe
    ∧ (memErr s).rowHolds = s.rowHolds ∧ (memErr s).slots = s.slots ∧ (memErr s).provWait = s.provWait
    ∧ (memErr s).sec = s.sec ∧ (memErr s).st = s.st ∧ (memErr s).fw = s.fw ∧ (memErr s).sensor = s.sensor
    ∧ (memErr s).power = s.power ∧ (memErr s).beatTick = s.beatTick ∧ (memErr s).beatFrom = s.beatFrom
    ∧ (memErr s).paceShort = s.paceShort ∧ (memErr s).tdc = s.tdc ∧ (memErr s).tele = s.tele
    ∧ (memErr s).teleWrap = s.teleWrap ∧ (memErr s).tbl = s.tbl := by
  repeat' constructor

/-- What `hostIssue` leaves alone. -/
@[simp] theorem hostIssue_frame (s : State) (o : HostOwner) (w : Bool) (a n : Nat) (d : List Byte) :
    (hostIssue s o w a n d).pending = s.pending ∧ (hostIssue s o w a n d).eng = s.eng
    ∧ (hostIssue s o w a n d).inReset = s.inReset ∧ (hostIssue s o w a n d).tick = s.tick
    ∧ (hostIssue s o w a n d).pins = s.pins ∧ (hostIssue s o w a n d).fuse = s.fuse
    ∧ (hostIssue s o w a n d).dm = s.dm ∧ (hostIssue s o w a n d).heldMap = s.heldMap
    ∧ (hostIssue s o w a n d).quiesce = s.quiesce ∧ (hostIssue s o w a n d).latches = s.latches
    ∧ (hostIssue s o w a n d).setup = s.setup ∧ (hostIssue s o w a n d).chip = s.chip
    ∧ (hostIssue s o w a n d).host = s.host ∧ (hostIssue s o w a n d).memWait = s.memWait
    ∧ (hostIssue s o w a n d).memOut = s.memOut ∧ (hostIssue s o w a n d).got = s.got
    ∧ (hostIssue s o w a n d).nextTag = s.nextTag ∧ (hostIssue s o w a n d).dmaLast = s.dmaLast
    ∧ (hostIssue s o w a n d).moverLast = s.moverLast ∧ (hostIssue s o w a n d).outbox = s.outbox
    ∧ (hostIssue s o w a n d).fresh = s.fresh ∧ (hostIssue s o w a n d).ctxs = s.ctxs
    ∧ (hostIssue s o w a n d).sched = s.sched ∧ (hostIssue s o w a n d).tiles = s.tiles
    ∧ (hostIssue s o w a n d).ready = s.ready ∧ (hostIssue s o w a n d).frames = s.frames
    ∧ (hostIssue s o w a n d).banks = s.banks ∧ (hostIssue s o w a n d).slices = s.slices
    ∧ (hostIssue s o w a n d).queues = s.queues ∧ (hostIssue s o w a n d).coreFail = s.coreFail
    ∧ (hostIssue s o w a n d).feedLast = s.feedLast ∧ (hostIssue s o w a n d).drainLast = s.drainLast
    ∧ (hostIssue s o w a n d).coreTimeout = s.coreTimeout
    ∧ (hostIssue s o w a n d).lanes = s.lanes ∧ (hostIssue s o w a n d).rxPast = s.rxPast
    ∧ (hostIssue s o w a n d).nextUpdate = s.nextUpdate ∧ (hostIssue s o w a n d).sporeWriters = s.sporeWriters
    ∧ (hostIssue s o w a n d).seqs = s.seqs ∧ (hostIssue s o w a n d).owner = s.owner
    ∧ (hostIssue s o w a n d).dir = s.dir ∧ (hostIssue s o w a n d).stamp = s.stamp
    ∧ (hostIssue s o w a n d).hotq = s.hotq ∧ (hostIssue s o w a n d).gather = s.gather
    ∧ (hostIssue s o w a n d).dma = s.dma ∧ (hostIssue s o w a n d).peers = s.peers
    ∧ (hostIssue s o w a n d).spore = s.spore ∧ (hostIssue s o w a n d).tx = s.tx
    ∧ (hostIssue s o w a n d).txWait = s.txWait ∧ (hostIssue s o w a n d).txGen = s.txGen
    ∧ (hostIssue s o w a n d).rx = s.rx ∧ (hostIssue s o w a n d).rxWait = s.rxWait
    ∧ (hostIssue s o w a n d).floors = s.floors ∧ (hostIssue s o w a n d).readPend = s.readPend
    ∧ (hostIssue s o w a n d).serving = s.serving ∧ (hostIssue s o w a n d).nextServe = s.nextServe
    ∧ (hostIssue s o w a n d).rowHolds = s.rowHolds ∧ (hostIssue s o w a n d).slots = s.slots
    ∧ (hostIssue s o w a n d).provWait = s.provWait ∧ (hostIssue s o w a n d).sec = s.sec
    ∧ (hostIssue s o w a n d).st = s.st ∧ (hostIssue s o w a n d).fw = s.fw
    ∧ (hostIssue s o w a n d).sensor = s.sensor ∧ (hostIssue s o w a n d).power = s.power
    ∧ (hostIssue s o w a n d).beatTick = s.beatTick ∧ (hostIssue s o w a n d).beatFrom = s.beatFrom
    ∧ (hostIssue s o w a n d).paceShort = s.paceShort ∧ (hostIssue s o w a n d).tdc = s.tdc
    ∧ (hostIssue s o w a n d).tele = s.tele ∧ (hostIssue s o w a n d).teleWrap = s.teleWrap
    ∧ (hostIssue s o w a n d).portErr = s.portErr ∧ (hostIssue s o w a n d).tbl = s.tbl := by
  repeat' constructor

/-- What `complete` leaves alone. -/
@[simp] theorem complete_frame (s : State) (c : CtxId) (u : UnitId) (j : Job) (st v0 v1 v2 : Nat) :
    (complete s c u j st v0 v1 v2).pending = s.pending ∧ (complete s c u j st v0 v1 v2).eng = s.eng
    ∧ (complete s c u j st v0 v1 v2).inReset = s.inReset ∧ (complete s c u j st v0 v1 v2).tick = s.tick
    ∧ (complete s c u j st v0 v1 v2).pins = s.pins ∧ (complete s c u j st v0 v1 v2).fuse = s.fuse
    ∧ (complete s c u j st v0 v1 v2).dm = s.dm ∧ (complete s c u j st v0 v1 v2).heldMap = s.heldMap
    ∧ (complete s c u j st v0 v1 v2).quiesce = s.quiesce ∧ (complete s c u j st v0 v1 v2).latches = s.latches
    ∧ (complete s c u j st v0 v1 v2).setup = s.setup ∧ (complete s c u j st v0 v1 v2).chip = s.chip
    ∧ (complete s c u j st v0 v1 v2).host = s.host ∧ (complete s c u j st v0 v1 v2).memWait = s.memWait
    ∧ (complete s c u j st v0 v1 v2).memOut = s.memOut ∧ (complete s c u j st v0 v1 v2).got = s.got
    ∧ (complete s c u j st v0 v1 v2).nextTag = s.nextTag ∧ (complete s c u j st v0 v1 v2).dmaLast = s.dmaLast
    ∧ (complete s c u j st v0 v1 v2).moverLast = s.moverLast ∧ (complete s c u j st v0 v1 v2).hostOut = s.hostOut
    ∧ (complete s c u j st v0 v1 v2).nextHost = s.nextHost ∧ (complete s c u j st v0 v1 v2).outbox = s.outbox
    ∧ (complete s c u j st v0 v1 v2).fresh = s.fresh ∧ (complete s c u j st v0 v1 v2).sched = s.sched
    ∧ (complete s c u j st v0 v1 v2).tiles = s.tiles ∧ (complete s c u j st v0 v1 v2).ready = s.ready
    ∧ (complete s c u j st v0 v1 v2).frames = s.frames ∧ (complete s c u j st v0 v1 v2).banks = s.banks
    ∧ (complete s c u j st v0 v1 v2).slices = s.slices ∧ (complete s c u j st v0 v1 v2).queues = s.queues
    ∧ (complete s c u j st v0 v1 v2).coreFail = s.coreFail ∧ (complete s c u j st v0 v1 v2).feedLast = s.feedLast
    ∧ (complete s c u j st v0 v1 v2).drainLast = s.drainLast
    ∧ (complete s c u j st v0 v1 v2).coreTimeout = s.coreTimeout
    ∧ (complete s c u j st v0 v1 v2).lanes = s.lanes ∧ (complete s c u j st v0 v1 v2).rxPast = s.rxPast
    ∧ (complete s c u j st v0 v1 v2).nextUpdate = s.nextUpdate
    ∧ (complete s c u j st v0 v1 v2).sporeWriters = s.sporeWriters ∧ (complete s c u j st v0 v1 v2).seqs = s.seqs
    ∧ (complete s c u j st v0 v1 v2).owner = s.owner ∧ (complete s c u j st v0 v1 v2).dir = s.dir
    ∧ (complete s c u j st v0 v1 v2).stamp = s.stamp ∧ (complete s c u j st v0 v1 v2).hotq = s.hotq
    ∧ (complete s c u j st v0 v1 v2).gather = s.gather ∧ (complete s c u j st v0 v1 v2).dma = s.dma
    ∧ (complete s c u j st v0 v1 v2).peers = s.peers ∧ (complete s c u j st v0 v1 v2).spore = s.spore
    ∧ (complete s c u j st v0 v1 v2).tx = s.tx ∧ (complete s c u j st v0 v1 v2).txWait = s.txWait
    ∧ (complete s c u j st v0 v1 v2).txGen = s.txGen ∧ (complete s c u j st v0 v1 v2).rx = s.rx
    ∧ (complete s c u j st v0 v1 v2).rxWait = s.rxWait ∧ (complete s c u j st v0 v1 v2).floors = s.floors
    ∧ (complete s c u j st v0 v1 v2).readPend = s.readPend ∧ (complete s c u j st v0 v1 v2).serving = s.serving
    ∧ (complete s c u j st v0 v1 v2).nextServe = s.nextServe ∧ (complete s c u j st v0 v1 v2).rowHolds = s.rowHolds
    ∧ (complete s c u j st v0 v1 v2).slots = s.slots ∧ (complete s c u j st v0 v1 v2).provWait = s.provWait
    ∧ (complete s c u j st v0 v1 v2).sec = s.sec ∧ (complete s c u j st v0 v1 v2).st = s.st
    ∧ (complete s c u j st v0 v1 v2).fw = s.fw ∧ (complete s c u j st v0 v1 v2).sensor = s.sensor
    ∧ (complete s c u j st v0 v1 v2).power = s.power ∧ (complete s c u j st v0 v1 v2).beatTick = s.beatTick
    ∧ (complete s c u j st v0 v1 v2).beatFrom = s.beatFrom ∧ (complete s c u j st v0 v1 v2).paceShort = s.paceShort
    ∧ (complete s c u j st v0 v1 v2).tdc = s.tdc ∧ (complete s c u j st v0 v1 v2).tele = s.tele
    ∧ (complete s c u j st v0 v1 v2).teleWrap = s.teleWrap ∧ (complete s c u j st v0 v1 v2).portErr = s.portErr
    ∧ (complete s c u j st v0 v1 v2).tbl = s.tbl := by
  repeat' constructor

/-- What `sendFrame` leaves alone. -/
@[simp] theorem sendFrame_frame (s : State) (port : Fin 8) (chip : BitVec 16) (engine : Bool) (gen : BitVec 8) (kind : Nat)
    (seq : BitVec 32) (credits : Nat) :
    (sendFrame s port chip engine gen kind seq credits).pending = s.pending
    ∧ (sendFrame s port chip engine gen kind seq credits).eng = s.eng
    ∧ (sendFrame s port chip engine gen kind seq credits).inReset = s.inReset
    ∧ (sendFrame s port chip engine gen kind seq credits).tick = s.tick
    ∧ (sendFrame s port chip engine gen kind seq credits).pins = s.pins
    ∧ (sendFrame s port chip engine gen kind seq credits).fuse = s.fuse
    ∧ (sendFrame s port chip engine gen kind seq credits).dm = s.dm
    ∧ (sendFrame s port chip engine gen kind seq credits).heldMap = s.heldMap
    ∧ (sendFrame s port chip engine gen kind seq credits).quiesce = s.quiesce
    ∧ (sendFrame s port chip engine gen kind seq credits).latches = s.latches
    ∧ (sendFrame s port chip engine gen kind seq credits).setup = s.setup
    ∧ (sendFrame s port chip engine gen kind seq credits).chip = s.chip
    ∧ (sendFrame s port chip engine gen kind seq credits).host = s.host
    ∧ (sendFrame s port chip engine gen kind seq credits).memWait = s.memWait
    ∧ (sendFrame s port chip engine gen kind seq credits).memOut = s.memOut
    ∧ (sendFrame s port chip engine gen kind seq credits).got = s.got
    ∧ (sendFrame s port chip engine gen kind seq credits).nextTag = s.nextTag
    ∧ (sendFrame s port chip engine gen kind seq credits).hostOut = s.hostOut
    ∧ (sendFrame s port chip engine gen kind seq credits).nextHost = s.nextHost
    ∧ (sendFrame s port chip engine gen kind seq credits).fresh = s.fresh
    ∧ (sendFrame s port chip engine gen kind seq credits).ctxs = s.ctxs
    ∧ (sendFrame s port chip engine gen kind seq credits).sched = s.sched
    ∧ (sendFrame s port chip engine gen kind seq credits).tiles = s.tiles
    ∧ (sendFrame s port chip engine gen kind seq credits).ready = s.ready
    ∧ (sendFrame s port chip engine gen kind seq credits).banks = s.banks
    ∧ (sendFrame s port chip engine gen kind seq credits).slices = s.slices
    ∧ (sendFrame s port chip engine gen kind seq credits).queues = s.queues
    ∧ (sendFrame s port chip engine gen kind seq credits).coreFail = s.coreFail
    ∧ (sendFrame s port chip engine gen kind seq credits).feedLast = s.feedLast
    ∧ (sendFrame s port chip engine gen kind seq credits).coreTimeout = s.coreTimeout
    ∧ (sendFrame s port chip engine gen kind seq credits).lanes = s.lanes ∧ (sendFrame s port chip engine gen kind seq credits).rxPast = s.rxPast
    ∧ (sendFrame s port chip engine gen kind seq credits).nextUpdate = s.nextUpdate
    ∧ (sendFrame s port chip engine gen kind seq credits).sporeWriters = s.sporeWriters
    ∧ (sendFrame s port chip engine gen kind seq credits).seqs = s.seqs
    ∧ (sendFrame s port chip engine gen kind seq credits).owner = s.owner
    ∧ (sendFrame s port chip engine gen kind seq credits).dir = s.dir
    ∧ (sendFrame s port chip engine gen kind seq credits).stamp = s.stamp
    ∧ (sendFrame s port chip engine gen kind seq credits).hotq = s.hotq
    ∧ (sendFrame s port chip engine gen kind seq credits).gather = s.gather
    ∧ (sendFrame s port chip engine gen kind seq credits).dma = s.dma
    ∧ (sendFrame s port chip engine gen kind seq credits).peers = s.peers
    ∧ (sendFrame s port chip engine gen kind seq credits).spore = s.spore
    ∧ (sendFrame s port chip engine gen kind seq credits).tx = s.tx
    ∧ (sendFrame s port chip engine gen kind seq credits).txWait = s.txWait
    ∧ (sendFrame s port chip engine gen kind seq credits).txGen = s.txGen
    ∧ (sendFrame s port chip engine gen kind seq credits).rx = s.rx
    ∧ (sendFrame s port chip engine gen kind seq credits).rxWait = s.rxWait
    ∧ (sendFrame s port chip engine gen kind seq credits).floors = s.floors
    ∧ (sendFrame s port chip engine gen kind seq credits).readPend = s.readPend
    ∧ (sendFrame s port chip engine gen kind seq credits).slots = s.slots
    ∧ (sendFrame s port chip engine gen kind seq credits).provWait = s.provWait
    ∧ (sendFrame s port chip engine gen kind seq credits).sec = s.sec
    ∧ (sendFrame s port chip engine gen kind seq credits).st = s.st
    ∧ (sendFrame s port chip engine gen kind seq credits).fw = s.fw
    ∧ (sendFrame s port chip engine gen kind seq credits).sensor = s.sensor
    ∧ (sendFrame s port chip engine gen kind seq credits).power = s.power
    ∧ (sendFrame s port chip engine gen kind seq credits).beatTick = s.beatTick
    ∧ (sendFrame s port chip engine gen kind seq credits).paceShort = s.paceShort
    ∧ (sendFrame s port chip engine gen kind seq credits).tdc = s.tdc
    ∧ (sendFrame s port chip engine gen kind seq credits).tele = s.tele
    ∧ (sendFrame s port chip engine gen kind seq credits).teleWrap = s.teleWrap
    ∧ (sendFrame s port chip engine gen kind seq credits).portErr = s.portErr
    ∧ (sendFrame s port chip engine gen kind seq credits).tbl = s.tbl := by
  repeat' constructor

/-- What `modPeer` leaves alone. -/
@[simp] theorem modPeer_frame (s : State) (chip : BitVec 16) (engine : Bool) (f : Peer → Peer) :
    (modPeer s chip engine f).pending = s.pending ∧ (modPeer s chip engine f).eng = s.eng
    ∧ (modPeer s chip engine f).inReset = s.inReset ∧ (modPeer s chip engine f).tick = s.tick
    ∧ (modPeer s chip engine f).pins = s.pins ∧ (modPeer s chip engine f).fuse = s.fuse
    ∧ (modPeer s chip engine f).dm = s.dm ∧ (modPeer s chip engine f).heldMap = s.heldMap
    ∧ (modPeer s chip engine f).quiesce = s.quiesce ∧ (modPeer s chip engine f).latches = s.latches
    ∧ (modPeer s chip engine f).setup = s.setup ∧ (modPeer s chip engine f).chip = s.chip
    ∧ (modPeer s chip engine f).host = s.host ∧ (modPeer s chip engine f).memWait = s.memWait
    ∧ (modPeer s chip engine f).memOut = s.memOut ∧ (modPeer s chip engine f).got = s.got
    ∧ (modPeer s chip engine f).nextTag = s.nextTag ∧ (modPeer s chip engine f).dmaLast = s.dmaLast
    ∧ (modPeer s chip engine f).moverLast = s.moverLast ∧ (modPeer s chip engine f).hostOut = s.hostOut
    ∧ (modPeer s chip engine f).nextHost = s.nextHost ∧ (modPeer s chip engine f).outbox = s.outbox
    ∧ (modPeer s chip engine f).fresh = s.fresh ∧ (modPeer s chip engine f).ctxs = s.ctxs
    ∧ (modPeer s chip engine f).sched = s.sched ∧ (modPeer s chip engine f).tiles = s.tiles
    ∧ (modPeer s chip engine f).ready = s.ready ∧ (modPeer s chip engine f).frames = s.frames
    ∧ (modPeer s chip engine f).banks = s.banks ∧ (modPeer s chip engine f).slices = s.slices
    ∧ (modPeer s chip engine f).queues = s.queues ∧ (modPeer s chip engine f).coreFail = s.coreFail
    ∧ (modPeer s chip engine f).feedLast = s.feedLast ∧ (modPeer s chip engine f).drainLast = s.drainLast
    ∧ (modPeer s chip engine f).coreTimeout = s.coreTimeout
    ∧ (modPeer s chip engine f).lanes = s.lanes ∧ (modPeer s chip engine f).rxPast = s.rxPast
    ∧ (modPeer s chip engine f).nextUpdate = s.nextUpdate
    ∧ (modPeer s chip engine f).sporeWriters = s.sporeWriters ∧ (modPeer s chip engine f).seqs = s.seqs
    ∧ (modPeer s chip engine f).owner = s.owner ∧ (modPeer s chip engine f).dir = s.dir
    ∧ (modPeer s chip engine f).stamp = s.stamp ∧ (modPeer s chip engine f).hotq = s.hotq
    ∧ (modPeer s chip engine f).gather = s.gather ∧ (modPeer s chip engine f).dma = s.dma
    ∧ (modPeer s chip engine f).spore = s.spore ∧ (modPeer s chip engine f).tx = s.tx
    ∧ (modPeer s chip engine f).txWait = s.txWait ∧ (modPeer s chip engine f).txGen = s.txGen
    ∧ (modPeer s chip engine f).rx = s.rx ∧ (modPeer s chip engine f).rxWait = s.rxWait
    ∧ (modPeer s chip engine f).floors = s.floors ∧ (modPeer s chip engine f).readPend = s.readPend
    ∧ (modPeer s chip engine f).serving = s.serving ∧ (modPeer s chip engine f).nextServe = s.nextServe
    ∧ (modPeer s chip engine f).rowHolds = s.rowHolds ∧ (modPeer s chip engine f).slots = s.slots
    ∧ (modPeer s chip engine f).provWait = s.provWait ∧ (modPeer s chip engine f).sec = s.sec
    ∧ (modPeer s chip engine f).st = s.st ∧ (modPeer s chip engine f).fw = s.fw
    ∧ (modPeer s chip engine f).sensor = s.sensor ∧ (modPeer s chip engine f).power = s.power
    ∧ (modPeer s chip engine f).beatTick = s.beatTick ∧ (modPeer s chip engine f).beatFrom = s.beatFrom
    ∧ (modPeer s chip engine f).paceShort = s.paceShort ∧ (modPeer s chip engine f).tdc = s.tdc
    ∧ (modPeer s chip engine f).tele = s.tele ∧ (modPeer s chip engine f).teleWrap = s.teleWrap
    ∧ (modPeer s chip engine f).portErr = s.portErr ∧ (modPeer s chip engine f).tbl = s.tbl := by
  unfold modPeer; split <;> repeat' constructor

/-- What `modEntries` leaves alone. -/
@[simp] theorem modEntries_frame (s : State) (t : Tile) (f : List (Nat × RtEntry) → List (Nat × RtEntry)) :
    (modEntries s t f).pending = s.pending ∧ (modEntries s t f).eng = s.eng ∧ (modEntries s t f).inReset = s.inReset
    ∧ (modEntries s t f).tick = s.tick ∧ (modEntries s t f).pins = s.pins ∧ (modEntries s t f).fuse = s.fuse
    ∧ (modEntries s t f).dm = s.dm ∧ (modEntries s t f).heldMap = s.heldMap ∧ (modEntries s t f).quiesce = s.quiesce
    ∧ (modEntries s t f).latches = s.latches ∧ (modEntries s t f).setup = s.setup ∧ (modEntries s t f).chip = s.chip
    ∧ (modEntries s t f).host = s.host ∧ (modEntries s t f).memWait = s.memWait
    ∧ (modEntries s t f).memOut = s.memOut ∧ (modEntries s t f).got = s.got ∧ (modEntries s t f).nextTag = s.nextTag
    ∧ (modEntries s t f).dmaLast = s.dmaLast ∧ (modEntries s t f).moverLast = s.moverLast
    ∧ (modEntries s t f).hostOut = s.hostOut ∧ (modEntries s t f).nextHost = s.nextHost
    ∧ (modEntries s t f).outbox = s.outbox ∧ (modEntries s t f).fresh = s.fresh ∧ (modEntries s t f).ctxs = s.ctxs
    ∧ (modEntries s t f).sched = s.sched ∧ (modEntries s t f).tiles = s.tiles ∧ (modEntries s t f).ready = s.ready
    ∧ (modEntries s t f).frames = s.frames ∧ (modEntries s t f).slices = s.slices
    ∧ (modEntries s t f).queues = s.queues ∧ (modEntries s t f).coreFail = s.coreFail
    ∧ (modEntries s t f).feedLast = s.feedLast ∧ (modEntries s t f).drainLast = s.drainLast
    ∧ (modEntries s t f).coreTimeout = s.coreTimeout
    ∧ (modEntries s t f).lanes = s.lanes ∧ (modEntries s t f).rxPast = s.rxPast
    ∧ (modEntries s t f).nextUpdate = s.nextUpdate ∧ (modEntries s t f).sporeWriters = s.sporeWriters
    ∧ (modEntries s t f).seqs = s.seqs ∧ (modEntries s t f).owner = s.owner ∧ (modEntries s t f).dir = s.dir
    ∧ (modEntries s t f).stamp = s.stamp ∧ (modEntries s t f).hotq = s.hotq ∧ (modEntries s t f).gather = s.gather
    ∧ (modEntries s t f).dma = s.dma ∧ (modEntries s t f).peers = s.peers ∧ (modEntries s t f).spore = s.spore
    ∧ (modEntries s t f).tx = s.tx ∧ (modEntries s t f).txWait = s.txWait ∧ (modEntries s t f).txGen = s.txGen
    ∧ (modEntries s t f).rx = s.rx ∧ (modEntries s t f).rxWait = s.rxWait ∧ (modEntries s t f).floors = s.floors
    ∧ (modEntries s t f).readPend = s.readPend ∧ (modEntries s t f).serving = s.serving
    ∧ (modEntries s t f).nextServe = s.nextServe ∧ (modEntries s t f).rowHolds = s.rowHolds
    ∧ (modEntries s t f).slots = s.slots ∧ (modEntries s t f).provWait = s.provWait ∧ (modEntries s t f).sec = s.sec
    ∧ (modEntries s t f).st = s.st ∧ (modEntries s t f).fw = s.fw ∧ (modEntries s t f).sensor = s.sensor
    ∧ (modEntries s t f).power = s.power ∧ (modEntries s t f).beatTick = s.beatTick
    ∧ (modEntries s t f).beatFrom = s.beatFrom ∧ (modEntries s t f).paceShort = s.paceShort
    ∧ (modEntries s t f).tdc = s.tdc ∧ (modEntries s t f).tele = s.tele ∧ (modEntries s t f).teleWrap = s.teleWrap
    ∧ (modEntries s t f).portErr = s.portErr ∧ (modEntries s t f).tbl = s.tbl := by
  unfold modEntries; split <;> repeat' constructor

/-- What `tdcEvent` leaves alone. -/
@[simp] theorem tdcEvent_frame (s : State) (kind k : Nat) (c : Option CtxId) :
    (tdcEvent s kind k c).pending = s.pending ∧ (tdcEvent s kind k c).eng = s.eng
    ∧ (tdcEvent s kind k c).inReset = s.inReset ∧ (tdcEvent s kind k c).tick = s.tick
    ∧ (tdcEvent s kind k c).pins = s.pins ∧ (tdcEvent s kind k c).fuse = s.fuse ∧ (tdcEvent s kind k c).dm = s.dm
    ∧ (tdcEvent s kind k c).heldMap = s.heldMap ∧ (tdcEvent s kind k c).quiesce = s.quiesce
    ∧ (tdcEvent s kind k c).latches = s.latches ∧ (tdcEvent s kind k c).setup = s.setup
    ∧ (tdcEvent s kind k c).chip = s.chip ∧ (tdcEvent s kind k c).host = s.host
    ∧ (tdcEvent s kind k c).memWait = s.memWait ∧ (tdcEvent s kind k c).memOut = s.memOut
    ∧ (tdcEvent s kind k c).got = s.got ∧ (tdcEvent s kind k c).nextTag = s.nextTag
    ∧ (tdcEvent s kind k c).dmaLast = s.dmaLast ∧ (tdcEvent s kind k c).moverLast = s.moverLast
    ∧ (tdcEvent s kind k c).hostOut = s.hostOut ∧ (tdcEvent s kind k c).nextHost = s.nextHost
    ∧ (tdcEvent s kind k c).outbox = s.outbox ∧ (tdcEvent s kind k c).fresh = s.fresh
    ∧ (tdcEvent s kind k c).sched = s.sched ∧ (tdcEvent s kind k c).tiles = s.tiles
    ∧ (tdcEvent s kind k c).ready = s.ready ∧ (tdcEvent s kind k c).frames = s.frames
    ∧ (tdcEvent s kind k c).banks = s.banks ∧ (tdcEvent s kind k c).slices = s.slices
    ∧ (tdcEvent s kind k c).queues = s.queues ∧ (tdcEvent s kind k c).coreFail = s.coreFail
    ∧ (tdcEvent s kind k c).feedLast = s.feedLast ∧ (tdcEvent s kind k c).drainLast = s.drainLast
    ∧ (tdcEvent s kind k c).coreTimeout = s.coreTimeout
    ∧ (tdcEvent s kind k c).lanes = s.lanes ∧ (tdcEvent s kind k c).rxPast = s.rxPast
    ∧ (tdcEvent s kind k c).nextUpdate = s.nextUpdate ∧ (tdcEvent s kind k c).sporeWriters = s.sporeWriters
    ∧ (tdcEvent s kind k c).seqs = s.seqs ∧ (tdcEvent s kind k c).owner = s.owner
    ∧ (tdcEvent s kind k c).dir = s.dir ∧ (tdcEvent s kind k c).stamp = s.stamp
    ∧ (tdcEvent s kind k c).hotq = s.hotq ∧ (tdcEvent s kind k c).gather = s.gather
    ∧ (tdcEvent s kind k c).dma = s.dma ∧ (tdcEvent s kind k c).peers = s.peers
    ∧ (tdcEvent s kind k c).spore = s.spore ∧ (tdcEvent s kind k c).tx = s.tx
    ∧ (tdcEvent s kind k c).txWait = s.txWait ∧ (tdcEvent s kind k c).txGen = s.txGen
    ∧ (tdcEvent s kind k c).rx = s.rx ∧ (tdcEvent s kind k c).rxWait = s.rxWait
    ∧ (tdcEvent s kind k c).floors = s.floors ∧ (tdcEvent s kind k c).readPend = s.readPend
    ∧ (tdcEvent s kind k c).serving = s.serving ∧ (tdcEvent s kind k c).nextServe = s.nextServe
    ∧ (tdcEvent s kind k c).rowHolds = s.rowHolds ∧ (tdcEvent s kind k c).slots = s.slots
    ∧ (tdcEvent s kind k c).provWait = s.provWait ∧ (tdcEvent s kind k c).sec = s.sec
    ∧ (tdcEvent s kind k c).st = s.st ∧ (tdcEvent s kind k c).fw = s.fw ∧ (tdcEvent s kind k c).sensor = s.sensor
    ∧ (tdcEvent s kind k c).power = s.power ∧ (tdcEvent s kind k c).beatTick = s.beatTick
    ∧ (tdcEvent s kind k c).beatFrom = s.beatFrom ∧ (tdcEvent s kind k c).paceShort = s.paceShort
    ∧ (tdcEvent s kind k c).tele = s.tele ∧ (tdcEvent s kind k c).teleWrap = s.teleWrap
    ∧ (tdcEvent s kind k c).portErr = s.portErr ∧ (tdcEvent s kind k c).tbl = s.tbl := by
  unfold tdcEvent; split
  · repeat' constructor
  · cases c <;> repeat' constructor

/-- What `servedBy` leaves alone. -/
@[simp] theorem servedBy_frame (s : State) (r : MemReq) :
    (servedBy s r).pending = s.pending ∧ (servedBy s r).eng = s.eng ∧ (servedBy s r).inReset = s.inReset
    ∧ (servedBy s r).tick = s.tick ∧ (servedBy s r).pins = s.pins ∧ (servedBy s r).fuse = s.fuse
    ∧ (servedBy s r).dm = s.dm ∧ (servedBy s r).heldMap = s.heldMap ∧ (servedBy s r).quiesce = s.quiesce
    ∧ (servedBy s r).latches = s.latches ∧ (servedBy s r).setup = s.setup ∧ (servedBy s r).chip = s.chip
    ∧ (servedBy s r).host = s.host ∧ (servedBy s r).memWait = s.memWait ∧ (servedBy s r).memOut = s.memOut
    ∧ (servedBy s r).got = s.got ∧ (servedBy s r).nextTag = s.nextTag ∧ (servedBy s r).hostOut = s.hostOut
    ∧ (servedBy s r).nextHost = s.nextHost ∧ (servedBy s r).outbox = s.outbox ∧ (servedBy s r).fresh = s.fresh
    ∧ (servedBy s r).ctxs = s.ctxs ∧ (servedBy s r).sched = s.sched ∧ (servedBy s r).tiles = s.tiles
    ∧ (servedBy s r).ready = s.ready ∧ (servedBy s r).frames = s.frames ∧ (servedBy s r).banks = s.banks
    ∧ (servedBy s r).slices = s.slices ∧ (servedBy s r).queues = s.queues ∧ (servedBy s r).coreFail = s.coreFail
    ∧ (servedBy s r).feedLast = s.feedLast ∧ (servedBy s r).drainLast = s.drainLast
    ∧ (servedBy s r).coreTimeout = s.coreTimeout
    ∧ (servedBy s r).lanes = s.lanes ∧ (servedBy s r).rxPast = s.rxPast
    ∧ (servedBy s r).nextUpdate = s.nextUpdate ∧ (servedBy s r).sporeWriters = s.sporeWriters
    ∧ (servedBy s r).seqs = s.seqs ∧ (servedBy s r).owner = s.owner ∧ (servedBy s r).dir = s.dir
    ∧ (servedBy s r).stamp = s.stamp ∧ (servedBy s r).hotq = s.hotq ∧ (servedBy s r).gather = s.gather
    ∧ (servedBy s r).dma = s.dma ∧ (servedBy s r).peers = s.peers ∧ (servedBy s r).spore = s.spore
    ∧ (servedBy s r).tx = s.tx ∧ (servedBy s r).txWait = s.txWait ∧ (servedBy s r).txGen = s.txGen
    ∧ (servedBy s r).rx = s.rx ∧ (servedBy s r).rxWait = s.rxWait ∧ (servedBy s r).floors = s.floors
    ∧ (servedBy s r).readPend = s.readPend ∧ (servedBy s r).serving = s.serving
    ∧ (servedBy s r).nextServe = s.nextServe ∧ (servedBy s r).rowHolds = s.rowHolds ∧ (servedBy s r).slots = s.slots
    ∧ (servedBy s r).provWait = s.provWait ∧ (servedBy s r).sec = s.sec ∧ (servedBy s r).st = s.st
    ∧ (servedBy s r).fw = s.fw ∧ (servedBy s r).sensor = s.sensor ∧ (servedBy s r).power = s.power
    ∧ (servedBy s r).beatTick = s.beatTick ∧ (servedBy s r).beatFrom = s.beatFrom
    ∧ (servedBy s r).paceShort = s.paceShort ∧ (servedBy s r).tdc = s.tdc ∧ (servedBy s r).tele = s.tele
    ∧ (servedBy s r).teleWrap = s.teleWrap ∧ (servedBy s r).portErr = s.portErr ∧ (servedBy s r).tbl = s.tbl := by
  repeat' constructor

/-- A context after an update of one. -/
theorem modCtx_ctx (s : State) (c d : CtxId) (f : Ctx → Ctx) :
    (modCtx s c f).ctx d = if d = c then f (s.ctx d) else s.ctx d := by
  simp only [modCtx, State.ctx, vmod]
  by_cases h : d = c
  · subst h; simp
  · have : c.val ≠ d.val := fun e => h (Fin.ext e.symm)
    simp [h, this]

/-- The context that an update names. -/
@[simp] theorem modCtx_ctx_self (s : State) (c : CtxId) (f : Ctx → Ctx) : (modCtx s c f).ctx c = f (s.ctx c) := by
  simp [modCtx_ctx]

/-- Every other context. -/
@[simp] theorem modCtx_ctx_ne (s : State) {c d : CtxId} (f : Ctx → Ctx) (h : d ≠ c) : (modCtx s c f).ctx d = s.ctx d := by
  simp [modCtx_ctx, h]

end Sys2Proof.Machine
end

