-- ==== Sys2Proof/Laws/Works.lean ====
section
/-!
SUPPORT. What the units' work can do to the parts of the state that matter to every statement.
-/
namespace Sys2Proof.Machine

/-- The byte of a write request at an address it covers. -/
def MemReq.covers (r : MemReq) (a : Nat) : Prop := r.write = true ∧ r.addr ≤ a ∧ a < r.addr + r.data.length

/-- From one memory and its outstanding requests to another by issuing requests alone. -/
structure Issues (m : Memory) (o : List MemReq) (m' : Memory) (o' : List MemReq) : Prop where
  /-- a byte that changed is that of a write that is outstanding -/
  bytes : ∀ a, memByte m' a ≠ memByte m a → ∃ r ∈ o', r.covers a ∧ memByte m' a = r.data.getD (a - r.addr) 0
  /-- requests stay outstanding -/
  stay : ∀ r ∈ o, ∃ q ∈ o', q.tag = r.tag ∧ q.write = r.write ∧ q.addr = r.addr ∧ q.data = r.data
  form : m.wf = true → m'.wf = true

/-- 06 R140, R142 for all queues. -/
def QueuesOk (q : Vector CoreQ 80) : Prop :=
  ∀ p : PortId, q[p].packets.length ≤ 64 ∧ (q[p].packets.filter (·.state == .feeding)).length ≤ 1

/-- The engine state, host memory and the chip's inputs stay. -/
@[simp] abbrev Keeps (s t : State) : Prop := t.eng = s.eng ∧ t.host = s.host ∧ t.pins = s.pins ∧ t.fuse = s.fuse

/-- Memory changes by issuing requests, and queues keep their bounds. -/
@[simp] abbrev Moves (s t : State) : Prop :=
  (∀ m o, Issues m o s.chip s.memOut → Issues m o t.chip t.memOut) ∧ (QueuesOk s.queues → QueuesOk t.queues)

/-- What any work of the units can do. -/
@[simp] abbrev Works (s t : State) : Prop := Keeps s t ∧ Moves s t

/-! ## Conditional states -/

@[simp] theorem ite_eng (c : Prop) [Decidable c] (a b : State) :
    (if c then a else b).eng = if c then a.eng else b.eng :=
  apply_ite _ c a b
@[simp] theorem ite_host (c : Prop) [Decidable c] (a b : State) :
    (if c then a else b).host = if c then a.host else b.host := apply_ite _ c a b
@[simp] theorem ite_pins (c : Prop) [Decidable c] (a b : State) :
    (if c then a else b).pins = if c then a.pins else b.pins := apply_ite _ c a b
@[simp] theorem ite_fuse (c : Prop) [Decidable c] (a b : State) :
    (if c then a else b).fuse = if c then a.fuse else b.fuse := apply_ite _ c a b
@[simp] theorem ite_issues (c : Prop) [Decidable c] (a b : State) (m o) (ha : Issues m o a.chip a.memOut)
    (hb : Issues m o b.chip b.memOut) : Issues m o (if c then a else b).chip (if c then a else b).memOut := by
  split <;> assumption
@[simp] theorem ite_queues (c : Prop) [Decidable c] (a b : State) (ha : QueuesOk a.queues) (hb : QueuesOk b.queues) :
    QueuesOk (if c then a else b).queues := by
  split <;> assumption

/-! ## The relations -/

theorem Issues.refl (m : Memory) (o : List MemReq) : Issues m o m o :=
  ⟨fun _ h => absurd rfl h, fun r h => ⟨r, h, rfl, rfl, rfl, rfl⟩, id⟩

theorem Issues.trans {m1 m2 m3 : Memory} {o1 o2 o3 : List MemReq} (h : Issues m1 o1 m2 o2) (k : Issues m2 o2 m3 o3) :
    Issues m1 o1 m3 o3 := by
  refine ⟨fun a ha => ?_, fun r hr => ?_, fun w => k.form (h.form w)⟩
  · by_cases hk : memByte m3 a = memByte m2 a
    · obtain ⟨r, hr, hc, hb⟩ := h.bytes a (by rwa [hk] at ha)
      obtain ⟨q, hq, _, e1, e2, e3⟩ := k.stay r hr
      refine ⟨q, hq, ?_, ?_⟩
      · simp only [MemReq.covers, e1, e2, e3] at hc ⊢; exact hc
      · rw [hk, hb, e2, e3]
    · exact k.bytes a hk
  · obtain ⟨q, hq, t1, t2, t3, t4⟩ := h.stay r hr
    obtain ⟨p, hp, u1, u2, u3, u4⟩ := k.stay q hq
    exact ⟨p, hp, by rw [u1, t1], by rw [u2, t2], by rw [u3, t3], by rw [u4, t4]⟩

/-- Outstanding requests may change their owners, or note what overtook them. -/
theorem Issues.relabel {m m' : Memory} {o o' : List MemReq} (f : MemReq → MemReq)
    (hf : ∀ r, (f r).tag = r.tag ∧ (f r).write = r.write ∧ (f r).addr = r.addr ∧ (f r).data = r.data)
    (h : Issues m o m' o') : Issues m o m' (o'.map f) :=
  h.trans ⟨fun _ h => absurd rfl h, fun r hr => ⟨f r, List.mem_map_of_mem hr, hf r⟩, id⟩

/-- Packets may change in place or go, as long as none enters FEEDING. -/
theorem queue_shrinks (l : List Packet) (f : Packet → Option Packet)
    (hf : ∀ k k', f k = some k' → (k'.state == .feeding) = true → (k.state == .feeding) = true) :
    (l.filterMap f).length ≤ l.length
      ∧ ((l.filterMap f).filter (·.state == .feeding)).length ≤ (l.filter (·.state == .feeding)).length := by
  refine ⟨List.length_filterMap_le f l, ?_⟩
  induction l with
  | nil => simp
  | cons k l ih =>
    rw [List.filterMap_cons]
    cases e : f k with
    | none => exact Nat.le_trans ih (List.Sublist.length_le (List.Sublist.filter _ (List.sublist_cons_self k l)))
    | some k' =>
      by_cases h : (k'.state == .feeding) = true
      · have := hf k k' e h
        simp [h, this]; exact ih
      · have := List.Sublist.length_le (List.Sublist.filter (fun x : Packet => x.state == .feeding)
          (List.sublist_cons_self k l))
        show (List.filter _ (k' :: List.filterMap f l)).length ≤ _
        rw [List.filter_cons_of_neg (by simpa using h)]
        exact Nat.le_trans ih this

/-- The same for every queue. -/
theorem QueuesOk.map {q : Vector CoreQ 80} (f : CoreQ → CoreQ)
    (hf : ∀ x : CoreQ, (f x).packets.length ≤ x.packets.length
      ∧ ((f x).packets.filter (·.state == .feeding)).length ≤ (x.packets.filter (·.state == .feeding)).length)
    (h : QueuesOk q) : QueuesOk (vmap f q) := by
  intro p
  have e : (vmap f q)[p] = f q[p] := by simp [vmap]
  rw [e]
  exact ⟨Nat.le_trans (hf _).1 (h p).1, Nat.le_trans (hf _).2 (h p).2⟩

/-- The same for one queue. -/
theorem QueuesOk.mod {q : Vector CoreQ 80} (i : PortId) (f : CoreQ → CoreQ)
    (hf : (f q[i]).packets.length ≤ 64 ∧ ((f q[i]).packets.filter (·.state == .feeding)).length ≤ 1)
    (h : QueuesOk q) : QueuesOk (vmod q i f) := by
  intro p
  by_cases e : p = i
  · subst e; simpa [vmod] using hf
  · have : (vmod q i f)[p] = q[p] := by
      have : i.val ≠ p.val := fun h => e (Fin.ext h.symm)
      simp [vmod, this]
    rw [this]; exact h p

/-! ## The shared operations -/

@[simp] theorem modCtx_works (s c f) : Works s (modCtx s c f) := by simp
theorem Works.trans {s t u : State} (h : Works s t) (k : Works t u) : Works s u :=
  ⟨⟨k.1.1.trans h.1.1, k.1.2.1.trans h.1.2.1, k.1.2.2.1.trans h.1.2.2.1, k.1.2.2.2.trans h.1.2.2.2⟩,
    fun m o w => k.2.1 m o (h.2.1 m o w), fun w => k.2.2 (h.2.2 w)⟩
@[simp] theorem foldl_works {α : Type} (f : State → α → State) (h : ∀ u x, Works u (f u x)) (l : List α) (s : State) :
    Works s (l.foldl f s) := by
  induction l generalizing s with
  | nil => simp
  | cons x l ih => exact (h s x).trans (ih (f s x))

/-- A request that issues. -/
theorem issues_one (s : State) (r : MemReq) (tag : BitVec 12) :
    Issues s.chip s.memOut (if r.write then memWrite s.chip r.addr r.data else s.chip)
      ((if r.write then s.memOut.map fun q => { q with later := (r.addr, r.len) :: q.later } else s.memOut)
        ++ [{ r with tag := tag, old := if r.write then memRead s.chip r.addr r.len else [] }]) := by
  by_cases hw : r.write = true
  · simp only [hw, if_true]
    refine ⟨fun a ha => ?_, fun q hq => ?_, fun w => memWrite_wf _ _ _ w⟩
    · rw [memByte_memWrite] at ha ⊢
      split at ha
      · rename_i hin
        refine ⟨_, List.mem_append_right _ (List.mem_singleton.2 rfl), ⟨by simp, hin⟩, ?_⟩
        rw [if_pos hin]
      · exact absurd rfl ha
    · exact ⟨_, List.mem_append_left _ (List.mem_map_of_mem hq), rfl, rfl, rfl, rfl⟩
  · simp only [hw]
    exact ⟨fun a ha => absurd rfl ha, fun q hq => ⟨q, List.mem_append_left _ hq, rfl, rfl, rfl, rfl⟩, id⟩

@[simp] theorem issueReq_works (s r) : Works s (issueReq s r) := by
  refine ⟨?_, fun m o h => h.trans ?_, ?_⟩
  · cases hc : r.charge <;> simp [issueReq, hc]
  · have := issues_one s r (freeTag s)
    cases hc : r.charge <;> simpa [issueReq, hc] using this
  · cases hc : r.charge <;> simp [issueReq, hc]

@[simp] theorem pumpMem_works (n s) : Works s (pumpMem n s) := by
  induction n generalizing s with
  | zero => simp [pumpMem]
  | succ n ih =>
    generalize e : pumpMem (n + 1) s = t
    unfold pumpMem at e
    split at e
    · subst e; simp
    · subst e; simp +contextual [ih]
@[simp] theorem request_works (s rs) : Works s (request s rs) := by simp +contextual [request]
@[simp] theorem writeMem_works (s o a d r c) : Works s (writeMem s o a d r c) := by simp +contextual [writeMem]

/-! ## The shared operations of the state -/

@[simp] theorem teleCtx_works (s : State) (c : CtxId) (i k : Nat) : Works s (teleCtx s c i k) := by
  generalize e : (teleCtx s c i k) = t
  unfold teleCtx at e
  subst e
  simp +contextual (maxDischargeDepth := 30)
@[simp] theorem teleEng_works (s : State) (i k : Nat) : Works s (teleEng s i k) := by
  unfold teleEng
  simp +contextual (maxDischargeDepth := 30)
@[simp] theorem acctAdd_works (s : State) (c : CtxId) (i k : Nat) : Works s (acctAdd s c i k) := by
  unfold acctAdd
  simp +contextual (maxDischargeDepth := 30)
@[simp] theorem convCount_works (s : State) (c : CtxId) (n : ConvCount) : Works s (convCount s c n) := by
  unfold convCount
  simp +contextual (maxDischargeDepth := 30)
@[simp] theorem tdcEvent_works (s : State) (kind k : Nat) (c : Option CtxId) : Works s (tdcEvent s kind k c) := by
  generalize e : (tdcEvent s kind k c) = t
  unfold tdcEvent at e
  (repeat' split at e) <;> subst e <;> simp +contextual (maxDischargeDepth := 30)
@[simp] theorem memErr_works (s : State) : Works s (memErr s) := by
  unfold memErr
  simp +contextual (maxDischargeDepth := 30)
@[simp] theorem memCharge_works (s : State) (c : CtxId) (n : Nat) : Works s (memCharge s c n) := by
  unfold memCharge
  simp +contextual (maxDischargeDepth := 30)
@[simp] theorem sporeCharge_works (s : State) (c : CtxId) (n : Nat) : Works s (sporeCharge s c n) := by
  unfold sporeCharge
  simp +contextual (maxDischargeDepth := 30)
@[simp] theorem feedCharge_works (s : State) (c : CtxId) (n : Nat) : Works s (feedCharge s c n) := by
  unfold feedCharge
  simp +contextual (maxDischargeDepth := 30)
@[simp] theorem servedBy_works (s : State) (r : MemReq) : Works s (servedBy s r) := by
  unfold servedBy
  simp +contextual (maxDischargeDepth := 30)
@[simp] theorem reading_works (s : State) (o : MemOwner) (rank : Nat) (charge : Option CtxId) (rs : List (Nat × Nat))
    (k : State → State) (h : Works s (k s)) : Works s (reading s o rank charge rs k) := by
  unfold reading; dsimp only
  (repeat' split)
  · simp
  · exact h
  · exact request_works ..
@[simp] theorem dropRead_works (s : State) (o : MemOwner) : Works s (dropRead s o) := by
  unfold dropRead
  simp +contextual (maxDischargeDepth := 30)
@[simp] theorem killReads_works (s : State) (p : MemOwner → Bool) : Works s (killReads s p) := by
  refine ⟨by simp [killReads], fun m o h => ?_, by simp [killReads]⟩
  exact Issues.relabel _ (fun r => by split <;> simp) h
@[simp] theorem hostIssue_works (s : State) (o : HostOwner) (write : Bool) (a n : Nat) (data : List Byte) :
    Works s (hostIssue s o write a n data) := by
  unfold hostIssue
  simp +contextual (maxDischargeDepth := 30)
@[simp] theorem closeRec_works (s : State) (c : CtxId) (r : Rec) : Works s (closeRec s c r) := by
  unfold closeRec
  simp +contextual (maxDischargeDepth := 30)
@[simp] theorem complete_works (s : State) (c : CtxId) (u : UnitId) (j : Job) (st v0 v1 v2 : Nat) :
    Works s (complete s c u j st v0 v1 v2) := by
  unfold complete
  simp +contextual (maxDischargeDepth := 30)
@[simp] theorem completeErr_works (s : State) (c : CtxId) (u : UnitId) (j : Job) (st : Nat) :
    Works s (completeErr s c u j st) := by
  unfold completeErr
  simp +contextual (maxDischargeDepth := 30)
@[simp] theorem pumpRec_works (s : State) (c : CtxId) : Works s (pumpRec s c) := by
  generalize e : (pumpRec s c) = t
  unfold pumpRec at e
  dsimp only at e
  (repeat' split at e) <;> subst e <;> simp +contextual (maxDischargeDepth := 30)
@[simp] theorem pumpRecs_works (s : State) : Works s (pumpRecs s) := by
  unfold pumpRecs
  simp +contextual (maxDischargeDepth := 30)
@[simp] theorem modTile_works (s : State) (c : CtxId) (e : BitVec 16) (f : Tile → Tile) :
    Works s (modTile s c e f) := by
  unfold modTile
  simp +contextual (maxDischargeDepth := 30)
@[simp] theorem modPeer_works (s : State) (chip : BitVec 16) (engine : Bool) (f : Peer → Peer) :
    Works s (modPeer s chip engine f) := by
  unfold modPeer
  split <;> simp +contextual (maxDischargeDepth := 30)
@[simp] theorem modTx_works (s : State) (chip : BitVec 16) (engine : Bool) (f : TxStream → TxStream) :
    Works s (modTx s chip engine f) := by
  unfold modTx
  simp +contextual (maxDischargeDepth := 30)
@[simp] theorem sendMsg_works (s : State) (chip : BitVec 16) (engine : Bool) (m : TxMsg) :
    Works s (sendMsg s chip engine m) := by
  generalize e : (sendMsg s chip engine m) = t
  unfold sendMsg at e
  (repeat' split at e) <;> subst e <;> simp +contextual (maxDischargeDepth := 30)
@[simp] theorem abortPackets_works (s : State) (p : Packet → Bool) : Works s (abortPackets s p) := by
  refine ⟨by simp [abortPackets], by simp [abortPackets], fun h => ?_⟩
  refine QueuesOk.map _ (fun x => ?_) h
  refine queue_shrinks _ _ fun k k' e hk => ?_
  split at e
  · unfold abortPkt at e
    split at e
    · simp at e
    · rename_i hs; simp [hs]
    · simp at e; subst e; exact hk
  · simp at e; subst e; exact hk
@[simp] theorem freeBank_works (s : State) (t : Tile) : Works s (freeBank s t) := by
  unfold freeBank
  split <;> simp +contextual (maxDischargeDepth := 30)
@[simp] theorem dropWaiting_works (s : State) (c : CtxId) (e : BitVec 16) : Works s (dropWaiting s c e) := by
  unfold dropWaiting
  simp +contextual (maxDischargeDepth := 30)
@[simp] theorem dropOutstanding_works (s : State) (t : Tile) : Works s (dropOutstanding s t) := by
  unfold dropOutstanding
  refine foldl_works _ (fun u x => ?_) _ _
  split <;> simp +contextual (maxDischargeDepth := 30)
@[simp] theorem missTicks_works (s : State) (t : Tile) : Works s (missTicks s t) := by
  unfold missTicks
  simp +contextual (maxDischargeDepth := 30)
@[simp] theorem withdrawTile_works (s : State) (t : Tile) : Works s (withdrawTile s t) := by
  unfold withdrawTile
  simp +contextual (maxDischargeDepth := 30)
@[simp] theorem undoRecords_works (s : State) (t : Tile) : Works s (undoRecords s t) := by
  unfold undoRecords
  exact (dropWaiting_works ..).trans (foldl_works _ (fun u p => writeMem_works ..) _ _)
@[simp] theorem abandonTile_works (s : State) (t : Tile) : Works s (abandonTile s t) := by
  unfold abandonTile
  simp +contextual (maxDischargeDepth := 30)
@[simp] theorem abandonFor_works (s : State) (c : CtxId) (pre drain : Bool) : Works s (abandonFor s c pre drain) := by
  unfold abandonFor
  simp +contextual (maxDischargeDepth := 30)
@[simp] theorem abandonAll_works (s : State) (c : CtxId) (pre : Bool) : Works s (abandonAll s c pre) := by
  unfold abandonAll
  simp +contextual (maxDischargeDepth := 30)
@[simp] theorem reap_works (s : State) : Works s (reap s) := by
  unfold reap
  simp +contextual (maxDischargeDepth := 30)
@[simp] theorem writeSave_works (s : State) (c : CtxId) : Works s (writeSave s c) := by
  generalize e : (writeSave s c) = t
  unfold writeSave at e
  subst e
  simp +contextual (maxDischargeDepth := 30)
@[simp] theorem modTp_works (s : State) (c : CtxId) (k : BitVec 32) (f : TpJob → TpJob) : Works s (modTp s c k f) := by
  unfold modTp
  simp +contextual (maxDischargeDepth := 30)
@[simp] theorem contribute_works (s : State) (t : Tile) : Works s (contribute s t) := by
  unfold contribute
  simp +contextual (maxDischargeDepth := 30)
@[simp] theorem dropTile_works (s : State) (t : Tile) : Works s (dropTile s t) := by
  unfold dropTile
  simp +contextual (maxDischargeDepth := 30)
@[simp] theorem commitTile_works (s : State) (t : Tile) : Works s (commitTile s t) := by
  unfold commitTile
  simp +contextual (maxDischargeDepth := 30)
@[simp] theorem stopMovers_works (s : State) (c : CtxId) : Works s (stopMovers s c) := by
  unfold stopMovers
  simp +contextual (maxDischargeDepth := 30)
@[simp] theorem dmaEnd_works (s : State) (ch : ChanId) (d : DmaSet) (st v0 v1 : Nat) :
    Works s (dmaEnd s ch d st v0 v1) := by
  unfold dmaEnd
  split <;> simp +contextual (maxDischargeDepth := 30)
@[simp] theorem dmaAbort_works (s : State) (ch : ChanId) : Works s (dmaAbort s ch) := by
  unfold dmaAbort
  simp +contextual (maxDischargeDepth := 30)
@[simp] theorem stopDma_works (s : State) (c : CtxId) : Works s (stopDma s c) := by
  unfold stopDma
  refine foldl_works _ (fun u x => ?_) _ _
  dsimp only
  (repeat' split) <;> simp +contextual (maxDischargeDepth := 30)
@[simp] theorem completeTp_works (s : State) (c : CtxId) (j : Job) (t : TpJob) (st : Nat) :
    Works s (completeTp s c j t st) := by
  unfold completeTp
  simp +contextual (maxDischargeDepth := 30)
@[simp] theorem endTps_works (s : State) (c : CtxId) : Works s (endTps s c) := by
  unfold endTps
  simp +contextual (maxDischargeDepth := 30)
@[simp] theorem abortJob_works (st : Nat) (c : CtxId) (s : State) (uj : UnitId × Job) :
    Works s (abortJob st c s uj) := by
  unfold abortJob
  split <;> simp +contextual (maxDischargeDepth := 30)
@[simp] theorem countFree_works (c : CtxId) (s : State) (j : Job) : Works s (countFree c s j) := by
  unfold countFree
  simp +contextual (maxDischargeDepth := 30)
@[simp] theorem drainSteps_works (s : State) (c : CtxId) (only : Option (BitVec 32)) (st : Nat) :
    Works s (drainSteps s c only st) := by
  unfold drainSteps
  simp +contextual (maxDischargeDepth := 30)
@[simp] theorem saveIf_works (left : Bool) (s : State) (c : CtxId) : Works s (saveIf left s c) := by
  unfold saveIf
  simp +contextual (maxDischargeDepth := 30)
@[simp] theorem drainCtx_works (s : State) (c : CtxId) : Works s (drainCtx s c) := by
  unfold drainCtx
  simp +contextual (maxDischargeDepth := 30)
@[simp] theorem faultCtx_works (s : State) (c : CtxId) (st : Nat) (only : Option (BitVec 32)) :
    Works s (faultCtx s c st only) := by
  unfold faultCtx
  simp +contextual (maxDischargeDepth := 30)
@[simp] theorem preempt_works (s : State) (c : CtxId) : Works s (preempt s c) := by
  unfold preempt
  simp +contextual (maxDischargeDepth := 30)

@[simp] theorem operandNow_works (s : State) (k : UnitKind) (ls : List SliceId) : Works s (operandNow s k ls) := by
  unfold operandNow
  simp +contextual (maxDischargeDepth := 30)

/-! ## Credits -/

@[simp] theorem sendTransfer_works (s : State) (port : Fin 8) (chip : BitVec 16) (frame : Nat) :
    Works s (sendTransfer s port chip frame) := by
  unfold sendTransfer
  simp +contextual (maxDischargeDepth := 30)
@[simp] theorem sendFrame_works (s : State) (port : Fin 8) (chip : BitVec 16) (engine : Bool) (gen : BitVec 8)
    (kind : Nat) (seq : BitVec 32) (credits : Nat) : Works s (sendFrame s port chip engine gen kind seq credits) := by
  unfold sendFrame
  simp +contextual (maxDischargeDepth := 30)
@[simp] theorem modRx_works (s : State) (chip : BitVec 16) (engine : Bool) (f : RxStream → RxStream) :
    Works s (modRx s chip engine f) := by
  unfold modRx
  simp +contextual (maxDischargeDepth := 30)
@[simp] theorem freePlaces_works (s : State) (chip : BitVec 16) (engine : Bool) (n : Nat) :
    Works s (freePlaces s chip engine n) := by
  generalize e : (freePlaces s chip engine n) = t
  unfold freePlaces at e
  (repeat' split at e) <;> subst e <;> simp +contextual (maxDischargeDepth := 30)
@[simp] theorem releaseRows_works (s : State) : Works s (releaseRows s) := by
  unfold releaseRows
  simp +contextual (maxDischargeDepth := 30)

/-! ## The DMA channels -/

@[simp] theorem modDma_works (s : State) (ch : ChanId) (f : DmaChan → DmaChan) : Works s (modDma s ch f) := by
  unfold modDma
  simp +contextual (maxDischargeDepth := 30)
@[simp] theorem readSide_works (s : State) (ch : ChanId) (d : DmaSet) (b : Nat) (second : Bool) :
    Works s (readSide s ch d b second) := by
  generalize e : (readSide s ch d b second) = t
  unfold readSide at e
  (repeat' split at e) <;> subst e <;> simp +contextual (maxDischargeDepth := 30)
@[simp] theorem readBurst_works (s : State) (ch : ChanId) (d : DmaSet) (b : Nat) : Works s (readBurst s ch d b) := by
  unfold readBurst
  simp +contextual (maxDischargeDepth := 30)
@[simp] theorem writeBurst_works (s : State) (ch : ChanId) (d : DmaSet) (x : Burst) :
    Works s (writeBurst s ch d x) := by
  generalize e : (writeBurst s ch d x) = t
  unfold writeBurst at e
  (repeat' split at e) <;> subst e <;> simp +contextual (maxDischargeDepth := 30)
@[simp] theorem dropBurst_works (s : State) (ch : ChanId) (b : Nat) : Works s (dropBurst s ch b) := by
  refine ⟨by simp [dropBurst], fun m o h => ?_, by simp [dropBurst]⟩
  exact Issues.relabel _ (fun r => by split <;> simp) h
@[simp] theorem endBurst_works (s : State) (ch : ChanId) (x : Burst) : Works s (endBurst s ch x) := by
  unfold endBurst
  simp +contextual (maxDischargeDepth := 30)
@[simp] theorem endBursts_works (s : State) (ch : ChanId) : Works s (endBursts s ch) := by
  unfold endBursts
  simp +contextual (maxDischargeDepth := 30)
@[simp] theorem modBurst_works (s : State) (ch : ChanId) (b : Nat) (f : Burst → Burst) :
    Works s (modBurst s ch b f) := by
  unfold modBurst
  simp +contextual (maxDischargeDepth := 30)
@[simp] theorem startWrites_works (s : State) (ch : ChanId) : Works s (startWrites s ch) := by
  unfold startWrites
  simp +contextual (maxDischargeDepth := 30)
@[simp] theorem discardBursts_works (s : State) (ch : ChanId) : Works s (discardBursts s ch) := by
  unfold discardBursts
  simp +contextual (maxDischargeDepth := 30)
@[simp] theorem endActive_works (s : State) (ch : ChanId) (st v0 v1 : Nat) : Works s (endActive s ch st v0 v1) := by
  unfold endActive
  simp +contextual (maxDischargeDepth := 30)
@[simp] theorem endTransfer_works (s : State) (ch : ChanId) : Works s (endTransfer s ch) := by
  generalize e : (endTransfer s ch) = t
  unfold endTransfer at e
  dsimp only at e
  (repeat' split at e) <;> subst e <;> simp +contextual (maxDischargeDepth := 30)
@[simp] theorem endChanDrain_works (s : State) (ch : ChanId) : Works s (endChanDrain s ch) := by
  unfold endChanDrain
  simp +contextual (maxDischargeDepth := 30)
@[simp] theorem settleDma_works (s : State) (ch : ChanId) : Works s (settleDma s ch) := by
  unfold settleDma
  simp +contextual (maxDischargeDepth := 30)
@[simp] theorem dmaArrived_works (s : State) (ch : ChanId) (b : Nat) (second : Bool) (off : Nat) (data : List Byte) :
    Works s (dmaArrived s ch b second off data) := by
  unfold dmaArrived
  simp +contextual (maxDischargeDepth := 30)
@[simp] theorem dmaBusErr_works (s : State) (ch : ChanId) : Works s (dmaBusErr s ch) := by
  unfold dmaBusErr
  simp +contextual (maxDischargeDepth := 30)
@[simp] theorem dmaFailed_works (s : State) (ch : ChanId) (b : Nat) : Works s (dmaFailed s ch b) := by
  unfold dmaFailed
  simp +contextual (maxDischargeDepth := 30)

/-! ## The Owner Table -/

@[simp] theorem sendData_works (s : State) (p : PendRead) (status fmt : Nat) (data : List Byte) :
    Works s (sendData s p status fmt data) := by
  unfold sendData
  simp +contextual (maxDischargeDepth := 30)
@[simp] theorem endServe_works (s : State) (n : Nat) : Works s (endServe s n) := by
  unfold endServe
  simp +contextual (maxDischargeDepth := 30)
@[simp] theorem travelCount_works (s : State) (p : PendRead) (n : ConvCount) : Works s (travelCount s p n) := by
  unfold travelCount
  split <;> simp +contextual (maxDischargeDepth := 30)
@[simp] theorem serveRead_works (s : State) (n : Nat) : Works s (serveRead s n) := by
  unfold serveRead
  split <;> simp +contextual (maxDischargeDepth := 30)
@[simp] theorem serveFailed_works (s : State) (n : Nat) : Works s (serveFailed s n) := by
  unfold serveFailed
  split <;> simp +contextual (maxDischargeDepth := 30)
@[simp] theorem answerRead_works (s : State) (p : PendRead) : Works s (answerRead s p) := by
  unfold answerRead
  simp +contextual (maxDischargeDepth := 30)
@[simp] theorem acceptRead_works (s : State) (p : PendRead) : Works s (acceptRead s p) := by
  unfold acceptRead
  simp +contextual (maxDischargeDepth := 30)
@[simp] theorem releaseReads_works (s : State) : Works s (releaseReads s) := by
  unfold releaseReads
  simp +contextual (maxDischargeDepth := 30)
@[simp] theorem publishOne_works (epoch : Nat) (s : State) (e : Nat) : Works s (publishOne epoch s e) := by
  unfold publishOne
  simp +contextual (maxDischargeDepth := 30)
@[simp] theorem publish_works (s : State) (epoch : Nat) (es : List Nat) : Works s (publish s epoch es) := by
  unfold publish
  simp +contextual (maxDischargeDepth := 30)

/-! ## The tile path checks -/

@[simp] theorem endCheck_works (s : State) (c : CtxId) (j : TpJob) (r : Except Nat TpJob) :
    Works s (endCheck s c j r) := by
  generalize e : (endCheck s c j r) = t
  unfold endCheck at e
  dsimp only at e
  (repeat' split at e) <;> subst e <;> simp +contextual (maxDischargeDepth := 30)
@[simp] theorem checkTp_works (s : State) (c : CtxId) (j : TpJob) : Works s (checkTp s c j) := by
  unfold checkTp
  repeat' first | dsimp only | split | refine reading_works _ _ _ _ _ _ ?_
  all_goals simp +contextual (maxDischargeDepth := 30)
@[simp] theorem checkFailed_works (s : State) (c : CtxId) (k : BitVec 32) : Works s (checkFailed s c k) := by
  unfold checkFailed
  split <;> simp +contextual (maxDischargeDepth := 30)

/-! ## The hot set -/

@[simp] theorem failTp_works (s : State) (c : CtxId) (k : BitVec 32) (st : Nat) : Works s (failTp s c k st) := by
  unfold failTp
  dsimp only
  split <;> simp +contextual (maxDischargeDepth := 30)
@[simp] theorem modDir_works (s : State) (i : Nat) (f : HotEntry → HotEntry) : Works s (modDir s i f) := by
  unfold modDir
  simp +contextual (maxDischargeDepth := 30)
@[simp] theorem evict_works (s : State) (i : Nat) : Works s (evict s i) := by
  unfold evict
  simp +contextual (maxDischargeDepth := 30)
@[simp] theorem evictUntil_works (need n k : Nat) (s : State) : Works s (evictUntil need n k s).1 := by
  induction n generalizing k s with
  | zero => simp [evictUntil]
  | succ n ih =>
    unfold evictUntil
    split
    · simp
    · split
      · simp +contextual (maxDischargeDepth := 30) [ih]
      · simp
theorem makeRoom_works (s : State) (need : Nat) (t) (e : makeRoom s need = some t) : Works s t.1 := by
  unfold makeRoom at e
  split at e
  · simp only [Option.some.injEq] at e; subst e; exact evictUntil_works ..
  · simp at e
theorem makeRoom_pair {s : State} {n : Nat} {t : State} {k : Nat} (e : makeRoom s n = some (t, k)) : Works s t :=
  makeRoom_works s n (t, k) e
@[simp] theorem stampDir_works (s : State) (i : Nat) : Works s (stampDir s i) := by
  unfold stampDir
  simp +contextual (maxDischargeDepth := 30)
@[simp] theorem startLoad_works (s : State) (i : Nat) (rank : Nat) (c : CtxId) (rs : List (Nat × Nat)) :
    Works s (startLoad s i rank c rs) := by
  generalize e : (startLoad s i rank c rs) = t
  unfold startLoad at e
  subst e
  simp +contextual (maxDischargeDepth := 30)
@[simp] theorem endHot_works (s : State) (h : HotJob) (st v0 v1 : Nat) : Works s (endHot s h st v0 v1) := by
  unfold endHot
  dsimp only
  split <;> simp +contextual (maxDischargeDepth := 30)
@[simp] theorem endStall_works (s : State) (e : HotEntry) : Works s (endStall s e) := by
  unfold endStall
  simp +contextual (maxDischargeDepth := 30)
@[simp] theorem failMiss_works (s : State) (e : HotEntry) (st : Nat) : Works s (failMiss s e st) := by
  unfold failMiss
  simp +contextual (maxDischargeDepth := 30)
@[simp] theorem dropSegments_works (s : State) (key : BitVec 24) : Works s (dropSegments s key) := by
  unfold dropSegments
  simp +contextual (maxDischargeDepth := 30)
@[simp] theorem loaded_works (s : State) (i : Nat) (e : HotEntry) : Works s (loaded s i e) := by
  unfold loaded
  dsimp only
  split <;> simp +contextual (maxDischargeDepth := 30)
@[simp] theorem loadFailed_works (s : State) (i : Nat) (e : HotEntry) (st : Nat) : Works s (loadFailed s i e st) := by
  unfold loadFailed
  dsimp only
  split <;> simp +contextual (maxDischargeDepth := 30)
@[simp] theorem finishLoad_works (s : State) (i : Nat) : Works s (finishLoad s i) := by
  unfold finishLoad
  split <;> simp +contextual (maxDischargeDepth := 30)
@[simp] theorem placeLoad_works (s : State) (j : HotJob) (h i : Nat) (pinned : Bool) :
    Works s (placeLoad s j h i pinned) := by
  generalize e : (placeLoad s j h i pinned) = t
  unfold placeLoad at e
  try dsimp only at e
  (repeat' split at e) <;> (try have v := makeRoom_pair (by assumption)) <;> subst e <;>
    simp +contextual (maxDischargeDepth := 30) [*]
@[simp] theorem enterLoad_works (s : State) (j : HotJob) (h : Nat) : Works s (enterLoad s j h) := by
  generalize e : (enterLoad s j h) = t
  unfold enterLoad at e
  (repeat' split at e) <;> subst e <;> simp +contextual (maxDischargeDepth := 30)
@[simp] theorem beginLoad_works (s : State) (j : HotJob) : Works s (beginLoad s j) := by
  unfold beginLoad
  repeat' first | dsimp only | split | refine reading_works _ _ _ _ _ _ ?_
  all_goals simp +contextual (maxDischargeDepth := 30)
@[simp] theorem modelFailed_works (s : State) : Works s (modelFailed s) := by
  unfold modelFailed
  split <;> simp +contextual (maxDischargeDepth := 30)
@[simp] theorem beginPin_works (s : State) (j : HotJob) : Works s (beginPin s j) := by
  generalize e : (beginPin s j) = t
  unfold beginPin at e
  try dsimp only at e
  (repeat' split at e) <;> (try have v := makeRoom_pair (by assumption)) <;> subst e <;>
    simp +contextual (maxDischargeDepth := 30) [*]
@[simp] theorem hotHead_works (s : State) : Works s (hotHead s) := by
  generalize e : (hotHead s) = t
  unfold hotHead at e
  (repeat' split at e) <;> subst e <;> simp +contextual (maxDischargeDepth := 30)
@[simp] theorem hotSteps_works (n : Nat) (s : State) : Works s (hotSteps n s) := by
  induction n generalizing s with
  | zero => simp [hotSteps]
  | succ n ih => unfold hotSteps; simp +contextual (maxDischargeDepth := 30) [ih]
@[simp] theorem hotPump_works (s : State) : Works s (hotPump s) := by
  unfold hotPump; split <;> simp +contextual (maxDischargeDepth := 30)

/-! ## The tiles -/

@[simp] theorem modEntries_works (s : State) (t : Tile) (f : List (Nat × RtEntry) → List (Nat × RtEntry)) :
    Works s (modEntries s t f) := by
  unfold modEntries
  split <;> simp +contextual (maxDischargeDepth := 30)
@[simp] theorem takeBank_works (s : State) (t : Tile) : Works s (takeBank s t) := by
  unfold takeBank
  split <;> simp +contextual (maxDischargeDepth := 30)
@[simp] theorem fillMore_works (s : State) (t : Tile) : Works s (fillMore s t) := by
  unfold fillMore
  simp +contextual (maxDischargeDepth := 30)
@[simp] theorem endFill_works (s : State) (t : Tile) : Works s (endFill s t) := by
  unfold endFill
  simp +contextual (maxDischargeDepth := 30)
@[simp] theorem again_works (s : State) (t : Tile) (f : State → Tile → State) (hf : ∀ u x, Works u (f u x)) :
    Works s (again s t f) := by
  unfold again; split
  · exact hf _ _
  · simp
@[simp] theorem settleTile_works (s : State) (t : Tile) : Works s (settleTile s t) := by
  unfold settleTile; dsimp only
  refine Works.trans (Works.trans (Works.trans (Works.trans (again_works _ _ _ fun u x => ?_)
    (again_works _ _ _ fun u x => fillMore_works ..)) (again_works _ _ _ fun u x => ?_))
    (again_works _ _ _ fun u x => ?_)) (again_works _ _ _ fun u x => ?_)
  · split <;> simp +contextual (maxDischargeDepth := 30)
  · split <;> simp +contextual (maxDischargeDepth := 30)
  · simp
  · split <;> simp
@[simp] theorem freeFrames_works (s : State) : Works s (freeFrames s) := by
  unfold freeFrames
  simp +contextual (maxDischargeDepth := 30)
@[simp] theorem settleTiles_works (s : State) : Works s (settleTiles s) := by
  unfold settleTiles
  simp +contextual (maxDischargeDepth := 30)

/-! ## The mover channels -/

@[simp] theorem modRun_works (s : State) (ch : ChanId) (f : MoverRun → MoverRun) : Works s (modRun s ch f) := by
  unfold modRun
  simp +contextual (maxDischargeDepth := 30)
@[simp] theorem failRun_works (s : State) (ch : ChanId) (st : Nat) : Works s (failRun s ch st) := by
  unfold failRun
  simp +contextual (maxDischargeDepth := 30)
@[simp] theorem strictFault_works (s : State) (ch : ChanId) (c : CtxId) : Works s (strictFault s ch c) := by
  unfold strictFault
  simp +contextual (maxDischargeDepth := 30)
@[simp] theorem countDecode_works (s : State) (m : MoverRun) (src : TDesc) (fmt : Nat) (bytes : List Byte) :
    Works s (countDecode s m src fmt bytes) := by
  unfold countDecode
  simp +contextual (maxDischargeDepth := 30)
@[simp] theorem holdRow_works (s : State) (ch : ChanId) (m : MoverRun) (src : TDesc) (q fmt : Nat) (bytes : List Byte) :
    Works s (holdRow s ch m src q fmt bytes) := by
  unfold holdRow
  simp +contextual (maxDischargeDepth := 30)
@[simp] theorem moverReading_works (s : State) (ch : ChanId) (c : CtxId) (rs : List (Nat × Nat)) (k : State → State)
    (h : Works s (k s)) : Works s (moverReading s ch c rs k) := reading_works _ _ _ _ _ _ (h.trans (dropRead_works ..))
@[simp] theorem sendReq_works (s : State) (ch : ChanId) (m : MoverRun) (src : TDesc) (q : RReq) :
    Works s (sendReq s ch m src q) := by
  unfold sendReq
  simp +contextual (maxDischargeDepth := 30)
@[simp] theorem askRow_works (s : State) (ch : ChanId) (m : MoverRun) (src : TDesc) (q e off : Nat) :
    Works s (askRow s ch m src q e off) := by
  unfold askRow
  simp +contextual (maxDischargeDepth := 30)
@[simp] theorem seekRemote_works (ch : ChanId) (src : TDesc) (s : State) (q : Nat) :
    Works s (seekRemote ch src s q) := by
  unfold seekRemote
  split <;> simp +contextual (maxDischargeDepth := 30)
@[simp] theorem readOwn_works (s : State) (ch : ChanId) (m : MoverRun) (src : TDesc) (p : RowPlan) :
    Works s (readOwn s ch m src p) := by
  unfold readOwn
  simp +contextual (maxDischargeDepth := 30)
@[simp] theorem endHalo_works (s : State) (ch : ChanId) (m : MoverRun) : Works s (endHalo s ch m) := by
  unfold endHalo
  split <;> simp +contextual (maxDischargeDepth := 30)
@[simp] theorem moveRow_works (s : State) (ch : ChanId) (m : MoverRun) (src dst : TDesc) (p : RowPlan) (a : Nat)
    (old : List Byte) : Works s (moveRow s ch m src dst p a old) := by
  generalize e : (moveRow s ch m src dst p a old) = t
  unfold moveRow at e
  (repeat' split at e) <;> subst e <;> simp +contextual (maxDischargeDepth := 30)
@[simp] theorem finishRow_works (s : State) (ch : ChanId) (m : MoverRun) (src dst : TDesc) (p : RowPlan) :
    Works s (finishRow s ch m src dst p) := by
  generalize e : (finishRow s ch m src dst p) = t
  unfold finishRow at e
  try dsimp only at e
  (repeat' split at e) <;> subst e <;> simp +contextual (maxDischargeDepth := 30) [*]
@[simp] theorem stepRow_works (s : State) (ch : ChanId) (m : MoverRun) (src dst : TDesc) :
    Works s (stepRow s ch m src dst) := by
  generalize e : (stepRow s ch m src dst) = t
  unfold stepRow at e
  dsimp only at e
  (repeat' split at e) <;> subst e <;> simp +contextual (maxDischargeDepth := 30)
@[simp] theorem scatterOob_works (s : State) (ch : ChanId) (m : MoverRun) (src dst : TDesc) :
    Works s (scatterOob s ch m src dst) := by
  unfold scatterOob
  simp +contextual (maxDischargeDepth := 30)
@[simp] theorem loadLists_works (s : State) (ch : ChanId) (m : MoverRun) (src dst : TDesc) :
    Works s (loadLists s ch m src dst) := by
  unfold loadLists
  simp +contextual (maxDischargeDepth := 30)
@[simp] theorem dropRun_works (s : State) (ch : ChanId) : Works s (dropRun s ch) := by
  unfold dropRun
  simp +contextual (maxDischargeDepth := 30)
@[simp] theorem endRun_works (s : State) (ch : ChanId) (m : MoverRun) : Works s (endRun s ch m) := by
  generalize e : (endRun s ch m) = t
  unfold endRun at e
  dsimp only at e
  (repeat' split at e) <;> subst e <;> simp +contextual (maxDischargeDepth := 30)
@[simp] theorem moverStep_works (s : State) (ch : ChanId) : Works s (moverStep s ch) := by
  generalize e : (moverStep s ch) = t
  unfold moverStep at e
  (repeat' split at e) <;> subst e <;> simp +contextual (maxDischargeDepth := 30)
@[simp] theorem moverLoop_works (n : Nat) (s : State) (ch : ChanId) : Works s (moverLoop n s ch) := by
  induction n generalizing s with
  | zero => simp [moverLoop]
  | succ n ih =>
    unfold moverLoop; dsimp only
    split
    · exact moverStep_works ..
    · exact (moverStep_works ..).trans (ih _)
@[simp] theorem settleMover_works (s : State) (ch : ChanId) : Works s (settleMover s ch) := by
  unfold settleMover; split <;> simp +contextual (maxDischargeDepth := 30)
@[simp] theorem settleMovers_works (n : Nat) (s : State) : Works s (settleMovers n s) := by
  induction n generalizing s with
  | zero => simp [settleMovers]
  | succ n ih =>
    have w : Works s ((fins 16).foldl settleMover s) := foldl_works _ (fun u x => settleMover_works u x) _ _
    unfold settleMovers; dsimp only
    split
    · exact w
    · exact w.trans (ih _)

/-! ## The drain -/

/-- A queue's packets do not grow, and no more of them are in FEEDING. -/
def Shrinks (x y : CoreQ) : Prop := y.packets.length ≤ x.packets.length
  ∧ (y.packets.filter (·.state == .feeding)).length ≤ (x.packets.filter (·.state == .feeding)).length
theorem modQueue_works (s : State) (p : PortId) (f : CoreQ → CoreQ) (hf : Shrinks s.queues[p] (f s.queues[p])) :
    Works s (modQueue s p f) :=
  ⟨by simp, by simp, fun h => QueuesOk.mod _ _ ⟨Nat.le_trans hf.1 (h p).1, Nat.le_trans hf.2 (h p).2⟩ h⟩
theorem updFirst_shrinks (l : List Packet) (p : Packet → Bool) (f : Packet → Packet)
    (hf : ∀ k, ((f k).state == .feeding) = true → (k.state == .feeding) = true) :
    (updFirst p f l).length ≤ l.length
      ∧ ((updFirst p f l).filter (·.state == .feeding)).length ≤ (l.filter (·.state == .feeding)).length := by
  induction l with
  | nil => simp [updFirst]
  | cons k l ih =>
    unfold updFirst
    split
    · refine ⟨by simp, ?_⟩
      by_cases h : ((f k).state == .feeding) = true
      · have h2 := hf k h
        simp only [List.filter_cons, h, h2, if_true]; simp
      · have h2 : ((f k).state == .feeding) = false := by simpa using h
        simp only [List.filter_cons (x := f k), h2, Bool.false_eq_true, if_false]
        exact List.Sublist.length_le (List.Sublist.filter _ (List.sublist_cons_self k l))
    · refine ⟨by simpa using ih.1, ?_⟩
      by_cases h : (k.state == .feeding) = true
      · simp only [List.filter_cons, h, if_true]; simpa using ih.2
      · have h2 : (k.state == .feeding) = false := by simpa using h
        simp only [List.filter_cons, h2, Bool.false_eq_true, if_false]; exact ih.2
theorem filter_shrinks (l : List Packet) (p : Packet → Bool) : (l.filter p).length ≤ l.length
    ∧ ((l.filter p).filter (·.state == .feeding)).length ≤ (l.filter (·.state == .feeding)).length :=
  ⟨List.length_filter_le .., List.Sublist.length_le (List.Sublist.filter _ List.filter_sublist)⟩
theorem modPkt_works (s : State) (p : PortId) (n : BitVec 16) (f : Packet → Packet) (g : CoreQ → CoreQ)
    (hg : ∀ q, (g q).packets = q.packets) (hf : ∀ k, ((f k).state == .feeding) = true → (k.state == .feeding) = true) :
    Works s (modQueue s p fun q => modPkt n f (g q)) :=
  modQueue_works _ _ _ (by simp only [Shrinks, modPkt, hg]; exact updFirst_shrinks _ _ _ hf)
theorem modPkt_works0 (s : State) (p : PortId) (n : BitVec 16) (f : Packet → Packet)
    (hf : ∀ k, ((f k).state == .feeding) = true → (k.state == .feeding) = true) :
    Works s (modQueue s p (modPkt n f)) := modPkt_works s p n f id (fun _ => rfl) hf
@[simp] theorem drainBad_works (s : State) : Works s (drainBad s) := by
  unfold drainBad
  simp +contextual (maxDischargeDepth := 30)
@[simp] theorem writeSlot_works (s : State) (t : Tile) (i : Nat) (row : List Byte) : Works s (writeSlot s t i row) := by
  generalize e : (writeSlot s t i row) = t
  unfold writeSlot at e
  subst e
  simp +contextual (maxDischargeDepth := 30)
@[simp] theorem localRow_works (s : State) (k : Packet) (slot : Nat) (row : List Byte) :
    Works s (localRow s k slot row) := by
  unfold localRow
  split <;> simp +contextual (maxDischargeDepth := 30)
@[simp] theorem sporeRow_works (s : State) (port : PortId) (k : Packet) (g : BitVec 128) (row : List Byte) :
    Works s (sporeRow s port k g row) := by
  unfold sporeRow
  simp +contextual (maxDischargeDepth := 30)
@[simp] theorem endRow_works (s : State) (port : PortId) (k : Packet) (g : BitVec 128) :
    Works s (endRow s port k g) := by
  unfold endRow; dsimp only
  have w := modPkt_works s port k.seq (fun k => { k with returned := min k.choices (k.returned + 1) })
    (fun q => { q with drainRow := [] }) (fun _ => rfl) fun _ h => h
  split
  · exact w.trans (sporeRow_works ..)
  · exact w.trans (localRow_works ..)
@[simp] theorem drainFlit_works (s : State) (port : PortId) (g : BitVec 128) (data : List Byte) :
    Works s (drainFlit s port g data) := by
  unfold drainFlit; dsimp only
  have w : Works s (modQueue s port (addFlit g data)) := modQueue_works _ _ _ ⟨Nat.le_refl _, Nat.le_refl _⟩
  (repeat' split)
  · exact drainBad_works ..
  · exact w.trans (endRow_works ..)
  · exact w
@[simp] theorem toLane_works (s : State) (port : PortId) (g : BitVec 128) (data : List Byte) :
    Works s (toLane s port g data) := by
  simp [toLane]
@[simp] theorem endPacket_works (s : State) (port : PortId) (g : BitVec 128) : Works s (endPacket s port g) := by
  unfold endPacket; split
  · exact drainBad_works s
  · exact modQueue_works _ _ _ (filter_shrinks _ _)
@[simp] theorem drainLane_works (s : State) (l : PortId × BitVec 128 × List Byte) : Works s (drainLane s l) := by
  unfold drainLane; dsimp only
  have w : Works s { s with lanes := s.lanes.filter fun k => k.1 != l.1, drainLast := l.1 } := by simp
  split
  · exact w.trans (endPacket_works ..)
  · exact w.trans (drainFlit_works ..)
@[simp] theorem drainLanes_works (n : Nat) (s : State) : Works s (drainLanes n s) := by
  induction n generalizing s with
  | zero => simp [drainLanes]
  | succ n ih =>
    unfold drainLanes; split
    · simp
    · exact (drainLane_works ..).trans (ih _)
@[simp] theorem settleDrain_works (s : State) : Works s (settleDrain s) := drainLanes_works ..

/-! ## The biases -/

@[simp] theorem statWrite_works (s : State) (c : CtxId) (a : Nat) (data : List Byte) :
    Works s (statWrite s c a data) := by
  generalize e : (statWrite s c a data) = t
  unfold statWrite at e
  subst e
  simp +contextual (maxDischargeDepth := 30)
@[simp] theorem recheckLoad_works (s : State) : Works s (recheckLoad s) := by
  unfold recheckLoad
  simp +contextual (maxDischargeDepth := 30)
@[simp] theorem putTotals_works (s : State) (c : CtxId) (i : Nat) (h : Nat) (u : PendUpdate) (old : List F32) :
    Works s (putTotals s c i h u old) := by
  unfold putTotals
  simp +contextual (maxDischargeDepth := 30)
@[simp] theorem popUpdate_works (s : State) (c : CtxId) : Works s (popUpdate s c) := by
  unfold popUpdate
  simp +contextual (maxDischargeDepth := 30)
@[simp] theorem updateFront_works (s : State) (c : CtxId) (u : PendUpdate) : Works s (updateFront s c u) := by
  unfold updateFront
  split <;> simp +contextual (maxDischargeDepth := 30)
@[simp] theorem updateOn_works (n : Nat) (c : CtxId) (s : State) : Works s (updateOn n c s) := by
  induction n generalizing s with
  | zero => simp [updateOn]
  | succ n ih =>
    unfold updateOn; dsimp only
    split
    · simp
    · split
      · exact (updateFront_works ..).trans (ih _)
      · exact updateFront_works ..
@[simp] theorem updateTurns_works (n : Nat) (s : State) : Works s (updateTurns n s) := by
  induction n generalizing s with
  | zero => simp [updateTurns]
  | succ n ih =>
    unfold updateTurns
    exact (foldl_works _ (fun u c => updateOn_works _ c u) _ _).trans (ih _)
@[simp] theorem update_works (s : State) : Works s (update s) := updateTurns_works ..
@[simp] theorem updateFailed_works (s : State) (c : CtxId) : Works s (updateFailed s c) := by
  unfold updateFailed
  simp +contextual (maxDischargeDepth := 30)

/-! ## The security unit -/

@[simp] theorem readBody_works (s : State) (e : Nat) : Works s (readBody s e) := by
  unfold readBody
  simp +contextual (maxDischargeDepth := 30)
@[simp] theorem dropImage_works (s : State) (e : Nat) : Works s (dropImage s e) := by
  unfold dropImage; split <;> simp
@[simp] theorem takeEnvelope_works (s : State) (p : CritPath) : Works s (takeEnvelope s p) := by
  unfold takeEnvelope
  split <;> simp +contextual (maxDischargeDepth := 30)
@[simp] theorem provision_works (s : State) (w : ProvWrite) : Works s (provision s w) := by
  cases w <;> simp [provision]
@[simp] theorem provisionAll_works (s : State) : Works s (provisionAll s) := by
  unfold provisionAll
  exact Works.trans (t := { s with provWait := [] }) (by simp) (foldl_works _ (fun u x => provision_works u x) _ _)
@[simp] theorem settleSec_works (s : State) : Works s (settleSec s) := by
  generalize e : (settleSec s) = t
  unfold settleSec at e
  dsimp only at e
  (repeat' split at e) <;> subst e <;> simp +contextual (maxDischargeDepth := 30)

/-! ## What follows of itself -/

@[simp] theorem checkJob_works (c : CtxId) (s : State) (j : TpJob) : Works s (checkJob c s j) := by
  unfold checkJob
  simp +contextual (maxDischargeDepth := 30)
@[simp] theorem checkJobs_works (s : State) : Works s (checkJobs s) := by
  unfold checkJobs
  simp +contextual (maxDischargeDepth := 30)
@[simp] theorem queueCtx_works (s : State) (c : CtxId) : Works s (queueCtx s c) := by
  unfold queueCtx
  simp +contextual (maxDischargeDepth := 30)
@[simp] theorem settleRunning_works (s : State) (c : CtxId) : Works s (settleRunning s c) := by
  unfold settleRunning
  simp +contextual (maxDischargeDepth := 30)
@[simp] theorem settleSave_works (s : State) (c : CtxId) : Works s (settleSave s c) := by
  unfold settleSave
  simp +contextual (maxDischargeDepth := 30)
@[simp] theorem settleSched_works (s : State) : Works s (settleSched s) := by
  generalize e : (settleSched s) = t
  unfold settleSched at e
  dsimp only at e
  (repeat' split at e) <;> subst e <;> simp +contextual (maxDischargeDepth := 30)
@[simp] theorem endWait_works (s : State) (c : CtxId) (j : Job) (st v0 : Nat) : Works s (endWait s c j st v0) := by
  unfold endWait
  simp +contextual (maxDischargeDepth := 30)
@[simp] theorem ownWait_works (s : State) (c : CtxId) : Works s (ownWait s c) := by
  unfold ownWait
  split <;> simp +contextual (maxDischargeDepth := 30)
@[simp] theorem dealCrit_works (s : State) (c : CtxId) : Works s (dealCrit s c) := by
  unfold dealCrit
  split <;> simp +contextual (maxDischargeDepth := 30)
@[simp] theorem dropBad_works (n : Nat) (c : CtxId) (s : State) : Works s (dropBad n c s) := by
  induction n generalizing s with
  | zero => simp [dropBad]
  | succ n ih =>
    unfold dropBad; split
    · split
      · exact Works.trans (by simp +contextual (maxDischargeDepth := 30)) (ih _)
      · simp
    · simp
@[simp] theorem settleWalker_works (s : State) (c : CtxId) : Works s (settleWalker s c) := by
  simp +contextual (maxDischargeDepth := 30) [settleWalker]
@[simp] theorem endJob_works (s : State) (c : CtxId) (k : BitVec 32) : Works s (endJob s c k) := by
  unfold endJob
  split <;> simp +contextual (maxDischargeDepth := 30)
@[simp] theorem settleTps_works (s : State) (c : CtxId) : Works s (settleTps s c) := by
  unfold settleTps
  exact (endTps_works s c).trans (foldl_works _ (fun u j => endJob_works u c _) _ _)
@[simp] theorem settle_works (s : State) : Works s (settle s) := by
  unfold settle
  simp +contextual (maxDischargeDepth := 30)

/-! ## The rings -/

@[simp] theorem retryRecord_works (s : State) (c : CtxId) : Works s (retryRecord s c) := by
  unfold retryRecord
  dsimp only
  split <;> simp +contextual (maxDischargeDepth := 30)
@[simp] theorem arrive_works (c : CtxId) (headers : Bool) (s : State) (raw : BitVec 512) :
    Works s (arrive c headers s raw) := by
  unfold arrive
  simp +contextual (maxDischargeDepth := 30)
@[simp] theorem askEpoch_works (s : State) (c : CtxId) (j : Job) (tag : BitVec 16) : Works s (askEpoch s c j tag) := by
  unfold askEpoch
  simp +contextual (maxDischargeDepth := 30)
@[simp] theorem holdEpoch_works (s : State) (c : CtxId) : Works s (holdEpoch s c) := by
  unfold holdEpoch
  simp +contextual (maxDischargeDepth := 30)
@[simp] theorem readWord_works (s : State) (c : CtxId) (j : Job) : Works s (readWord s c j) := by
  generalize e : (readWord s c j) = t
  unfold readWord at e
  subst e
  simp +contextual (maxDischargeDepth := 30)
@[simp] theorem wordArrived_works (s : State) (c : CtxId) (w : Nat) : Works s (wordArrived s c w) := by
  unfold wordArrived
  split <;> simp +contextual (maxDischargeDepth := 30)

/-! ## The streams -/

@[simp] theorem refuseTo_works (s : State) (chip : BitVec 16) (engine : Bool) : Works s (refuseTo s chip engine) := by
  generalize e : (refuseTo s chip engine) = t
  unfold refuseTo at e
  (repeat' split at e) <;> subst e <;> simp +contextual (maxDischargeDepth := 30)
@[simp] theorem rewind_works (s : State) (chip : BitVec 16) (engine : Bool) : Works s (rewind s chip engine) := by
  unfold rewind
  split <;> simp +contextual (maxDischargeDepth := 30)
@[simp] theorem dropSpores_works (s : State) (p : Packet → Bool) : Works s (dropSpores s p) := by
  unfold dropSpores
  simp +contextual (maxDischargeDepth := 30)
@[simp] theorem loseGroup_works (s : State) (c : CtxId) : Works s (loseGroup s c) := by
  generalize e : (loseGroup s c) = t
  unfold loseGroup at e
  dsimp only at e
  (repeat' split at e) <;> subst e <;> simp +contextual (maxDischargeDepth := 30)
@[simp] theorem rerunTiles_works (s : State) (cs : List CtxId) : Works s (rerunTiles s cs) := by
  unfold rerunTiles
  simp +contextual (maxDischargeDepth := 30)
@[simp] theorem failReads_works (s : State) (chip : BitVec 16) (engine : Bool) : Works s (failReads s chip engine) := by
  unfold failReads; dsimp only
  refine Works.trans ?_ (foldl_works _ (fun u x => ?_) _ _)
  · simp
  · split <;> simp +contextual (maxDischargeDepth := 30)
theorem QueuesOk.mapPackets {q : Vector CoreQ 80} (f : Packet → Packet) (hf : ∀ k, (f k).state = k.state)
    (h : QueuesOk q) : QueuesOk (vmap (fun q => { q with packets := q.packets.map f }) q) := by
  refine QueuesOk.map _ (fun x => ?_) h
  have := queue_shrinks x.packets (fun k => some (f k)) fun k k' e hk => by
    simp only [Option.some.injEq] at e; subst e; rwa [hf] at hk
  simpa [List.filterMap_eq_map'] using this
@[simp] theorem dropHome_works (s : State) (chip : BitVec 16) (engine : Bool) : Works s (dropHome s chip engine) := by
  unfold dropHome; dsimp only
  generalize hu : dropSpores (rewind s chip engine) _ = u
  have w : Works s u := by rw [← hu]; simp +contextual (maxDischargeDepth := 30)
  refine w.trans ⟨by simp, by simp, fun h => QueuesOk.mapPackets _ (fun k => by split <;> rfl) h⟩
@[simp] theorem endTx_works (s : State) (chip : BitVec 16) (engine : Bool) : Works s (endTx s chip engine) := by
  unfold endTx
  simp +contextual (maxDischargeDepth := 30)
@[simp] theorem loseDest_works (s : State) (chip : BitVec 16) (engine : Bool) (st : PeerState) :
    Works s (loseDest s chip engine st) := by
  unfold loseDest
  simp +contextual (maxDischargeDepth := 30)

/-! ## The models -/

@[simp] theorem enqueueHot_works (c : CtxId) (s : State) (j : Job) : Works s (enqueueHot c s j) := by
  unfold enqueueHot
  simp +contextual (maxDischargeDepth := 30)
@[simp] theorem missFetch_works (s : State) (t : Tile) (i : Nat) (e : HotEntry) : Works s (missFetch s t i e) := by
  unfold missFetch; dsimp only
  generalize hu : (if t.fetching = true then s else _) = u
  have w : Works s u := by rw [← hu]; (repeat' split) <;> simp +contextual (maxDischargeDepth := 30)
  split
  · exact w
  · split
    · exact w
    · rename_i h; exact w.trans ((makeRoom_pair h).trans (startLoad_works ..))

/-! ## The tile path -/

@[simp] theorem joinTp_works (c : CtxId) (s : State) (j : Job) : Works s (joinTp c s j) := by
  unfold joinTp
  simp +contextual (maxDischargeDepth := 30)
@[simp] theorem prepRead_works (s : State) (c : CtxId) (rs : List (Nat × Nat)) (k : State → State) (h : Works s (k s)) :
    Works s (prepRead s c rs k) := reading_works _ _ _ _ _ _ h
@[simp] theorem beginTile_works (s : State) (c : CtxId) (j : TpJob) (inT : TDesc) (p : TileSpec) (ps : List Nat)
    (masked : List Bool) : Works s (beginTile s c j inT p ps masked) := by
  generalize e : (beginTile s c j inT p ps masked) = t
  unfold beginTile at e
  subst e
  simp +contextual (maxDischargeDepth := 30)
@[simp] theorem stageFail_works (s : State) (c : CtxId) (j : TpJob) (st : Nat) : Works s (stageFail s c j st) := by
  generalize e : (stageFail s c j st) = t
  unfold stageFail at e
  (repeat' split at e) <;> subst e <;> simp +contextual (maxDischargeDepth := 30)
@[simp] theorem stageWith_works (s : State) (c : CtxId) (j : TpJob) (inT : TDesc) (p : TileSpec) :
    Works s (stageWith s c j inT p) := by
  unfold stageWith; dsimp only
  split
  · simp
  · refine prepRead_works _ _ _ _ ?_
    split
    · exact stageFail_works ..
    · exact prepRead_works _ _ _ _ (beginTile_works ..)
@[simp] theorem stageNext_works (s : State) (c : CtxId) (j : TpJob) : Works s (stageNext s c j) := by
  unfold stageNext; dsimp only
  (repeat' split) <;> first
    | exact stageFail_works ..
    | exact stageWith_works ..
    | exact prepRead_works _ _ _ _ (prepRead_works _ _ _ _ (stageWith_works ..))
    | simp
@[simp] theorem stageOn_works (s : State) (c : CtxId) : Works s (stageOn s c) := by
  unfold stageOn
  split <;> simp +contextual (maxDischargeDepth := 30)
@[simp] theorem stageBus_works (s : State) (c : CtxId) : Works s (stageBus s c) := by
  unfold stageBus
  dsimp only
  split <;> simp +contextual (maxDischargeDepth := 30)
@[simp] theorem modTok_works (s : State) (t : Tile) (i : Nat) (f : Tok → Tok) : Works s (modTok s t i f) := by
  unfold modTok
  simp +contextual (maxDischargeDepth := 30)
@[simp] theorem readHold_works (s : State) (t : Tile) (i : Nat) (k : Tok) : Works s (readHold s t i k) := by
  generalize e : (readHold s t i k) = t
  unfold readHold at e
  (repeat' split at e) <;> subst e <;> simp +contextual (maxDischargeDepth := 30)
@[simp] theorem holdCame_works (s : State) (t : Tile) (i : Nat) : Works s (holdCame s t i) := by
  unfold holdCame
  split <;> simp +contextual (maxDischargeDepth := 30)
@[simp] theorem dealShares_works (s : State) (t : Tile) : Works s (dealShares s t) := by
  unfold dealShares
  simp +contextual (maxDischargeDepth := 30)
theorem beginScoring_works {s : State} {t : Tile} {i : Nat} {e : HotEntry} {u : State}
    (h : beginScoring s t i e = some u) : Works s u := by
  unfold beginScoring at h
  split at h
  · simp only [Option.some.injEq] at h; subst h; simp
  · simp only [Option.map_eq_some_iff] at h
    obtain ⟨v, hv, rfl⟩ := h
    have w : Works s v := by
      split at hv
      · simp only [Option.map_eq_some_iff] at hv
        obtain ⟨p, hp, rfl⟩ := hv; exact makeRoom_works _ _ _ hp
      · simp only [Option.some.injEq] at hv; subst hv; simp
    refine w.trans ?_
    split <;> simp +contextual (maxDischargeDepth := 30)
@[simp] theorem swapSlice_works (s : State) (l : SliceId) : Works s (swapSlice s l) := by
  generalize e : (swapSlice s l) = t
  unfold swapSlice at e
  (repeat' split at e) <;> subst e <;> simp +contextual (maxDischargeDepth := 30)
@[simp] theorem swapAll_works (s : State) : Works s (swapAll s) := by
  unfold swapAll
  simp +contextual (maxDischargeDepth := 30)
@[simp] theorem broadcast_works (s : State) (t : Tile) : Works s (broadcast s t) := by
  unfold broadcast
  simp +contextual (maxDischargeDepth := 30)
@[simp] theorem setCame_works (s : State) (t : Tile) (e : HotEntry) : Works s (setCame s t e) := by
  unfold setCame
  simp +contextual (maxDischargeDepth := 30)
@[simp] theorem loadSet_works (s : State) (t : Tile) : Works s (loadSet s t) := by
  unfold loadSet
  (repeat' split) <;> try (simp +contextual (maxDischargeDepth := 30); done)
  rename_i h
  refine (beginScoring_works h).trans (again_works _ _ _ fun u x => reading_works _ _ _ _ _ _ ?_)
  exact setCame_works ..
@[simp] theorem setOn_works (s : State) (t : Tile) : Works s (setOn s t) := by
  unfold setOn
  split <;> simp +contextual (maxDischargeDepth := 30)
@[simp] theorem countBeats_works (s : State) (t : Tile) (l : SliceId) (w : Waits) (beats : Nat) :
    Works s (countBeats s t l w beats) := by
  unfold countBeats
  simp +contextual (maxDischargeDepth := 30)
@[simp] theorem endShare_works (s : State) (t : Tile) (l : SliceId) : Works s (endShare s t l) := by
  unfold endShare
  simp +contextual (maxDischargeDepth := 30)
@[simp] theorem againCount_works (s : State) (t : Tile) (k : Tok) : Works s (againCount s t k) := by
  unfold againCount
  split <;> simp +contextual (maxDischargeDepth := 30)
@[simp] theorem putScored_works (s : State) (t : Tile) (i : Nat) (l : SliceId) (k : Tok) (w : Waits) (beats dom : Nat) :
    Works s (putScored s t i l k w beats dom) := by
  unfold putScored; dsimp only
  refine Works.trans ?_ ((again_works _ _ _ fun u x => endShare_works u x l).trans (swapAll_works _))
  simp +contextual (maxDischargeDepth := 30)
@[simp] theorem scoreUnits_works (s : State) (t : Tile) (k : Tok) (l : SliceId) : Works s (scoreUnits s t k l) := by
  unfold scoreUnits
  simp +contextual (maxDischargeDepth := 30)
@[simp] theorem scoreTok_works (s : State) (t : Tile) (i : Nat) (k : Tok) (l : SliceId) (e : HotEntry) (y : List F32)
    (w : Waits) : Works s (scoreTok s t i k l e y w) := by
  unfold scoreTok; dsimp only
  generalize (if ((holdRng s t k).isSome && k.sets == 0) = true then holdTest t k y else k) = k1
  split
  · exact putScored_works ..
  · exact (againCount_works ..).trans (putScored_works ..)
@[simp] theorem selectTok_works (s : State) (t : Tile) (i : Nat) (k : Tok) : Works s (selectTok s t i k) := by
  unfold selectTok
  dsimp only
  split <;> simp +contextual (maxDischargeDepth := 30)

/-! ## Placement -/

@[simp] theorem dealBin_works (course : Nat) (s : State) (t : Tile) (b : Nat) (xs : List (Nat × Nat)) :
    Works s (dealBin course s t b xs) := by
  unfold dealBin
  simp +contextual (maxDischargeDepth := 30)
@[simp] theorem dealCourse_works (pl : CapPlan) (s : State) (t : Tile) (course : Nat) (xs : List Nat) :
    Works s (dealCourse pl s t course xs) := by
  unfold dealCourse
  simp +contextual (maxDischargeDepth := 30)
@[simp] theorem sendSpore_works (s : State) (t : Tile) (n : Fin 32) (tok : Nat) (xs : List Nat) :
    Works s (sendSpore s t n tok xs) := by
  unfold sendSpore
  simp +contextual (maxDischargeDepth := 30)
@[simp] theorem sendSpores_works (act : List (Fin 32)) (s : State) (t : Tile) (xs : List (Nat × Nat)) :
    Works s (sendSpores act s t xs) := by
  unfold sendSpores
  simp +contextual (maxDischargeDepth := 30)
@[simp] theorem setFates_works (act : List (Fin 32)) (s : State) (t : Tile) (fs : List (Nat × Fate)) :
    Works s (setFates act s t fs) := by
  unfold setFates
  simp +contextual (maxDischargeDepth := 30)
@[simp] theorem dispatchTile_works (s : State) (t : Tile) (pl : CapPlan) : Works s (dispatchTile s t pl) := by
  unfold dispatchTile
  simp +contextual (maxDischargeDepth := 30)
@[simp] theorem dropCourses_works (s : State) (t : Tile) : Works s (dropCourses s t) := by
  unfold dropCourses
  simp +contextual (maxDischargeDepth := 30)
@[simp] theorem runCourse_works (s : State) (t : Tile) (pl : CapPlan) (xs : List Nat) :
    Works s (runCourse s t pl xs) := by
  unfold runCourse
  simp +contextual (maxDischargeDepth := 30)

/-! ## The core ports -/

@[simp] theorem countChoice_works (s : State) (k : Packet) (w : BitVec 128) : Works s (countChoice s k w) := by
  unfold countChoice
  simp +contextual (maxDischargeDepth := 30)
@[simp] theorem endFeed_works (s : State) (p : PortId) (k : Packet) : Works s (endFeed s p k) := by
  have w : Works s (modQueue s p (modPkt k.seq fun k => { k with state := .awaiting, places := 0 })) :=
    modPkt_works0 s p _ _ fun k h => by simp at h
  unfold endFeed; dsimp only
  split
  · exact w.trans (freePlaces_works ..)
  · exact w
@[simp] theorem grantUnit_works (s : State) (p : PortId) (k : Packet) : Works s (grantUnit s p k) := by
  unfold grantUnit; dsimp only
  split
  · simp
  · rename_i u rest _
    have key : ∀ s3, Works s s3 → Works s (if rest.isEmpty = true then
        endFeed (modQueue s3 p (modPkt k.seq fun k => { k with feed := rest, since := s.tick })) p k
        else modQueue s3 p (modPkt k.seq fun k => { k with feed := rest, since := s.tick })) := fun s3 w3 => by
      have w4 := w3.trans (modPkt_works0 s3 p k.seq (fun k => { k with feed := rest, since := s.tick }) fun _ h => h)
      split
      · exact w4.trans (endFeed_works ..)
      · exact w4
    refine key _ ?_
    (repeat' split) <;> simp +contextual (maxDischargeDepth := 30)
@[simp] theorem refuseSpores_works (s : State) (ks : List Packet) : Works s (refuseSpores s ks) := by
  unfold refuseSpores
  simp +contextual (maxDischargeDepth := 30)
@[simp] theorem failPort_works (s : State) (p : PortId) : Works s (failPort s p) := by
  unfold failPort; dsimp only
  refine Works.trans (Works.trans ?_ (foldl_works _ (fun u x => abandonAll_works u x _) _ _)) (refuseSpores_works _ _)
  have w : Works s (modQueue s p fun q => { q with packets := [], drainRow := [] }) :=
    modQueue_works _ _ _ ⟨Nat.zero_le _, Nat.zero_le _⟩
  exact w.trans (by simp)

/-! ## Combining -/

@[simp] theorem outWrite_works (s : State) (t : Tile) (i a : Nat) (data : List Byte) :
    Works s (outWrite s t i a data) := by
  generalize e : (outWrite s t i a data) = t
  unfold outWrite at e
  subst e
  simp +contextual (maxDischargeDepth := 30)
@[simp] theorem tileWrite_works (s : State) (t : Tile) (a : Nat) (data : List Byte) (rank : Nat) :
    Works s (tileWrite s t a data rank) := by
  generalize e : (tileWrite s t a data rank) = t
  unfold tileWrite at e
  subst e
  simp +contextual (maxDischargeDepth := 30)
@[simp] theorem writeRow_works (s : State) (t : Tile) (i : Nat) (k : Tok) (td : TDesc) (idx row : Nat)
    (data : List Byte) : Works s (writeRow s t i k td idx row data) := by
  unfold writeRow
  split <;> simp +contextual (maxDischargeDepth := 30)
@[simp] theorem putRow_works (s : State) (t : Tile) (i : Nat) (k : Tok) (mixed : Option (List F32)) :
    Works s (putRow s t i k mixed) := by
  generalize e : (putRow s t i k mixed) = t
  unfold putRow at e
  dsimp only at e
  (repeat' split at e) <;> subst e <;> simp +contextual (maxDischargeDepth := 30)
@[simp] theorem putGrads_works (s : State) (t : Tile) (i : Nat) (k : Tok) : Works s (putGrads s t i k) := by
  unfold putGrads
  simp +contextual (maxDischargeDepth := 30)
@[simp] theorem recordWrite_works (s : State) (t : Tile) (a : Nat) (bs : List Byte) : Works s (recordWrite s t a bs) := by
  unfold recordWrite
  exact (modTile_works ..).trans (tileWrite_works ..)
@[simp] theorem exitRecord_works (t : Tile) (q : Seq) (s : State) (k : Tok) : Works s (exitRecord t q s k) := by
  unfold exitRecord
  simp +contextual (maxDischargeDepth := 30)
@[simp] theorem holdRecord_works (t : Tile) (o : TpOps) (q : Seq) (s : State) (p : Nat × Tok) :
    Works s (holdRecord t o q s p) := by
  unfold holdRecord
  dsimp only
  split <;> simp +contextual (maxDischargeDepth := 30)
@[simp] theorem putRecords_works (s : State) (t : Tile) : Works s (putRecords s t) := by
  unfold putRecords
  dsimp only
  split <;> simp +contextual (maxDischargeDepth := 30)
@[simp] theorem sealTile_works (s : State) (t : Tile) : Works s (sealTile s t) := by
  unfold sealTile
  simp +contextual (maxDischargeDepth := 30)
@[simp] theorem closeTile_works (s : State) (t : Tile) : Works s (closeTile s t) := by
  unfold closeTile
  simp +contextual (maxDischargeDepth := 30)
@[simp] theorem combineTok_works (s : State) (t : Tile) (i : Nat) (k : Tok) : Works s (combineTok s t i k) := by
  unfold combineTok
  simp +contextual (maxDischargeDepth := 30)
@[simp] theorem combineOn_works (s : State) (c : CtxId) (e : BitVec 16) (i : Nat) : Works s (combineOn s c e i) := by
  generalize e : (combineOn s c e i) = t
  unfold combineOn at e
  (repeat' split at e) <;> subst e <;> simp +contextual (maxDischargeDepth := 30)
@[simp] theorem takeFrame_works (s : State) (t : Tile) (i : Nat) (l : SliceId) : Works s (takeFrame s t i l) := by
  unfold takeFrame; dsimp only
  refine Works.trans ?_ (again_works _ _ _ fun u x => ?_)
  · exact Works.trans (by simp) (modTok_works ..)
  · split
    · exact reading_works _ _ _ _ _ _ (combineTok_works ..)
    · simp
@[simp] theorem endCommit_works (s : State) (t : Tile) : Works s (endCommit s t) := by
  unfold endCommit
  simp +contextual (maxDischargeDepth := 30)
@[simp] theorem commitOn_works (s : State) (t : Tile) : Works s (commitOn s t) := by
  unfold commitOn
  simp +contextual (maxDischargeDepth := 30)
@[simp] theorem beginCommit_works (s : State) (t : Tile) : Works s (beginCommit s t) := by
  unfold beginCommit
  simp +contextual (maxDischargeDepth := 30)

/-! ## The reductions -/

@[simp] theorem sendStat_works (s : State) (c : CtxId) (g : GrpPeer) (kind : BitVec 4) (r : Reduction) (l : LayerStat) :
    Works s (sendStat s c g kind r l) := by
  unfold sendStat
  simp +contextual (maxDischargeDepth := 30)
@[simp] theorem applyTotals_works (s : State) (c : CtxId) (r : Reduction) (l : LayerStat) :
    Works s (applyTotals s c r l) := by
  unfold applyTotals
  simp +contextual (maxDischargeDepth := 30)
theorem passDown_works {s : State} {c : CtxId} {r : Reduction} {l : LayerStat} {t : State}
    (e : passDown s c r l = some t) : Works s t := by
  have key : ∀ (xs : List Nat) (a : Option State), (∀ u, a = some u → Works s u) →
      ∀ t, xs.foldl (fun acc i => acc.bind fun s => (partner (s.ctx c) i).map fun g => sendStat s c g 5 r l) a = some t →
        Works s t := by
    intro xs
    induction xs with
    | nil => intro a ha t ht; exact ha t ht
    | cons x xs ih =>
      intro a ha t ht
      refine ih _ (fun u hu => ?_) t ht
      simp only [Option.bind_eq_some_iff, Option.map_eq_some_iff] at hu
      obtain ⟨v, hv, g, _, rfl⟩ := hu
      exact (ha v hv).trans (sendStat_works ..)
  exact key _ _ (fun u hu => by simp only [Option.some.injEq] at hu; subst hu; simp) t e
@[simp] theorem setFirst_works (s : State) (c : CtxId) (r : Reduction) : Works s (setFirst s c r) := by
  unfold setFirst
  simp +contextual (maxDischargeDepth := 30)
@[simp] theorem finishReduction_works (s : State) (c : CtxId) (r : Reduction) (l : LayerStat) :
    Works s (finishReduction s c r l) := by
  unfold finishReduction
  split
  · exact loseGroup_works ..
  · rename_i h; exact (passDown_works h).trans (by simp +contextual (maxDischargeDepth := 30))
@[simp] theorem levelUp_works (s : State) (c : CtxId) (r : Reduction) (l : Nat) : Works s (levelUp s c r l).1 := by
  generalize e : (levelUp s c r l).1 = t
  unfold levelUp at e
  dsimp only at e
  (repeat' split at e) <;> subst e <;> simp +contextual (maxDischargeDepth := 30)
@[simp] theorem reduceOn_works (n : Nat) (c : CtxId) (s : State) : Works s (reduceOn n c s) := by
  induction n generalizing s with
  | zero => simp [reduceOn]
  | succ n ih =>
    unfold reduceOn
    split
    · split
      · dsimp only; split
        · exact (levelUp_works ..).trans (ih _)
        · exact levelUp_works ..
      · simp
    · simp
@[simp] theorem reduce_works (s : State) (c : CtxId) : Works s (reduce s c) := by simp +contextual [reduce]
@[simp] theorem addUp_works (s : State) (m : StatMsg) : Works s (addUp s m) := by
  unfold addUp
  split <;> simp +contextual (maxDischargeDepth := 30)
@[simp] theorem addDown_works (s : State) (m : StatMsg) : Works s (addDown s m) := by
  unfold addDown
  split <;> simp +contextual (maxDischargeDepth := 30)

/-! ## Basol -/

@[simp] theorem chargeBlock_works (s : State) (o : MsgOwner) : Works s (chargeBlock s o) := by
  unfold chargeBlock
  split <;> simp +contextual (maxDischargeDepth := 30)
@[simp] theorem countBegin_works (s : State) (o : MsgOwner) : Works s (countBegin s o) := by
  unfold countBegin
  split <;> simp +contextual (maxDischargeDepth := 30)
@[simp] theorem sendTransfers_works (s : State) (t : TxStream) (bytes : List Byte) :
    Works s (sendTransfers s t bytes) := by
  unfold sendTransfers
  simp +contextual (maxDischargeDepth := 30)
@[simp] theorem sendNext_works (s : State) (t : TxStream) (m : TxMsg) (off : Nat) : Works s (sendNext s t m off) := by
  unfold sendNext
  split <;> simp +contextual (maxDischargeDepth := 30)
@[simp] theorem beginMsg_works (s : State) (t : TxStream) : Works s (beginMsg s t) := by
  unfold beginMsg
  split <;> simp +contextual (maxDischargeDepth := 30)
@[simp] theorem resendBlk_works (s : State) (t : TxStream) (q : BitVec 32) (b : TxBlk) :
    Works s (resendBlk s t q b) := by
  unfold resendBlk
  simp +contextual (maxDischargeDepth := 30)
@[simp] theorem sendBlock_works (s : State) (t : TxStream) : Works s (sendBlock s t) := by
  generalize e : (sendBlock s t) = t
  unfold sendBlock at e
  (repeat' split at e) <;> subst e <;> simp +contextual (maxDischargeDepth := 30)
@[simp] theorem badBlock_works (s : State) (port : Fin 8) : Works s (badBlock s port) := by
  unfold badBlock
  simp +contextual (maxDischargeDepth := 30)
@[simp] theorem forgetPlaces_works (s : State) (chip : BitVec 16) (engine : Bool) :
    Works s (forgetPlaces s chip engine) :=
  ⟨by simp [forgetPlaces], by simp [forgetPlaces], fun h => QueuesOk.mapPackets _ (fun k => by split <;> rfl) h⟩
@[simp] theorem renewRx_works (s : State) (port : Fin 8) (b : Blk) (old : RxStream) :
    Works s (renewRx s port b old) := by
  unfold renewRx
  simp +contextual (maxDischargeDepth := 30)
@[simp] theorem beginRx_works (s : State) (r : RxStream) : Works s (beginRx s r) := by
  unfold beginRx
  simp +contextual (maxDischargeDepth := 30)
@[simp] theorem startRx_works (s : State) (port : Fin 8) (b : Blk) : Works s (startRx s port b) := by
  unfold startRx
  simp +contextual (maxDischargeDepth := 30)
@[simp] theorem holdOff_works (s : State) (port : Fin 8) (b : Blk) : Works s (holdOff s port b) := by
  generalize e : (holdOff s port b) = t
  unfold holdOff at e
  dsimp only at e
  (repeat' split at e) <;> subst e <;> simp +contextual (maxDischargeDepth := 30)
@[simp] theorem hearRx_works (s : State) (r : RxStream) : Works s (hearRx s r) := by
  unfold hearRx
  simp +contextual (maxDischargeDepth := 30)
@[simp] theorem outOfOrder_works (s : State) (r : RxStream) : Works s (outOfOrder s r) := by
  unfold outOfOrder
  simp +contextual (maxDischargeDepth := 30)
@[simp] theorem takeSeq_works (s : State) (r : RxStream) (b : Blk) : Works s (takeSeq s r b) := by
  unfold takeSeq
  simp +contextual (maxDischargeDepth := 30)
@[simp] theorem keepBlock_works (s : State) (b : Blk) : Works s (keepBlock s b) := by
  unfold keepBlock
  simp +contextual (maxDischargeDepth := 30)
@[simp] theorem ackBlock_works (s : State) (chip : BitVec 16) (engine : Bool) : Works s (ackBlock s chip engine) := by
  unfold ackBlock
  split <;> simp +contextual (maxDischargeDepth := 30)
@[simp] theorem goodBlock_works (s : State) (r : RxStream) (b : Blk) : Works s (goodBlock s r b) := by
  unfold goodBlock
  simp +contextual (maxDischargeDepth := 30)
@[simp] theorem acceptBlock_works (s : State) (port : Fin 8) (b : Blk) : Works s (acceptBlock s port b) := by
  generalize e : (acceptBlock s port b) = t
  unfold acceptBlock at e
  dsimp only at e
  (repeat' split at e) <;> subst e <;> simp +contextual (maxDischargeDepth := 30)
@[simp] theorem receiveBlock_works (s : State) (port : Fin 8) (bs : List Byte) : Works s (receiveBlock s port bs) := by
  unfold receiveBlock
  simp +contextual (maxDischargeDepth := 30)
theorem takeMsg_works (s : State) (chip : BitVec 16) (engine : Bool) (kind : BitVec 4) (t)
    (e : takeMsg s chip engine kind = some t) : Works s t.1 := by
  unfold takeMsg at e
  simp only [Option.bind_eq_some_iff] at e
  obtain ⟨r, _, e⟩ := e
  split at e
  · split at e <;> simp at e
    subst e; simp
  · simp at e
@[simp] theorem serveSpore_works (chip : BitVec 16) (engine : Bool) (s : State) (m : RxMsg) :
    Works s (serveSpore chip engine s m) := by
  unfold serveSpore
  simp +contextual (maxDischargeDepth := 30)
@[simp] theorem acceptResult_works (chip : BitVec 16) (engine : Bool) (s : State) (m : RxMsg) :
    Works s (acceptResult chip engine s m) := by
  generalize e : (acceptResult chip engine s m) = t
  unfold acceptResult at e
  (repeat' split at e) <;> subst e <;> simp +contextual (maxDischargeDepth := 30)
@[simp] theorem setFloor_works (s : State) (chip : BitVec 16) (engine : Bool) (ctx : BitVec 4) (floor : BitVec 16) :
    Works s (setFloor s chip engine ctx floor) := by
  unfold setFloor
  simp +contextual (maxDischargeDepth := 30)
@[simp] theorem raiseFloor_works (src : BitVec 16) (eng : Bool) (s : State) (m : RxMsg) :
    Works s (raiseFloor src eng s m) := by
  unfold raiseFloor
  simp +contextual (maxDischargeDepth := 30)
theorem deliverStat_works (f : State → StatMsg → State) (hf : ∀ u x, Works u (f u x)) (chip : BitVec 16) (engine : Bool)
    (s : State) (m : RxMsg) : Works s (deliverStat f chip engine s m) := by
  unfold deliverStat; dsimp only
  split
  · exact (freePlaces_works ..).trans (hf _ _)
  · exact freePlaces_works ..
@[simp] theorem resendFrom_works (s : State) (t : TxStream) : Works s (resendFrom s t) := by
  unfold resendFrom
  split <;> simp +contextual (maxDischargeDepth := 30)
@[simp] theorem hearFrame_works (s : State) (f : CtlFrame) : Works s (hearFrame s f) := by
  unfold hearFrame
  simp +contextual (maxDischargeDepth := 30)
@[simp] theorem nextGen_works (s : State) (t : TxStream) : Works s (nextGen s t) := by
  unfold nextGen
  simp +contextual (maxDischargeDepth := 30)
@[simp] theorem startWaiting_works (s : State) : Works s (startWaiting s) := by
  unfold startWaiting
  split <;> simp +contextual (maxDischargeDepth := 30)
@[simp] theorem releaseTx_works (s : State) (t : TxStream) : Works s (releaseTx s t) := by
  unfold releaseTx
  simp +contextual (maxDischargeDepth := 30)
@[simp] theorem admitWaiter_works (s : State) : Works s (admitWaiter s) := by
  unfold admitWaiter
  split <;> simp +contextual (maxDischargeDepth := 30)
@[simp] theorem linkEffect_works (s : State) (p : Fin 8) (r : LinkReport) : Works s (linkEffect s p r) := by
  unfold linkEffect
  split <;> simp +contextual (maxDischargeDepth := 30)
@[simp] theorem refreshPeers_works (s : State) : Works s (refreshPeers s) := by
  unfold refreshPeers
  simp +contextual (maxDischargeDepth := 30)
@[simp] theorem restartTx_works (s : State) (chip : BitVec 16) (engine : Bool) : Works s (restartTx s chip engine) := by
  unfold restartTx
  split <;> simp +contextual (maxDischargeDepth := 30)
@[simp] theorem peerCfg_works (s : State) (n : Fin 32) (w : Nat) : Works s (peerCfg s n w) := by
  unfold peerCfg
  simp +contextual (maxDischargeDepth := 30)

/-! ## The contexts -/

@[simp] theorem flushRecs_works (s : State) (c : CtxId) : Works s (flushRecs s c) := by
  unfold flushRecs
  simp +contextual (maxDischargeDepth := 30)
@[simp] theorem abortBoundary_works (s : State) (c : CtxId) : Works s (abortBoundary s c) := by
  unfold abortBoundary
  simp +contextual (maxDischargeDepth := 30)
@[simp] theorem clearSave_works (s : State) (c : CtxId) : Works s (clearSave s c) := by
  generalize e : (clearSave s c) = t
  unfold clearSave at e
  subst e
  simp +contextual (maxDischargeDepth := 30)
@[simp] theorem resetCtx_works (s : State) (c : CtxId) : Works s (resetCtx s c) := by
  unfold resetCtx
  simp +contextual (maxDischargeDepth := 30)
@[simp] theorem loadMode_works (s : State) (c : CtxId) : Works s (loadMode s c) := by
  unfold loadMode
  simp +contextual (maxDischargeDepth := 30)
@[simp] theorem completeCrit_works (s : State) (p : CritPath) (st v0 v1 v2 : Nat) :
    Works s (completeCrit s p st v0 v1 v2) := by
  generalize e : (completeCrit s p st v0 v1 v2) = t
  unfold completeCrit at e
  (repeat' split at e) <;> subst e <;> simp +contextual (maxDischargeDepth := 30)
@[simp] theorem applyMode_works (s : State) (c : CtxId) : Works s (applyMode s c) := by
  unfold applyMode
  split <;> simp +contextual (maxDischargeDepth := 30)
@[simp] theorem freeCtx_works (s : State) (c : CtxId) : Works s (freeCtx s c) := by
  unfold freeCtx
  simp +contextual (maxDischargeDepth := 30)
@[simp] theorem enableCtx_works (s : State) (c : CtxId) : Works s (enableCtx s c) := by
  unfold enableCtx
  simp +contextual (maxDischargeDepth := 30)
@[simp] theorem disableCtx_works (s : State) (c : CtxId) : Works s (disableCtx s c) := by
  unfold disableCtx
  simp +contextual (maxDischargeDepth := 30)
@[simp] theorem requestReset_works (s : State) (c : CtxId) : Works s (requestReset s c) := by
  unfold requestReset
  simp +contextual (maxDischargeDepth := 30)
@[simp] theorem clearAcct_works (s : State) (c : CtxId) : Works s (clearAcct s c) := by
  unfold clearAcct
  simp +contextual (maxDischargeDepth := 30)
@[simp] theorem writeCtl_works (s : State) (c : CtxId) (w : Nat) : Works s (writeCtl s c w) := by
  unfold writeCtl
  simp +contextual (maxDischargeDepth := 30)
@[simp] theorem endDrain_works (s : State) (c : CtxId) : Works s (endDrain s c) := by
  unfold endDrain
  simp +contextual (maxDischargeDepth := 30)
@[simp] theorem runCtx_works (s : State) (c : CtxId) : Works s (runCtx s c) := by
  generalize e : (runCtx s c) = t
  unfold runCtx at e
  (repeat' split at e) <;> subst e <;> simp +contextual (maxDischargeDepth := 30)
@[simp] theorem resume_works (s : State) (c : CtxId) : Works s (resume s c) := by
  unfold resume
  simp +contextual (maxDischargeDepth := 30)
@[simp] theorem quantumPreempt_works (s : State) : Works s (quantumPreempt s) := by
  unfold quantumPreempt
  split <;> simp +contextual (maxDischargeDepth := 30)
@[simp] theorem leavePreempting_works (s : State) (c : CtxId) (n : BitVec 32) : Works s (leavePreempting s c n) := by
  unfold leavePreempting
  simp +contextual (maxDischargeDepth := 30)
/-! ## DMA -/

@[simp] theorem dealDma_works (c : CtxId) (s : State) (j : Job) : Works s (dealDma c s j) := by
  unfold dealDma
  simp +contextual (maxDischargeDepth := 30)
@[simp] theorem issueBurst_works (s : State) (ch : ChanId) : Works s (issueBurst s ch) := by
  unfold issueBurst
  simp +contextual (maxDischargeDepth := 30)
@[simp] theorem chanDisable_works (s : State) (ch : ChanId) : Works s (chanDisable s ch) := by
  unfold chanDisable
  dsimp only
  split <;> simp +contextual (maxDischargeDepth := 30)
@[simp] theorem writeDmaCtl_works (s : State) (ch : ChanId) (w : Nat) : Works s (writeDmaCtl s ch w) := by
  unfold writeDmaCtl
  simp +contextual (maxDischargeDepth := 30)

/-! ## The movers -/

@[simp] theorem dealMover_works (c : CtxId) (s : State) (j : Job) : Works s (dealMover c s j) := by
  unfold dealMover
  simp +contextual (maxDischargeDepth := 30)
@[simp] theorem answerWait_works (s : State) (c : CtxId) (j : Job) (tag : BitVec 16) (bs : List Byte) :
    Works s (answerWait s c j tag bs) := by
  unfold answerWait
  split <;> simp +contextual (maxDischargeDepth := 30)
@[simp] theorem waitAnswer_works (s : State) (c : CtxId) (chip : BitVec 16) (engine : Bool) (bs : List Byte) :
    Works s (waitAnswer s c chip engine bs) := by
  unfold waitAnswer
  split <;> simp +contextual (maxDischargeDepth := 30)
@[simp] theorem chanAnswer_works (s : State) (ch : ChanId) (m : MoverRun) (q : RReq) (bs : List Byte) :
    Works s (chanAnswer s ch m q bs) := by
  generalize e : (chanAnswer s ch m q bs) = t
  unfold chanAnswer at e
  (repeat' split at e) <;> subst e <;> simp +contextual (maxDischargeDepth := 30)
@[simp] theorem acceptData_works (chip : BitVec 16) (engine : Bool) (s : State) (m : RxMsg) :
    Works s (acceptData chip engine s m) := by
  generalize e : (acceptData chip engine s m) = t
  unfold acceptData at e
  dsimp only at e
  (repeat' split at e) <;> subst e <;> simp +contextual (maxDischargeDepth := 30)
@[simp] theorem resendReqs_works (s : State) (ch : ChanId) (m : MoverRun) (src : TDesc) :
    Works s (resendReqs s ch m src) := by
  unfold resendReqs
  simp +contextual (maxDischargeDepth := 30)

/-! ## The security commands -/

@[simp] theorem writeDiag_works (s : State) : Works s (writeDiag s) := by
  unfold writeDiag
  simp +contextual (maxDischargeDepth := 30)
@[simp] theorem dropPlaces_works (s : State) : Works s (dropPlaces s) :=
  ⟨by simp [dropPlaces], by simp [dropPlaces], fun h => QueuesOk.mapPackets _ (fun k => by split <;> rfl) h⟩
@[simp] theorem dropRemote_works (s : State) : Works s (dropRemote s) := by
  unfold dropRemote
  simp +contextual (maxDischargeDepth := 30)
@[simp] theorem dropGroup_works (s : State) (c : CtxId) : Works s (dropGroup s c) := by
  unfold dropGroup
  simp +contextual (maxDischargeDepth := 30)
@[simp] theorem dropWait_works (s : State) (c : CtxId) : Works s (dropWait s c) := by
  unfold dropWait
  split <;> simp +contextual (maxDischargeDepth := 30)
@[simp] theorem dropStreams_works (s : State) : Works s (dropStreams s) := by
  have k : ∀ (u : State) l, Works u
      { u with txWait := [], rx := [], rxPast := [], rxWait := [], readPend := l, serving := [] } := fun u l => by simp
  unfold dropStreams; dsimp only
  refine Works.trans ?_ (foldl_works _ (fun u x => by simp +contextual (maxDischargeDepth := 30)) _ _)
  refine Works.trans ?_ (dropRemote_works _)
  refine Works.trans ?_ (dropPlaces_works _)
  refine Works.trans ?_ (dropSpores_works ..)
  refine Works.trans ?_ (foldl_works _ (fun u x => nextGen_works u x) _ _)
  exact (killReads_works s _).trans (k _ _)
@[simp] theorem answerSafe_works (s : State) (c : CtxId) : Works s (answerSafe s c) := by
  unfold answerSafe
  simp +contextual (maxDischargeDepth := 30)
@[simp] theorem freeUnit_works (s : State) : Works s (freeUnit s) := by
  unfold freeUnit
  simp +contextual (maxDischargeDepth := 30)
@[simp] theorem endCrit_works (s : State) (p : CritPath) (st v0 v1 v2 : Nat) : Works s (endCrit s p st v0 v1 v2) := by
  unfold endCrit
  simp +contextual (maxDischargeDepth := 30)
@[simp] theorem critSafe_works (s : State) : Works s (critSafe s) := by
  unfold critSafe
  refine Works.trans (t := { s with sec := { s.sec with order := s.sec.order.filter (· == .setup) } }) (by simp)
    (foldl_works _ (fun u x => ?_) _ _)
  split
  · simp
  · exact completeCrit_works ..
@[simp] theorem countViolation_works (s : State) (src : Fin 4) : Works s (countViolation s src) := by
  unfold countViolation
  simp +contextual (maxDischargeDepth := 30)
@[simp] theorem createCtx_works (s : State) (b : Nat) : Works s (createCtx s b) := by
  unfold createCtx
  simp +contextual (maxDischargeDepth := 30)
@[simp] theorem destroyCtx_works (s : State) (c : CtxId) : Works s (destroyCtx s c) := by
  unfold destroyCtx
  simp +contextual (maxDischargeDepth := 30)
@[simp] theorem regulateCtx_works (s : State) (b : Nat) : Works s (regulateCtx s b) := by
  unfold regulateCtx
  simp +contextual (maxDischargeDepth := 30)
@[simp] theorem startQuiesce_works (s : State) (q : Quiesce) : Works s (startQuiesce s q) := by
  unfold startQuiesce
  simp +contextual (maxDischargeDepth := 30)
@[simp] theorem done_works (s : State) (p : CritPath) (e v1 : Nat) : Works s (done s p e v1) := by
  unfold done
  simp +contextual (maxDischargeDepth := 30)
@[simp] theorem changeMode_works (s : State) (p : CritPath) (e b : Nat) : Works s (changeMode s p e b) := by
  unfold changeMode
  simp +contextual (maxDischargeDepth := 30)
@[simp] theorem settleOn_works (s : State) : Works s (settleOn s) := by
  unfold settleOn
  simp +contextual (maxDischargeDepth := 30)

/-! ## The tables -/

@[simp] theorem addTensor_works (s : State) (c : CtxId) (i : Nat) (t : TDesc) (entries : List Nat) :
    Works s (addTensor s c i t entries) := by
  unfold addTensor
  simp +contextual (maxDischargeDepth := 30)
@[simp] theorem tableReading_works (s : State) (c : CtxId) (a n : Nat) (k : State → State) (h : Works s (k s)) :
    Works s (tableReading s c a n k) := reading_works _ _ _ _ _ _ h
@[simp] theorem endCreate_works (s : State) (c : CtxId) (j : Job) (st v0 v1 : Nat) :
    Works s (endCreate s c j st v0 v1) := by
  unfold endCreate
  simp +contextual (maxDischargeDepth := 30)
@[simp] theorem createTensor_works (s : State) (c : CtxId) (j : Job) (n : Nat) : Works s (createTensor s c j n) := by
  unfold createTensor; dsimp only
  (repeat' split) <;> simp +contextual (maxDischargeDepth := 30)
@[simp] theorem createStep_works (s : State) (c : CtxId) (j : Job) : Works s (createStep s c j) := by
  unfold createStep
  simp +contextual (maxDischargeDepth := 30)
@[simp] theorem createOn_works (n : Nat) (c : CtxId) (s : State) : Works s (createOn n c s) := by
  induction n generalizing s with
  | zero => simp [createOn]
  | succ n ih =>
    unfold createOn; dsimp only
    (repeat' split)
    · simp
    · exact createStep_works ..
    · exact (createStep_works ..).trans (ih _)
@[simp] theorem tableStep_works (s : State) (c : CtxId) : Works s (tableStep s c) := createOn_works ..
@[simp] theorem tableFailed_works (s : State) (c : CtxId) : Works s (tableFailed s c) := by
  unfold tableFailed
  split <;> simp +contextual (maxDischargeDepth := 30)
@[simp] theorem beginReductions_works (s : State) (c : CtxId) (step : BitVec 64) :
    Works s (beginReductions s c step) := by
  unfold beginReductions
  simp +contextual (maxDischargeDepth := 30)
@[simp] theorem runBoundary_works (s : State) (c : CtxId) (j : Job) : Works s (runBoundary s c j) := by
  generalize e : (runBoundary s c j) = t
  unfold runBoundary at e
  subst e
  simp +contextual (maxDischargeDepth := 30)
@[simp] theorem endBoundary_works (c : CtxId) (s : State) (d : UnitId × Job) : Works s (endBoundary c s d) := by
  generalize e : (endBoundary c s d) = t
  unfold endBoundary at e
  (repeat' split at e) <;> subst e <;> simp +contextual (maxDischargeDepth := 30)
@[simp] theorem endStep_works (s : State) (c : CtxId) (j : Job) (st v1 : Nat) : Works s (endStep s c j st v1) := by
  unfold endStep
  simp +contextual (maxDischargeDepth := 30)
@[simp] theorem advanceStep_works (s : State) (c : CtxId) : Works s (advanceStep s c) := by
  generalize e : (advanceStep s c) = t
  unfold advanceStep at e
  (repeat' split at e) <;> subst e <;> simp +contextual (maxDischargeDepth := 30)

/-! ## The memory port -/

@[simp] theorem dropGot_works (s : State) : Works s (dropGot s) := by
  unfold dropGot
  simp +contextual (maxDischargeDepth := 30)
theorem onTile_works (s : State) (c : CtxId) (e : BitVec 16) (f : State → Tile → State) (h : ∀ u x, Works u (f u x)) :
    Works s (onTile s c e f) := by
  unfold onTile; split
  · exact h _ _
  · simp
@[simp] theorem readsDone_works (s : State) (o : MemOwner) : Works s (readsDone s o) := by
  unfold readsDone; dsimp only
  (repeat' split) <;> try (simp +contextual (maxDischargeDepth := 30); done)
  all_goals refine onTile_works _ _ _ _ fun u x => ?_
  all_goals simp +contextual (maxDischargeDepth := 30)
theorem answered_works (s : State) (o : MemOwner) (f : State → State) (h : Works s (f s)) :
    Works s (answered s o f) := by
  unfold answered; split
  · exact h.trans ((settleOn_works _).trans (dropGot_works _))
  · simp
@[simp] theorem writeReturned_works (s : State) (r : MemReq) : Works s (writeReturned s r) := by
  unfold writeReturned
  (repeat' split) <;> try (simp +contextual (maxDischargeDepth := 30); done)
  all_goals refine onTile_works _ _ _ _ fun u x => ?_
  all_goals simp +contextual (maxDischargeDepth := 30)
@[simp] theorem failTile_works (s : State) (c : CtxId) (e : BitVec 16) : Works s (failTile s c e) := by
  unfold failTile; exact onTile_works _ _ _ _ fun u x => by simp +contextual (maxDischargeDepth := 30)
@[simp] theorem unitError_works (s : State) (o : MemOwner) (h : o ≠ .crit) : Works s (unitError s o) := by
  unfold unitError
  (repeat' split) <;> first
    | exact absurd rfl h
    | simp +contextual (maxDischargeDepth := 30)
@[simp] theorem hostError_works (s : State) (c : CtxId) : Works s (hostError s c) := by
  unfold hostError
  simp +contextual (maxDischargeDepth := 30)
@[simp] theorem diagGood_works (s : State) (k : Nat) : Works s (diagGood s k) := by
  unfold diagGood
  split <;> simp +contextual (maxDischargeDepth := 30)
@[simp] theorem diagBad_works (s : State) (k : Nat) : Works s (diagBad s k) := by
  unfold diagBad
  simp +contextual (maxDischargeDepth := 30)
@[simp] theorem hostGood_works (s : State) (h : HostReq) (data : List Byte) : Works s (hostGood s h data) := by
  unfold hostGood
  split <;> simp +contextual (maxDischargeDepth := 30)
@[simp] theorem hostBad_works (s : State) (o : HostOwner) : Works s (hostBad s o) := by
  unfold hostBad
  split <;> simp +contextual (maxDischargeDepth := 30)
theorem hostAnswered_works (s : State) (o : HostOwner) (f : State → State) (h : Works s (f s)) :
    Works s (hostAnswered s o f) := by
  unfold hostAnswered; (repeat' split)
  · exact h.trans ((settle_works _).trans (dropGot_works _))
  · exact h
  · simp

/-! ## Start-up -/

@[simp] theorem throttling_works (s : State) : Works s (throttling s) := by
  unfold throttling
  simp +contextual (maxDischargeDepth := 30)
@[simp] theorem underCeiling_works (s : State) : Works s (underCeiling s) := by
  unfold underCeiling
  simp +contextual (maxDischargeDepth := 30)
@[simp] theorem publishRecord_works (s : State) (r : SensorRec) : Works s (publishRecord s r) := by
  unfold publishRecord
  simp +contextual (maxDischargeDepth := 30)
@[simp] theorem wipeSram_works (s : State) : Works s (wipeSram s) :=
  ⟨by simp [wipeSram], by simp [wipeSram], fun h => QueuesOk.map _ (fun x => ⟨Nat.zero_le _, Nat.zero_le _⟩) h⟩
@[simp] theorem testOor_works (s : State) (out : Bool) : Works s (testOor s out) := by
  unfold testOor
  simp +contextual (maxDischargeDepth := 30)
@[simp] theorem logTest_works (s : State) (r : SelfTestResult) : Works s (logTest s r) := by
  unfold logTest
  simp +contextual (maxDischargeDepth := 30)

/-! ## The register file -/

@[simp] theorem setupError_works (s : State) : Works s (setupError s) := by
  unfold setupError
  simp +contextual (maxDischargeDepth := 30)
@[simp] theorem readEffect_works (s : State) (o : Nat) (r : SetupReg) : Works s (readEffect s o r) := by
  cases r <;> simp [readEffect]
@[simp] theorem readReg_works (s : State) (o : Nat) : Works s (readReg s o) := by
  unfold readReg
  (repeat' split) <;> simp +contextual
@[simp] theorem snapshot_works (s : State) (w : Nat) : Works s (snapshot s w) := by
  unfold snapshot
  simp +contextual (maxDischargeDepth := 30)
@[simp] theorem ringWrite_works (s : State) (c : CtxId) (f : Ctx → Ctx) : Works s (ringWrite s c f) := by
  unfold ringWrite
  simp +contextual (maxDischargeDepth := 30)
@[simp] theorem groupWrite_works (s : State) (c : CtxId) (ok : Bool) (f : Ctx → Ctx) :
    Works s (groupWrite s c ok f) := by
  unfold groupWrite
  simp +contextual (maxDischargeDepth := 30)
@[simp] theorem writeCtxReg_works (s : State) (c : CtxId) (r : CtxReg) (w : Nat) : Works s (writeCtxReg s c r w) := by
  unfold writeCtxReg
  split <;> simp +contextual (maxDischargeDepth := 30)
@[simp] theorem go_works (s : State) (w : Nat) : Works s (go s w) := by
  unfold go
  simp +contextual (maxDischargeDepth := 30)
@[simp] theorem tdcWrite_works (s : State) (w : Nat) : Works s (tdcWrite s w) := by
  unfold tdcWrite
  simp +contextual (maxDischargeDepth := 30)
@[simp] theorem zeroTeleEng_works (s : State) : Works s (zeroTeleEng s) := by
  unfold zeroTeleEng
  simp +contextual (maxDischargeDepth := 30)
@[simp] theorem zeroTeleCtx_works (s : State) (c : CtxId) : Works s (zeroTeleCtx s c) := by
  unfold zeroTeleCtx
  simp +contextual (maxDischargeDepth := 30)
@[simp] theorem teleWrite_works (s : State) (w : Nat) : Works s (teleWrite s w) := by
  unfold teleWrite
  simp +contextual (maxDischargeDepth := 30)
@[simp] theorem writeEffect_works (s : State) (r : SetupReg) (w : Nat) : Works s (writeEffect s r w) := by
  unfold writeEffect
  split <;> simp +contextual (maxDischargeDepth := 30)
@[simp] theorem writeReg_works (s : State) (o w : Nat) (enables : BitVec 4) : Works s (writeReg s o w enables) := by
  unfold writeReg
  split <;> simp +contextual (maxDischargeDepth := 30)

end Sys2Proof.Machine
end

