-- ==== Sys2Proof/Laws/Answers.lean ====
section
/-!
SUPPORT. The shared shapes of a meaning: what each answers, and that a meaning which only works answers a next state that
keeps what the units' work keeps.
-/
namespace Sys2Proof.Machine

/-- A next state, the queue untouched, reached by the units' work alone. -/
def Answers (s : State) (r : Res) : Prop := ∃ t, r = .next t ∧ t.pending = s.pending ∧ Works s t

/-! ## Which branch a shape takes -/

theorem guarded_true {s : State} {b : Bool} {f : State → State} (h : b = true) : guarded s b f = finish s (f s) := by
  simp [guarded, h]
theorem guarded_false {s : State} {b : Bool} {f : State → State} (h : b = false) : guarded s b f = finish s s := by
  simp [guarded, h]
@[simp] theorem finish_self (s : State) : finish s s = .next s := rfl
theorem working_true {s : State} {b : Bool} {f : State → State} (hl : s.live = true) (h : b = true) :
    working s b f = becomes s (f s) := by simp [working, guarded, hl, h, becomes]
theorem working_false {s : State} {b : Bool} {f : State → State} (h : (s.live && b) = false) :
    working s b f = .next s := by simp [working, guarded, h]
theorem running_true {s : State} {b : Bool} {f : State → State} (hu : s.up = true) (h : b = true) :
    running s b f = becomes s (f s) := by simp [running, guarded, hu, h, becomes]
theorem running_false {s : State} {b : Bool} {f : State → State} (h : (s.up && b) = false) :
    running s b f = .next s := by simp [running, guarded, h]
theorem live_of_up {s : State} (h : s.up = true) : s.live = true := by
  simp [State.live, State.up] at *; exact .inl h

/-- A descriptor at the front that its unit accepts is dealt. -/
theorem dealing_front {s : State} {c : CtxId} {op : Nat} {p : Job → Bool} {f : State → Job → State} {j : Job}
    (h : AtFront s c op j) (hp : p j = true) : dealing s c op p f = becomes s (f (dealTo s c (unitOf j) j) j) := by
  obtain ⟨⟨hu, hf, ho, hc⟩, hn⟩ := h
  simp [dealing, hf, running, guarded, hu, ho, hp, hn, hc, becomes, dealTo]
/-- A descriptor that a check of fetch passes is dealt. -/
theorem dealChecked_none {s : State} {c : CtxId} {op : Nat} {p : Job → Bool} {ck : Job → Option Nat}
    {g f : State → Job → State} {j : Job} (h : AtFront s c op j) (hp : p j = true) (hc : ck j = none) :
    dealChecked s c op p ck g f = becomes s (f (g (dealTo s c (unitOf j) j) j) j) := by
  have h' := h
  obtain ⟨⟨hu, hf, ho, hb⟩, hn⟩ := h
  simp only [dealChecked, hf, ho, hp, hc, hb]; simp; exact dealing_front h' hp
/-- A descriptor that a check of fetch ends leaves with an error record. -/
theorem dealChecked_some {s : State} {c : CtxId} {op : Nat} {p : Job → Bool} {ck : Job → Option Nat}
    {g f : State → Job → State} {j : Job} {st : Nat} (h : Fetched s c op j) (hp : p j = true) (hc : ck j = some st) :
    dealChecked s c op p ck g f = becomes s (rejectFront (g s j) c j st) := by
  obtain ⟨hu, hf, ho, hb⟩ := h
  simp [dealChecked, hf, ho, hp, hc, hb, running, guarded, hu, becomes, rejectFront]

/-! ## What a shape answers -/

theorem answers_finish {s t : State} (h : Works s t) : Answers s (finish s t) := ⟨_, rfl, rfl, by simpa using h⟩
theorem answers_self (s : State) : Answers s (finish s s) := answers_finish (by simp)
theorem answers_guarded {s : State} {b : Bool} {f : State → State} (h : b = true → Works s (f s)) :
    Answers s (guarded s b f) := by
  unfold guarded; apply answers_finish
  split
  · exact h (by assumption)
  · simp
theorem answers_becomes {s t : State} (h : Works s t) : Answers s (becomes s t) :=
  answers_finish (h.trans (settle_works t))
theorem answers_working {s : State} {b : Bool} {f : State → State} (h : b = true → Works s (f s)) :
    Answers s (working s b f) :=
  answers_guarded fun hb => (h (by simp at hb; exact hb.2)).trans (settle_works _)
theorem answers_running {s : State} {b : Bool} {f : State → State} (h : b = true → Works s (f s)) :
    Answers s (running s b f) :=
  answers_guarded fun hb => (h (by simp at hb; exact hb.2)).trans (settle_works _)
theorem answers_dealing {s : State} {c : CtxId} {op : Nat} {p : Job → Bool} {f : State → Job → State}
    (h : ∀ u j, Works u (f u j)) : Answers s (dealing s c op p f) := by
  unfold dealing; split
  · exact answers_self s
  · exact answers_running fun _ => (modCtx_works ..).trans (h _ _)
theorem answers_dealChecked {s : State} {c : CtxId} {op : Nat} {p : Job → Bool} {ck : Job → Option Nat}
    {g f : State → Job → State} (hg : ∀ u j, Works u (g u j)) (h : ∀ u j, Works u (f u j)) :
    Answers s (dealChecked s c op p ck g f) := by
  unfold dealChecked; split
  · exact answers_self s
  · split
    · exact answers_running fun _ => (hg _ _).trans ((modCtx_works ..).trans (completeErr_works ..))
    · exact answers_dealing fun _ _ => (hg _ _).trans (h _ _)
theorem answers_handling {s : State} {chip : BitVec 16} {engine : Bool} {kind : BitVec 4} {f : State → RxMsg → State}
    (h : ∀ u m, Works u (f u m)) : Answers s (handling s chip engine kind f) := by
  unfold handling; split
  · exact answers_self s
  · rename_i h1; exact answers_running fun _ => (takeMsg_works _ _ _ _ _ h1).trans (h _ _)

/-! ## What each meaning answers -/

theorem execTileRoute_answers (c : CtxId) (s : State) : Answers s (execTileRoute c s) :=
  answers_dealing fun _ _ => (by simp +contextual (maxDischargeDepth := 30))
theorem execTileCombine_answers (c : CtxId) (s : State) : Answers s (execTileCombine c s) :=
  answers_dealing fun _ _ => (by simp +contextual (maxDischargeDepth := 30))
theorem execTileReverse_answers (c : CtxId) (s : State) : Answers s (execTileReverse c s) :=
  answers_dealing fun _ _ => (by simp +contextual (maxDischargeDepth := 30))
theorem execXformCopy_answers (c : CtxId) (s : State) : Answers s (execXformCopy c s) :=
  answers_dealChecked (fun u j => countFree_works c u j) fun u j => dealMover_works c u j
theorem execGather_answers (c : CtxId) (s : State) : Answers s (execGather c s) :=
  answers_dealChecked (fun u j => countFree_works c u j) fun u j => dealMover_works c u j
theorem execScatterAcc_answers (c : CtxId) (s : State) : Answers s (execScatterAcc c s) :=
  answers_dealChecked (fun u j => countFree_works c u j) fun u j => dealMover_works c u j
theorem execTranspose_answers (c : CtxId) (s : State) : Answers s (execTranspose c s) :=
  answers_dealChecked (fun u j => countFree_works c u j) fun u j => dealMover_works c u j
theorem execExpand_answers (c : CtxId) (s : State) : Answers s (execExpand c s) :=
  answers_dealChecked (fun u j => countFree_works c u j) fun u j => dealMover_works c u j
theorem execDmaCopy_answers (c : CtxId) (s : State) : Answers s (execDmaCopy c s) :=
  answers_dealChecked (fun _ _ => by simp +contextual) fun _ _ => (by simp +contextual (maxDischargeDepth := 30))
theorem execDmaFill_answers (c : CtxId) (s : State) : Answers s (execDmaFill c s) :=
  answers_dealChecked (fun _ _ => by simp +contextual) fun _ _ => (by simp +contextual (maxDischargeDepth := 30))
theorem execDmaCompare_answers (c : CtxId) (s : State) : Answers s (execDmaCompare c s) :=
  answers_dealChecked (fun _ _ => by simp +contextual) fun _ _ => (by simp +contextual (maxDischargeDepth := 30))
theorem execSeqJoin_answers (c : CtxId) (s : State) : Answers s (execSeqJoin c s) :=
  answers_dealing fun _ _ => (by simp +contextual (maxDischargeDepth := 30))
theorem execSeqLeave_answers (c : CtxId) (s : State) : Answers s (execSeqLeave c s) :=
  answers_dealing fun _ _ => by dsimp only; (repeat' split) <;> simp +contextual (maxDischargeDepth := 30)
theorem execStepBuild_answers (c : CtxId) (s : State) : Answers s (execStepBuild c s) := by
  refine answers_dealing fun _ _ => ?_
  (repeat' split) <;> simp +contextual (maxDischargeDepth := 30)
theorem execModelLoad_answers (c : CtxId) (s : State) : Answers s (execModelLoad c s) :=
  answers_dealing fun _ _ => (by simp +contextual (maxDischargeDepth := 30))
theorem execModelUnpin_answers (c : CtxId) (s : State) : Answers s (execModelUnpin c s) :=
  answers_dealing fun _ _ => (by simp +contextual (maxDischargeDepth := 30))
theorem execModelPin_answers (c : CtxId) (s : State) : Answers s (execModelPin c s) :=
  answers_dealing fun _ _ => (by simp +contextual (maxDischargeDepth := 30))
theorem execModelForget_answers (c : CtxId) (s : State) : Answers s (execModelForget c s) :=
  answers_dealing fun _ _ => (by simp +contextual (maxDischargeDepth := 30))
theorem execFence_answers (c : CtxId) (s : State) : Answers s (execFence c s) :=
  answers_dealing fun _ _ => (by simp +contextual (maxDischargeDepth := 30))
theorem execFenceRelease_answers (c : CtxId) (s : State) : Answers s (execFenceRelease c s) := by
  unfold execFenceRelease
  dsimp only
  (repeat' split) <;> first
    | exact answers_self s
    | exact answers_working fun _ => by simp +contextual (maxDischargeDepth := 30)
theorem execEpochWaitOwner_answers (c : CtxId) (s : State) : Answers s (execEpochWaitOwner c s) :=
  answers_dealing fun _ _ => (by simp +contextual (maxDischargeDepth := 30))
theorem execEpochWaitWord_answers (c : CtxId) (s : State) : Answers s (execEpochWaitWord c s) := by
  refine answers_dealing fun _ _ => ?_
  (repeat' split) <;> simp +contextual (maxDischargeDepth := 30)
theorem execEpochWaitPoll_answers (c : CtxId) (s : State) : Answers s (execEpochWaitPoll c s) := by
  unfold execEpochWaitPoll
  split
  · exact answers_working fun _ => by simp +contextual (maxDischargeDepth := 30)
  · exact answers_self s
theorem execTdescCreate_answers (c : CtxId) (s : State) : Answers s (execTdescCreate c s) :=
  answers_dealing fun u _ => tableStep_works u c
theorem execTdescDestroy_answers (c : CtxId) (s : State) : Answers s (execTdescDestroy c s) := by
  refine answers_dealing fun _ _ => ?_
  (repeat' split) <;> simp +contextual (maxDischargeDepth := 30)
theorem execTdescFree_answers (c : CtxId) (s : State) : Answers s (execTdescFree c s) := by
  unfold execTdescFree
  split
  · exact answers_self s
  · exact answers_working fun _ => by simp +contextual (maxDischargeDepth := 30)
theorem execCtxEnable_answers (ctx : CtxId) (word : Reg) (s : State) : Answers s (execCtxEnable ctx word s) :=
  answers_finish (by simp +contextual (maxDischargeDepth := 30))
theorem execCtxDisable_answers (ctx : CtxId) (word : Reg) (s : State) : Answers s (execCtxDisable ctx word s) :=
  answers_finish (by simp +contextual (maxDischargeDepth := 30))
theorem execCtxReset_answers (ctx : CtxId) (word : Reg) (s : State) : Answers s (execCtxReset ctx word s) :=
  answers_finish (by simp +contextual (maxDischargeDepth := 30))
theorem execClearAcct_answers (ctx : CtxId) (word : Reg) (s : State) : Answers s (execClearAcct ctx word s) :=
  answers_finish (by simp +contextual (maxDischargeDepth := 30))
theorem execDrainEnd_answers (c : CtxId) (s : State) : Answers s (execDrainEnd c s) :=
  answers_working fun _ => (by simp +contextual (maxDischargeDepth := 30))
theorem execRingConfigWrite_answers (ctx : CtxId) (reg : RingReg) (word : Reg) (s : State) :
    Answers s (execRingConfigWrite ctx reg word s) :=
  answers_finish (by simp +contextual (maxDischargeDepth := 30))
theorem execCtxGroupWrite_answers (ctx : CtxId) (reg : GrpReg) (word : Reg) (s : State) :
    Answers s (execCtxGroupWrite ctx reg word s) :=
  answers_finish (by simp +contextual (maxDischargeDepth := 30))
theorem execSchedQuantumWrite_answers (word : Reg) (s : State) : Answers s (execSchedQuantumWrite word s) :=
  answers_finish (by simp +contextual (maxDischargeDepth := 30))
theorem execTdcClear_answers (s : State) : Answers s (execTdcClear s) :=
  answers_finish (by simp +contextual (maxDischargeDepth := 30))
theorem execClearEng_answers (s : State) : Answers s (execClearEng s) :=
  answers_finish (by simp +contextual (maxDischargeDepth := 30))
theorem execClearCtx_answers (ctx : CtxId) (s : State) : Answers s (execClearCtx ctx s) :=
  answers_finish (by simp +contextual (maxDischargeDepth := 30))
theorem execTableSnapshot_answers (word : Reg) (s : State) : Answers s (execTableSnapshot word s) :=
  answers_finish (by simp +contextual (maxDischargeDepth := 30))
theorem execSpillPeerCfgWrite_answers (n : Fin 32) (word : Reg) (s : State) :
    Answers s (execSpillPeerCfgWrite n word s) :=
  answers_finish (by simp +contextual (maxDischargeDepth := 30))
theorem execCorePortRestore_answers (m : Fin 3) (word : Reg) (s : State) : Answers s (execCorePortRestore m word s) :=
  answers_finish (by simp +contextual (maxDischargeDepth := 30))
theorem execDmaChannelEnable_answers (ch : ChanId) (word : Reg) (s : State) :
    Answers s (execDmaChannelEnable ch word s) :=
  answers_finish (by simp +contextual (maxDischargeDepth := 30))
theorem execDmaChannelDisable_answers (ch : ChanId) (word : Reg) (s : State) :
    Answers s (execDmaChannelDisable ch word s) :=
  answers_finish (by simp +contextual (maxDischargeDepth := 30))
theorem execDmaAbort_answers (ch : ChanId) (word : Reg) (s : State) : Answers s (execDmaAbort ch word s) :=
  answers_finish (by simp +contextual (maxDischargeDepth := 30))
theorem execDmaBurstIssue_answers (ch : ChanId) (s : State) : Answers s (execDmaBurstIssue ch s) := by
  refine answers_working fun _ => ?_
  (repeat' split) <;> simp +contextual (maxDischargeDepth := 30)
theorem execLatchedPairRead_answers (offset : BitVec 20) (s : State) : Answers s (execLatchedPairRead offset s) :=
  answers_finish (by simp +contextual (maxDischargeDepth := 30))
theorem execRegisterWrite_answers (offset : BitVec 20) (word : Reg) (enables : BitVec 4) (s : State) :
    Answers s (execRegisterWrite offset word enables s) :=
  answers_finish (by simp +contextual (maxDischargeDepth := 30))
theorem execDoorbellPoll_answers (c : CtxId) (s : State) : Answers s (execDoorbellPoll c s) :=
  answers_working fun _ => by simp +contextual (maxDischargeDepth := 30)
theorem execDoorbellReadDone_answers (c : CtxId) (word : Option (BitVec 64)) (s : State) :
    Answers s (execDoorbellReadDone c word s) :=
  answers_working fun _ => (by simp +contextual (maxDischargeDepth := 30))
theorem execDescriptorFetch_answers (c : CtxId) (s : State) : Answers s (execDescriptorFetch c s) :=
  answers_working fun _ => (by simp +contextual (maxDischargeDepth := 30))
theorem execDescriptorArrival_answers (c : CtxId) (descs : Option (List (BitVec 512))) (s : State)
    (h : Instr.wf (.descriptorArrival c descs) = true) : Answers s (execDescriptorArrival c descs s) := by
  unfold execDescriptorArrival
  rw [if_pos h]
  cases descs with
  | none => exact answers_working fun _ => by simp
  | some ds =>
    dsimp only
    split
    · exact answers_self s
    · rename_i f _
      exact answers_working fun _ => Works.trans (modCtx_works ..)
        (foldl_works _ (fun u x => arrive_works c f.headers u x) _ _)
theorem execSchedPick_answers (s : State) : Answers s (execSchedPick s) := by
  refine answers_running fun _ => ?_
  (repeat' split) <;> simp +contextual (maxDischargeDepth := 30)
theorem execSchedQuantumExpire_answers (s : State) : Answers s (execSchedQuantumExpire s) :=
  answers_running fun _ => (by simp +contextual (maxDischargeDepth := 30))
theorem execPreemptLimitExpire_answers (s : State) : Answers s (execPreemptLimitExpire s) := by
  unfold execPreemptLimitExpire
  split
  · exact answers_running fun _ => by simp +contextual (maxDischargeDepth := 30)
  · exact answers_self s
theorem execModeChangeApply_answers (c : CtxId) (s : State) : Answers s (execModeChangeApply c s) :=
  answers_running fun _ => (by simp +contextual (maxDischargeDepth := 30))
theorem execRegulatorWindow_answers (c : CtxId) (which : RegKind) (s : State) :
    Answers s (execRegulatorWindow c which s) :=
  answers_working fun _ => by simp +contextual (maxDischargeDepth := 30)
theorem execTileStageBegin_answers (s : State) : Answers s (execTileStageBegin s) := by
  unfold execTileStageBegin
  split
  · exact answers_self s
  · exact answers_running fun _ => by simp +contextual (maxDischargeDepth := 30)
theorem execTokenPrenorm_answers (tile : Fin 4) (token : BitVec 12) (s : State) :
    Answers s (execTokenPrenorm tile token s) := by
  unfold execTokenPrenorm
  (repeat' split) <;> first
    | exact answers_self s
    | exact answers_running fun _ => by simp +contextual (maxDischargeDepth := 30)
theorem execTokenScore_answers (tile : Fin 4) (token : BitVec 12) (waits : Waits) (s : State) :
    Answers s (execTokenScore tile token waits s) := by
  unfold execTokenScore
  split
  · exact answers_self s
  · split
    · exact answers_self s
    · refine answers_running fun _ => ?_
      split
      · simp
      · rename_i h; have w := (beginScoring_works h).trans (swapAll_works _)
        dsimp only
        (repeat' split) <;> first
          | exact w.trans ((scoreUnits_works ..).trans (scoreTok_works ..))
          | simp
theorem execWeightSetLoad_answers (s : State) : Answers s (execWeightSetLoad s) := by
  refine answers_running fun _ => ?_
  (repeat' split) <;> simp +contextual (maxDischargeDepth := 30)
theorem execTokenSelect_answers (tile : Fin 4) (token : BitVec 12) (s : State) :
    Answers s (execTokenSelect tile token s) := by
  unfold execTokenSelect
  split
  · exact answers_self s
  · exact answers_running fun _ => by simp +contextual (maxDischargeDepth := 30)
theorem execHotsetMissFetch_answers (i : Fin 4) (s : State) : Answers s (execHotsetMissFetch i s) := by
  unfold execHotsetMissFetch
  (repeat' split) <;> first
    | exact answers_self s
    | exact answers_running fun _ => by simp +contextual (maxDischargeDepth := 30)
theorem execBucketing_answers (tile : Fin 4) (s : State) : Answers s (execBucketing tile s) := by
  unfold execBucketing
  split
  · exact answers_self s
  · exact answers_running fun _ => by simp +contextual (maxDischargeDepth := 30)
theorem execCourseStart_answers (tile : Fin 4) (s : State) : Answers s (execCourseStart tile s) := by
  unfold execCourseStart
  split
  · exact answers_self s
  · refine answers_running fun _ => ?_
    (repeat' split) <;> simp +contextual (maxDischargeDepth := 30)
theorem execFeedFlitGrant_answers (ready : BitVec 80) (s : State) : Answers s (execFeedFlitGrant ready s) := by
  unfold execFeedFlitGrant
  (repeat' split) <;> first
    | exact answers_self s
    | exact answers_working fun _ => by simp +contextual (maxDischargeDepth := 30)
theorem execDrainFlit_answers (port : PortId) (tag : BitVec 128) (data : List Byte) (s : State)
    (h : Instr.wf (.drainFlit port tag data) = true) : Answers s (execDrainFlit port tag data s) := by
  unfold execDrainFlit; rw [if_pos h]
  exact answers_working fun _ => toLane_works ..
theorem execEndOfPacketMark_answers (port : PortId) (tag : BitVec 128) (s : State) :
    Answers s (execEndOfPacketMark port tag s) := by
  exact answers_working fun _ => toLane_works ..
theorem execCoreTimeout_answers (port : PortId) (s : State) : Answers s (execCoreTimeout port s) :=
  answers_working fun _ => (by simp +contextual (maxDischargeDepth := 30))
theorem execTokenCombine_answers (tile : Fin 4) (token : BitVec 12) (s : State) :
    Answers s (execTokenCombine tile token s) := by
  unfold execTokenCombine
  (repeat' split) <;> first
    | exact answers_self s
    | exact answers_running fun _ => by simp +contextual (maxDischargeDepth := 30)
theorem execTileCommit_answers (s : State) : Answers s (execTileCommit s) := by
  unfold execTileCommit
  split
  · exact answers_self s
  · exact answers_running fun _ => by simp +contextual (maxDischargeDepth := 30)
theorem execGroupReduce_answers (ctx : CtxId) (s : State) : Answers s (execGroupReduce ctx s) :=
  answers_working fun _ => (by simp +contextual (maxDischargeDepth := 30))
theorem execStatTimeout_answers (ctx : CtxId) (s : State) : Answers s (execStatTimeout ctx s) :=
  answers_working fun _ => by simp +contextual (maxDischargeDepth := 30)
theorem execBasolBlockSend_answers (chip : BitVec 16) (engine : Bool) (s : State) :
    Answers s (execBasolBlockSend chip engine s) := by
  unfold execBasolBlockSend
  split
  · exact answers_self s
  · exact answers_running fun _ => by simp +contextual (maxDischargeDepth := 30)
theorem execBasolBlockReceive_answers (port : Fin 8) (block : List Byte) (s : State)
    (h : Instr.wf (.basolBlockReceive port block) = true) : Answers s (execBasolBlockReceive port block s) := by
  unfold execBasolBlockReceive; rw [if_pos h]
  exact answers_guarded fun _ => (receiveBlock_works ..).trans (settle_works _)
theorem execSpore_answers (chip : BitVec 16) (engine : Bool) (s : State) : Answers s (execSpore chip engine s) :=
  answers_handling fun _ _ => (by simp +contextual (maxDischargeDepth := 30))
theorem execResult_answers (chip : BitVec 16) (engine : Bool) (s : State) : Answers s (execResult chip engine s) :=
  answers_handling fun _ _ => (by simp +contextual (maxDischargeDepth := 30))
theorem execAbandon_answers (chip : BitVec 16) (engine : Bool) (s : State) : Answers s (execAbandon chip engine s) :=
  answers_handling fun _ _ => (by simp +contextual (maxDischargeDepth := 30))
theorem execStatUp_answers (chip : BitVec 16) (engine : Bool) (s : State) : Answers s (execStatUp chip engine s) :=
  answers_handling fun _ _ => deliverStat_works _ (fun u x => addUp_works u x) ..
theorem execStatDown_answers (chip : BitVec 16) (engine : Bool) (s : State) : Answers s (execStatDown chip engine s) :=
  answers_handling fun _ _ => deliverStat_works _ (fun u x => addDown_works u x) ..
theorem execReadReq_answers (chip : BitVec 16) (engine : Bool) (s : State) : Answers s (execReadReq chip engine s) :=
  answers_handling fun _ _ => (by simp +contextual (maxDischargeDepth := 30))
theorem execReadData_answers (chip : BitVec 16) (engine : Bool) (s : State) : Answers s (execReadData chip engine s) :=
  answers_handling fun _ _ => (by simp +contextual (maxDischargeDepth := 30))
theorem execReadRetryTimer_answers (who : Retrier) (s : State) : Answers s (execReadRetryTimer who s) := by
  unfold execReadRetryTimer
  (repeat' split) <;> first
    | exact answers_self s
    | exact answers_running fun _ => by simp +contextual (maxDischargeDepth := 30)
theorem answers_framed {s : State} {kind : Nat} {frame : BitVec 128} {g : State → TxStream → CtlFrame → State}
    (h : ∀ u t f, Works u (g u t f)) : Answers s (framed s kind frame g) := by
  unfold framed; dsimp only
  split
  · exact answers_self s
  · refine answers_running fun _ => ?_
    split
    · exact (hearFrame_works ..).trans (h _ _ _)
    · exact hearFrame_works ..
theorem execAck_answers (_port : Fin 8) (frame : BitVec 128) (s : State) : Answers s (execAck _port frame s) :=
  answers_framed fun _ _ _ => by simp
theorem execNak_answers (_port : Fin 8) (frame : BitVec 128) (s : State) : Answers s (execNak _port frame s) :=
  answers_framed fun _ _ _ => by dsimp only; (repeat' split) <;> simp +contextual (maxDischargeDepth := 30)
theorem execCredit_answers (_port : Fin 8) (frame : BitVec 128) (s : State) : Answers s (execCredit _port frame s) :=
  answers_framed fun _ _ _ => by split <;> simp +contextual (maxDischargeDepth := 30)
theorem execRefuse_answers (_port : Fin 8) (frame : BitVec 128) (s : State) : Answers s (execRefuse _port frame s) :=
  answers_framed fun _ _ _ => loseDest_works ..
theorem execAckTimeout_answers (chip : BitVec 16) (engine : Bool) (s : State) :
    Answers s (execAckTimeout chip engine s) := by
  unfold execAckTimeout
  split
  · exact answers_self s
  · exact answers_running fun _ => by simp +contextual (maxDischargeDepth := 30)
theorem execLostTimeout_answers (chip : BitVec 16) (engine : Bool) (s : State) :
    Answers s (execLostTimeout chip engine s) := by
  unfold execLostTimeout
  split
  · exact answers_self s
  · exact answers_running fun _ => by simp +contextual (maxDischargeDepth := 30)
theorem execStreamEndTimeout_answers (chip : BitVec 16) (engine : Bool) (s : State) :
    Answers s (execStreamEndTimeout chip engine s) := by
  unfold execStreamEndTimeout
  split
  · exact answers_self s
  · exact answers_running fun _ => by simp +contextual (maxDischargeDepth := 30)
theorem execSendStateRelease_answers (chip : BitVec 16) (engine : Bool) (s : State) :
    Answers s (execSendStateRelease chip engine s) := by
  unfold execSendStateRelease
  split
  · exact answers_self s
  · exact answers_running fun _ => by simp +contextual (maxDischargeDepth := 30)
theorem execInboundStreamRelease_answers (chip : BitVec 16) (engine : Bool) (s : State) :
    Answers s (execInboundStreamRelease chip engine s) := by
  unfold execInboundStreamRelease
  split
  · exact answers_self s
  · exact answers_running fun _ => by simp +contextual (maxDischargeDepth := 30)
theorem execCreditRepeat_answers (chip : BitVec 16) (engine : Bool) (s : State) :
    Answers s (execCreditRepeat chip engine s) := by
  unfold execCreditRepeat
  split
  · exact answers_self s
  · exact answers_running fun _ => by simp +contextual (maxDischargeDepth := 30)
theorem execLinkStatusReport_answers (port : Fin 8) (report : LinkReport) (s : State) :
    Answers s (execLinkStatusReport port report s) :=
  answers_guarded fun _ => (by simp +contextual (maxDischargeDepth := 30))
theorem execBeatWindowEnd_answers (beats : Vector (BitVec 32) 8) (s : State) : Answers s (execBeatWindowEnd beats s) :=
  answers_guarded fun _ => (by simp +contextual (maxDischargeDepth := 30))
theorem execPaceCredit_answers (lost : BitVec 32) (s : State) : Answers s (execPaceCredit lost s) :=
  answers_guarded fun _ => (by simp +contextual (maxDischargeDepth := 30))
theorem execCurrentGrant_answers (grant : BitVec 8) (need : BitVec 8) (s : State) :
    Answers s (execCurrentGrant grant need s) :=
  answers_guarded fun _ => (by simp +contextual (maxDischargeDepth := 30))
theorem execFillerLimitExpire_answers (s : State) : Answers s (execFillerLimitExpire s) :=
  answers_guarded fun _ => (by simp +contextual (maxDischargeDepth := 30))
theorem execRampStep_answers (draw : BitVec 8) (s : State) : Answers s (execRampStep draw s) := by
  unfold execRampStep
  split
  · exact answers_self s
  · exact answers_guarded fun _ => by simp +contextual (maxDischargeDepth := 30)
theorem execSensorStale_answers (s : State) : Answers s (execSensorStale s) :=
  answers_guarded fun _ => (by simp +contextual (maxDischargeDepth := 30))

end Sys2Proof.Machine
end

