-- ==== Sys2Proof/Tests/Slice0.lean ====
section
/-!
SUPPORT. Tests: ill-formed operands are refused, published vectors, one step of a few commands on small states, and for
every statement a state and operands that meet its hypotheses, clause by clause. Expected values come from the rules or
from the standard that a test names, worked out by hand.
-/
namespace Sys2Proof.Tests

set_option Elab.async false

open Sys2Proof Sys2Proof.Machine

/-! ## Small states -/

/-- The next state, where there is one. -/
def after (c : Instr) (s : State) : Option State := match exec c s with | .next t => some t | _ => none

/-- READY or RUN, every core fitted, chip 5 engine 0, tick 20,000. -/
def up0 : State := { State.reset with
  eng := .up, fuse := ⟨5, false, 0, BitVec.allOnes 80, 0⟩, pins := ⟨5, false, 0, BitVec.allOnes 80, 0⟩, tick := 20000 }

/-- `up0` with context 0 changed. -/
def upCtx (f : Ctx → Ctx) : State := modCtx up0 0 f

/-- A context in RUNNING, enabled, with rings of 16 and its windows over the first MiB. -/
def runX (x : Ctx) : Ctx := { x with
  state := .running, enabled := true, sqLog2 := 4, cqLog2 := 4, windows := Vector.replicate 4 ⟨0, 0x100000⟩ }

/-- A descriptor of an opcode with fields: byte offset, bit, value. -/
def job (op : Nat) (fs : List (Nat × Nat × Nat)) : Job := ⟨1, BitVec.ofNat 512 (pack ((0, 0, op) :: fs)), false⟩

/-- Context 0 in RUNNING with a descriptor at the front of its ring walker. -/
def front (j : Job) : State := upCtx fun x => { runX x with walker := [j], fetched := 2 }

/-- A tensor of 4 rows of 64 FP32 elements at an address. -/
def tens (base : Nat) : TDesc := ⟨0, 2, false, false, false, 0, 0, base, [63, 3], [256], 0, 0, 0, false, none⟩

/-- `front` with two tensors of the context. -/
def frontT (j : Job) : State :=
  modCtx (front j) 0 fun x => { x with tensors := [(0, tens 0x1000), (1, tens 0x4000)] }

/-- `front` with a sequence entry 3 of uid 7. -/
def frontQ (st : SeqState) (j : Job) : State := { front j with
  seqs := [(3, { joinEntry 0 ((front j).ctx 0) (job 0x30 [(0xC, 0, 7)]) with state := st })] }

/-- `upCtx` with a descriptor dealt to the walker, which holds the later ones. -/
def held (j : Job) (h : Hold) : State := upCtx fun x => { runX x with dealt := [(.walker, j)], hold := some h }

/-! ## Ill-formed operands (Instr.wf), one for each check -/

def refuses (c : Instr) : Bool := match exec c up0 with | .refused (.illFormed _) => !c.wf | _ => false

theorem smoke_illFormed :
    refuses (.descriptorArrival 0 (some [])) = true ∧ refuses (.descriptorArrival 0 (some (List.replicate 9 0))) = true
    ∧ refuses (.drainFlit 0 0 [0]) = true ∧ refuses (.basolBlockReceive 0 []) = true
    ∧ refuses (.memReadResponse 0 []) = true ∧ refuses (.memReadResponse 0 [0]) = true
    ∧ refuses (.memReadResponse 0 (zeros 2112)) = true ∧ refuses (.hostBridgeResponse 0 (.ok (zeros 4097))) = true
    ∧ refuses (.resetAssert 0) = true ∧ refuses (.tamperInput 0) = true := by decide +kernel

/-! ## Published vectors -/

/-- A number written with its first byte highest, as the standards print it. -/
def shown (k n : Nat) : Nat := leNat (leBytes k n).reverse
/-- The bytes 0x00 to 0x1F as a key. -/
def kKey : BitVec 256 := BitVec.ofNat 256 (shown 32 0x000102030405060708090A0B0C0D0E0F101112131415161718191A1B1C1D1E1F)
/-- RFC 3394, 4.6: the wrapping of the key data there under `kKey`. -/
def kWrapped : List Byte :=
  leBytes 40 (shown 40 0x28C9F404C4B810F4CBCCB35CFB87F8263F5786E2D80ED326CBC7F0E71A99F43BFB988B9B7A02DD21)
/-- RFC 3394, 4.6: the key data. -/
def kData : BitVec 256 := BitVec.ofNat 256 (shown 32 0x00112233445566778899AABBCCDDEEFF000102030405060708090A0B0C0D0E0F)

/-- CRC-32C of "123456789" (RFC 3720's polynomial and check value). -/
theorem test_crc : crc32c (leBytes 9 (shown 9 0x313233343536373839)) = 0xE3069283 := by decide +kernel
/-- Philox4x32-10 with counter and key zero (the known-answer vectors of its authors). -/
theorem test_philox : philox 0 0 0 = 0x9b00dbd8bc57ac4ce169c58d6627e8d5 := by decide +kernel
/-- FIPS 197, C.3. -/
theorem test_aes : aesEnc (aesKeys kKey) (shown 16 0x00112233445566778899AABBCCDDEEFF)
    = shown 16 0x8EA2B7CA516745BFEAFC49904B496089 := by decide +kernel
/-- SP 800-38B, D.3 example 2: the tag of one block. -/
theorem test_cmac :
    cmac (BitVec.ofNat 256 (shown 32 0x603DEB1015CA71BE2B73AEF0857D77811F352C073B6108D72D9810A30914DFF4))
      (leBytes 16 (shown 16 0x6BC1BEE22E409F96E93D7E117393172A)) = shown 16 0x28A7023F452E8F82BD4BF28D8C37C35C := by
  decide +kernel
/-- RFC 3394, 4.6. -/
theorem test_unwrap : kwUnwrap kKey kWrapped = some kData := by decide +kernel

/-! ## The block as a whole -/

theorem witness_StepRunsFront : ({ up0 with pending := [.tdcClear] } : State).pending = .tdcClear :: [] := rfl
theorem witness_QueueUntouched : (after .tdcClear up0).isSome = true := by decide +kernel
theorem witness_EveryCommandAnswers : Instr.wf .tdcClear = true ∧ Instr.wf (.resetAssert 0) = false := by decide +kernel
theorem witness_MemoryFormKept : State.reset.memWf ∧ ∃ t, step State.reset = .next t :=
  ⟨⟨by decide +kernel, by decide +kernel⟩, _, rfl⟩
theorem witness_QueuesKept : State.reset.queuesWf ∧ ∃ t, step State.reset = .next t :=
  ⟨fun p => by simp [State.reset, coreQReset], _, rfl⟩

/-- A record with both rails in range. -/
def goodRec : SensorRec := ⟨750, 750, Vector.replicate 8 300⟩
/-- SELFTEST with the key-store step ended. -/
def st0 : State := { up0 with eng := .selftest }
/-- A result with no failing case and every slice fast. -/
def goodResult : SelfTestResult := ⟨Vector.replicate 11 0, Vector.replicate 8 0, Vector.replicate 8 1200⟩
/-- A result that fails step 3. -/
def badResult : SelfTestResult := ⟨(Vector.replicate 11 0).set 2 0x01000001, Vector.replicate 8 0, Vector.replicate 8 1200⟩
/-- The state a quiesce has drained. -/
def drained0 : State := { up0 with quiesce := .drain }

def goes (c : Instr) (s : State) (e : EngState) : Bool := (after c s).any fun t => t.eng == e && t.eng != s.eng

theorem witness_EngineTransitions :
    goes (.sensorRecord goodRec) State.reset .selftest = true ∧ goes (.selftestComplete goodResult) st0 .up = true
    ∧ goes (.selftestComplete badResult) st0 .safe = true ∧ goes (.instructionStoreError .double) up0 .safe = true
    ∧ goes .quiesceDone drained0 .selftest = true
    ∧ goes .quiesceDone { drained0 with eng := .safe } .selftest = true
    ∧ goes .handshakeFault up0 .locked = true ∧ goes (.tamperInput 4) up0 .locked = true
    ∧ goes (.resetAssert 100) up0 .off = true ∧ goes .powerOff up0 .off = true := by decide +kernel

theorem witness_LockedStandsStill :
    ((after .handshakeFault { up0 with eng := .locked }).isSome && !endsLocked .handshakeFault) = true := by decide +kernel
theorem witness_OffDoesNothing : reachesOff .tdcClear = true ∧ reachesOff .schedPick = false ∧ State.reset.eng = .off
    ∧ (after .schedPick State.reset).isSome = true := by decide +kernel

/-! ## Descriptors -/

/-- `AtFront` as a computation. -/
theorem atFront {s : State} {c : CtxId} {op : Nat} {j : Job}
    (h : (s.up && frontJob s c == some j && j.op == op && !creating (s.ctx c) j && !unitFull s c (unitOf j)) = true) :
    AtFront s c op j := by
  simp at h; exact ⟨⟨h.1.1.1.1, h.1.1.1.2, h.1.1.2, h.1.2⟩, h.2⟩

/-- `Fetched` as a computation. -/
theorem fetched {s : State} {c : CtxId} {op : Nat} {j : Job}
    (h : (s.up && frontJob s c == some j && j.op == op && !creating (s.ctx c) j) = true) : Fetched s c op j := by
  simp at h; exact ⟨h.1.1.1, h.1.1.2, h.1.2, h.2⟩

/-- MODEL_PIN with an op. -/
def pin (op : Nat) : Job := job 0x41 [(8, 24, op)]
/-- `front` with the group of the context lost. -/
def lostG (j : Job) : State := modCtx (front j) 0 fun x => { x with groupLost := true }

theorem witness_TilePathAndHotSetDescriptors :
    (AtFront (front (job 0x01 [])) 0 0x01 (job 0x01 []) ∧ ((front (job 0x01 [])).ctx 0).groupLost = false)
    ∧ AtFront (front (job 0x02 [])) 0 0x02 (job 0x02 []) ∧ AtFront (front (job 0x03 [])) 0 0x03 (job 0x03 [])
    ∧ (AtFront (lostG (job 0x01 [])) 0 0x01 (job 0x01 []) ∧ ((lostG (job 0x01 [])).ctx 0).groupLost = true
      ∧ ((lostG (job 0x01 [])).ctx 0).state ≠ .free ∧ ((lostG (job 0x01 [])).ctx 0).state ≠ .faulted)
    ∧ AtFront (front (job 0x40 [])) 0 0x40 (job 0x40 []) ∧ (AtFront (front (pin 0)) 0 0x41 (pin 0) ∧ mpOp (pin 0).raw = 0)
    ∧ (AtFront (front (pin 1)) 0 0x41 (pin 1) ∧ mpOp (pin 1).raw = 1)
    ∧ (AtFront (front (pin 3)) 0 0x41 (pin 3) ∧ mpOp (pin 3).raw = 3)
    ∧ (AtFront (front (pin 2)) 0 0x41 (pin 2) ∧ mpOp (pin 2).raw = 2) := by
  refine ⟨⟨atFront ?_, ?_⟩, atFront ?_, atFront ?_, ⟨atFront ?_, ?_, ?_, ?_⟩, atFront ?_, ⟨atFront ?_, ?_⟩, ⟨atFront ?_, ?_⟩,
    ⟨atFront ?_, ?_⟩, atFront ?_, ?_⟩ <;> decide +kernel

/-- A mover of opcode `op` from tensor 0 to tensor 1. -/
def mover (op : Nat) : Job := job op [(8, 8, 1)]

theorem witness_MoverDescriptors :
    (AtFront (frontT (mover 0x10)) 0 0x10 (mover 0x10) ∧ moverCheck (frontT (mover 0x10)) 0 (mover 0x10) = none)
    ∧ (Fetched (front (mover 0x11)) 0 0x11 (mover 0x11) ∧ moverCheck (front (mover 0x11)) 0 (mover 0x11) = some 0x11) := by
  refine ⟨⟨atFront ?_, ?_⟩, fetched ?_, ?_⟩ <;> decide +kernel

/-- A DMA descriptor on channel 2: op, 64 bytes from the host to 0x2000. -/
def dma (op : Nat) : Job :=
  if op == 1 then job 0x20 [(8, 0, 2), (8, 4, 1), (0x18, 0, 0x2000), (0x20, 0, 64)]
  else job 0x20 [(8, 0, 2), (8, 4, op), (8, 8, 1), (0x18, 0, 0x2000), (0x20, 0, 64)]
/-- `front` with channel 2 OFF. -/
def chanOff (j : Job) : State := modDma (front j) 2 fun k => { k with state := .off }
/-- A DMA descriptor of length 0, for which the check of its length fails. -/
def dmaEmpty : Job := job 0x20 [(8, 0, 2), (8, 8, 1)]

theorem witness_DmaDescriptors :
    (dmOp (dma 0) = 0 ∧ dmOp (dma 1) = 1 ∧ dmOp (dma 2) = 2)
    ∧ (AtFront (front (dma 0)) 0 0x20 (dma 0) ∧ dmaCheck ((front (dma 0)).ctx 0) (dmaSetOf 0 (dma 0)) = none
      ∧ ((front (dma 0)).chan (dmCh (dma 0))).state ≠ .off)
    ∧ (AtFront (front (dma 1)) 0 0x20 (dma 1) ∧ dmaCheck ((front (dma 1)).ctx 0) (dmaSetOf 0 (dma 1)) = none)
    ∧ (AtFront (front (dma 2)) 0 0x20 (dma 2) ∧ dmaCheck ((front (dma 2)).ctx 0) (dmaSetOf 0 (dma 2)) = none)
    ∧ (Fetched (front dmaEmpty) 0 0x20 dmaEmpty ∧ dmOp dmaEmpty = 0
      ∧ dmaCheck ((front dmaEmpty).ctx 0) (dmaSetOf 0 dmaEmpty) = some 0x10) := by
  refine ⟨?_, ⟨atFront ?_, ?_⟩, ⟨atFront ?_, ?_⟩, ⟨atFront ?_, ?_⟩, fetched ?_, ?_⟩ <;> decide +kernel

theorem witness_DmaOffChannelAborts :
    AtFront (chanOff (dma 0)) 0 0x20 (dma 0) ∧ dmOp (dma 0) = 0
    ∧ dmaCheck ((chanOff (dma 0)).ctx 0) (dmaSetOf 0 (dma 0)) = none ∧ ((chanOff (dma 0)).chan (dmCh (dma 0))).state = .off := by
  refine ⟨atFront ?_, ?_⟩ <;> decide +kernel

/-- SEQ_JOIN of uid 7 as sequence 3 with 100 tokens, and SEQ_LEAVE of it. -/
def join : Job := job 0x30 [(8, 0, 3), (0xC, 0, 7), (0x18, 0, 100)]
def leave : Job := job 0x31 [(8, 0, 3), (0xC, 0, 7)]
/-- The entry of `frontQ`. -/
def seq3 (st : SeqState) : Seq := { joinEntry 0 ((front leave).ctx 0) (job 0x30 [(0xC, 0, 7)]) with state := st }

/-- A PENDING entry 3 whose SEQ_JOIN has fetch count 7, which waits for the boundary, or is gone. -/
def seqJoined : Seq := { seq3 .pending with joinC := some 7 }
def joinGone (j : Job) : State := { front j with seqs := [(3, seqJoined)] }
def joinDealt (j : Job) : State :=
  modCtx (joinGone j) 0 fun x => { x with dealt := [(.table, { join with c := 7, boundary := true })] }
/-- A SEQ_JOIN of no tokens, and one whose user word lies at no 64-byte boundary. -/
def joinZero : Job := job 0x30 [(8, 0, 3), (0xC, 0, 7)]
def joinOdd : Job := job 0x30 [(8, 0, 3), (0xC, 0, 7), (0x18, 0, 100), (0x20, 0, 8)]

theorem witness_SequencesChanged :
    (AtFront (front join) 0 0x30 join ∧ joinBad join = false ∧ sqUser join % 64 = 0
      ∧ lookup (sqIndex join) (front join).seqs = none
      ∧ ((front join).seqs.any fun e => e.2.ctx == 0 && e.2.uid == sqUid join) = false)
    ∧ (AtFront (frontQ .active leave) 0 0x31 leave
      ∧ lookup (sqIndex leave) (frontQ .active leave).seqs = some (seq3 .active) ∧ (seq3 .active).ctx = 0
      ∧ (seq3 .active).uid = sqUid leave ∧ (seq3 .active).state = .active)
    ∧ (AtFront (joinDealt leave) 0 0x31 leave ∧ lookup (sqIndex leave) (joinDealt leave).seqs = some seqJoined
      ∧ seqJoined.ctx = 0 ∧ seqJoined.uid = sqUid leave ∧ seqJoined.state = .pending
      ∧ (seqJoined.joinC.bind (dealtJob ((dealTo (joinDealt leave) 0 .table leave).ctx 0))).isSome = true)
    ∧ (AtFront (joinGone leave) 0 0x31 leave ∧ lookup (sqIndex leave) (joinGone leave).seqs = some seqJoined
      ∧ seqJoined.joinC.bind (dealtJob ((dealTo (joinGone leave) 0 .table leave).ctx 0)) = none)
    ∧ (AtFront (front joinZero) 0 0x30 joinZero ∧ joinBad joinZero = true)
    ∧ (AtFront (front joinOdd) 0 0x30 joinOdd ∧ joinBad joinOdd = false ∧ sqUser joinOdd % 64 ≠ 0)
    ∧ (AtFront (frontQ .active join) 0 0x30 join ∧ joinBad join = false ∧ sqUser join % 64 = 0
      ∧ (lookup (sqIndex join) (frontQ .active join).seqs).isSome = true)
    ∧ (AtFront (front leave) 0 0x31 leave ∧ ((lookup (sqIndex leave) (front leave).seqs).filter fun q =>
        q.ctx == 0 && q.uid == sqUid leave && q.state != .leaving) = none) := by
  refine ⟨⟨atFront ?_, ?_⟩, ⟨atFront ?_, ?_⟩, ⟨atFront ?_, ?_⟩, ⟨atFront ?_, ?_⟩, ⟨atFront ?_, ?_⟩, ⟨atFront ?_, ?_⟩,
    ⟨atFront ?_, ?_⟩, ⟨atFront ?_, ?_⟩⟩ <;> decide +kernel

/-- STEP_BUILD of a pool of 4 KiB at 0, work list at 0x10000; and one with a skewed pool. -/
def build : Job := job 0x32 [(0x10, 0, 4096), (0x18, 0, 0x10000)]
def buildBad : Job := job 0x32 [(8, 0, 8), (0x10, 0, 4096), (0x18, 0, 0x10000)]

theorem witness_StepBuilt :
    (AtFront (front build) 0 0x32 build ∧ (((front build).ctx 0).dealt.all fun d => d.2.boundary) = true
      ∧ stepBad (dealTo (front build) 0 .stepBuilder build) 0 build = none)
    ∧ (AtFront (front buildBad) 0 0x32 buildBad
      ∧ stepBad (dealTo (front buildBad) 0 .stepBuilder buildBad) 0 buildBad = some 0x10) := by
  refine ⟨⟨atFront ?_, ?_⟩, ⟨atFront ?_, ?_⟩⟩ <;> decide +kernel

/-- TDESC_CREATE of entry 9 from the record at 0x8000: 4 rows of 64 FP32 elements at 0x1000. -/
def create : Job := job 0x60 [(8, 0, 9), (0x10, 0, 0x8000)]
def recd : Nat := pack [(0, 4, 2), (8, 0, 0x1000), (0x10, 0, 63), (0x14, 0, 3), (0x28, 0, 256)]
/-- The same with its record at no 64-byte boundary; a TDESC_CREATE dealt; and one whose record has come. -/
def createOdd : Job := job 0x60 [(8, 0, 9), (0x10, 0, 0x8008)]
def dealtCreate (j : Job) : State := upCtx fun x => { runX x with dealt := [(.table, j)] }
def createS : State := { dealtCreate create with got := [(.table 0, 0x8000, leBytes 128 recd)] }
def destroy (i : Nat) : Job := job 0x61 [(8, 0, i)]
/-- A TDESC_DESTROY of tensor 0 dealt, with nothing before it. -/
def freeS : State := upCtx fun x => { runX x with
  tensors := [(0, { tens 0x1000 with dying := some 1 })], dealt := [(.table, destroy 0)] }

theorem witness_TensorsChanged :
    AtFront (front create) 0 0x60 create
    ∧ (createJob ((dealtCreate createOdd).ctx 0) = some createOdd ∧ tdRecord createOdd % 64 ≠ 0)
    ∧ (createJob ((dealtCreate create).ctx 0) = some create ∧ tdRecord create % 64 = 0
      ∧ memBusy (dealtCreate create) (· == .table 0) = false
      ∧ missingReqs (dealtCreate create) (.table 0) 7 (some 0) [(tdRecord create, 128)] ≠ [])
    ∧ (createJob (createS.ctx 0) = some create ∧ memBusy createS (· == .table 0) = false
      ∧ missingReqs createS (.table 0) 7 (some 0) [(tdRecord create, 128)] = []
      ∧ leNat (gotRead createS (.table 0) (tdRecord create) 128) = recd
      ∧ recordBad recd = false ∧ recordMisaligned (tensorOf recd) = false ∧ (tensorOf recd).dist = false
      ∧ lookup (tdIndex create) (createS.ctx 0).tensors = none
      ∧ inWin (createS.ctx 0).windows[(Fin.ofNat 4 (tensorOf recd).win : Fin 4)] (tensorOf recd).base
          (footLen (tensorOf recd)) = true
      ∧ ((createS.ctx 0).windows[(Fin.ofNat 4 (tensorOf recd).win : Fin 4)]).base.toNat
        < ((createS.ctx 0).windows[(Fin.ofNat 4 (tensorOf recd).win : Fin 4)]).limit.toNat)
    ∧ (AtFront (frontT (destroy 0)) 0 0x61 (destroy 0)
      ∧ tensorAt ((frontT (destroy 0)).ctx 0) (tdIndex (destroy 0)) (destroy 0).c = some (tens 0x1000))
    ∧ (AtFront (frontT (destroy 255)) 0 0x61 (destroy 255)
      ∧ tensorAt ((frontT (destroy 255)).ctx 0) (tdIndex (destroy 255)) (destroy 255).c = none)
    ∧ (freeS.live = true ∧ freeable (freeS.ctx 0) = some (destroy 0)) := by
  refine ⟨atFront ?_, ?_, ?_, ?_, ⟨atFront ?_, ?_⟩, ⟨atFront ?_, ?_⟩, ?_⟩ <;> decide +kernel

/-- FENCE of every unit, and one with no scope. -/
def fenceAll : Job := job 0x50 [(8, 0, 1)]
def fenceNone : Job := job 0x50 []
/-- EPOCH_WAIT on Owner Table entry 16383, and on the word at 0x40. -/
def waitE : Job := job 0x51 [(0xC, 0, 16383)]
def waitW : Job := job 0x51 [(8, 0, 1), (0x18, 0, 0x40)]
/-- An own block, or one of engine 0 of chip 9, at entry 16383. -/
def blockAt (own : Nat) (s : State) : State := { s with
  owner := [(16383, ⟨BitVec.ofNat 128 (pack [(0, 0, if own = 1 then 5 else 9), (0, 17, 1), (0, 18, own)]), 0, 0⟩)] }
def frontO : State := blockAt 1 (front waitE)
/-- An EPOCH_WAIT for epoch 1, and one on a word outside the windows, or at no 64-byte boundary. -/
def waitE1 : Job := job 0x51 [(0xC, 0, 16383), (0x10, 0, 1)]
def waitFar : Job := job 0x51 [(8, 0, 1), (0x18, 0, 0x100000)]
def waitOdd : Job := job 0x51 [(8, 0, 1), (0x18, 0, 0x48)]
/-- Spill set entry 0 is engine 0 of chip 9, lost. -/
def lost9 (s : State) : State := { s with peers := vmod s.peers 0 fun p => { p with named := true, chip := 9, state := .lost } }

theorem witness_WaitsHoldTheRing :
    (AtFront (front fenceAll) 0 0x50 fenceAll ∧ fenceBad fenceAll = false)
    ∧ (AtFront (front fenceNone) 0 0x50 fenceNone ∧ fenceBad fenceNone = true)
    ∧ ((held fenceAll .fence).live = true ∧ ((held fenceAll .fence).ctx 0).hold = some .fence
      ∧ holder ((held fenceAll .fence).ctx 0) 0x50 = some fenceAll
      ∧ ((held fenceAll .fence).ctx 0).dealt.any (inScope fenceAll) = false)
    ∧ (AtFront frontO 0 0x51 waitE ∧ ewSource waitE = 0 ∧ owValid (ownerRaw frontO (ewEntry waitE)) = true
      ∧ owOwn (ownerRaw frontO (ewEntry waitE)) = true)
    ∧ (AtFront (front waitE) 0 0x51 waitE ∧ owValid (ownerRaw (front waitE) (ewEntry waitE)) = false)
    ∧ (AtFront (front waitW) 0 0x51 waitW ∧ ewSource waitW = 1 ∧ ewWord waitW % 64 = 0
      ∧ inWindows ((front waitW).ctx 0) (ewWord waitW) 8 = true)
    ∧ ((held waitW (.epochWord false 19500)).live = true
      ∧ ((held waitW (.epochWord false 19500)).ctx 0).hold = some (.epochWord false 19500)
      ∧ holder ((held waitW (.epochWord false 19500)).ctx 0) 0x51 = some waitW
      ∧ 500 ≤ (held waitW (.epochWord false 19500)).since 19500) := by
  refine ⟨⟨atFront ?_, ?_⟩, ⟨atFront ?_, ?_⟩, ?_, ⟨atFront ?_, ?_⟩, ⟨atFront ?_, ?_⟩, ⟨atFront ?_, ?_⟩, ?_⟩ <;>
    decide +kernel
theorem witness_WaitsHoldTheRing2 :
    (AtFront (blockAt 0 (front waitE)) 0 0x51 waitE
      ∧ owValid (ownerRaw (blockAt 0 (front waitE)) (ewEntry waitE)) = true
      ∧ owOwn (ownerRaw (blockAt 0 (front waitE)) (ewEntry waitE)) = false
      ∧ destLost (blockAt 0 (front waitE)) 9 false = false)
    ∧ (AtFront (lost9 (blockAt 0 (front waitE))) 0 0x51 waitE
      ∧ owChip (ownerRaw (lost9 (blockAt 0 (front waitE))) (ewEntry waitE)) = 9
      ∧ owEngine (ownerRaw (lost9 (blockAt 0 (front waitE))) (ewEntry waitE)) = false
      ∧ destLost (lost9 (blockAt 0 (front waitE))) 9 false = true)
    ∧ (AtFront (front waitFar) 0 0x51 waitFar ∧ ewSource waitFar = 1 ∧ ewWord waitFar % 64 = 0
      ∧ inWindows ((front waitFar).ctx 0) (ewWord waitFar) 8 = false)
    ∧ (AtFront (front waitOdd) 0 0x51 waitOdd ∧ ewSource waitOdd = 1 ∧ ewWord waitOdd % 64 ≠ 0) := by
  refine ⟨⟨atFront ?_, ?_⟩, ⟨atFront ?_, ?_⟩, ⟨atFront ?_, ?_⟩, ⟨atFront ?_, ?_⟩⟩ <;> decide +kernel
/-- The EPOCH_WAIT waits for the block; and an answer to it. -/
def waitAt (own : Nat) : State := blockAt own (held waitE (.epochOwner 0x8000 none))
def okAnswer : List Byte := leBytes 64 (pack [(4, 16, 0x8000)])
theorem witness_WaitsHoldTheRing3 :
    (holder ((waitAt 1).ctx 0) 0x51 = some waitE ∧ ((waitAt 1).ctx 0).hold = some (.epochOwner 0x8000 none)
      ∧ owOwn (ownerRaw (waitAt 1) (ewEntry waitE)) = true
      ∧ reachedEpoch (owEpoch (ownerRaw (waitAt 1) (ewEntry waitE))) (ewEpoch waitE) = true
      ∧ reachedEpoch (owEpoch (ownerRaw (waitAt 1) (ewEntry waitE1))) (ewEpoch waitE1) = false)
    ∧ (holder ((waitAt 0).ctx 0) 0x51 = some waitE ∧ owOwn (ownerRaw (waitAt 0) (ewEntry waitE)) = false
      ∧ owChip (ownerRaw (waitAt 0) (ewEntry waitE)) = 9 ∧ owEngine (ownerRaw (waitAt 0) (ewEntry waitE)) = false
      ∧ rdTag okAnswer = (0x8000 : BitVec 16).toNat ∧ rdStatus okAnswer = 0
      ∧ rdTag (zeros 64) ≠ (0x8000 : BitVec 16).toNat)
    ∧ holder ((held waitW (.epochWord true 19500)).ctx 0) 0x51 = some waitW
    ∧ subMod 64 0 (ewTarget waitW) < 2 ^ 63 ∧ 2 ^ 63 ≤ subMod 64 (2 ^ 63) (ewTarget waitW) := by decide +kernel

/-! ## Authenticated commands -/

/-- The envelope words of a command in slot 0 to chip 5 engine 0, without its tag. -/
def bare (cmd ctr : Nat) (body : List Byte) : Nat :=
  pack [(0, 8, cmd), (4, 0, body.length), (8, 0, ctr), (0x10, 0, if body.isEmpty then 0 else 0x1000), (0x18, 0, 5)]
/-- The same with the tag that the rule computes. -/
def sealed (cmd ctr : Nat) (body : List Byte) : Nat :=
  bare cmd ctr body + (cmac kKey (tagged (bare cmd ctr body) body)) <<< 256
/-- The security unit handles the envelope of the set-up path, its body read: slot 0 valid with every permission and counter
5, firmware loaded. -/
def secS (cmd ctr : Nat) (body : List Byte) (f : Ctx → Ctx) : State := { upCtx f with
  slots := up0.slots.set 0 ⟨true, kKey, 0x3F, 5, 0⟩, fw := { up0.fw with valid := true }
  got := if body.isEmpty then [] else [(.crit, 0x1000, body)]
  sec := { up0.sec with presented := some (BitVec.ofNat 448 (sealed cmd ctr body)), reading := some .setup } }
/-- A context in IDLE with its windows. -/
def idleX (x : Ctx) : Ctx := { runX x with state := .idle, enabled := false }
/-- A body of `n` bytes with fields. -/
def body (n : Nat) (fs : List (Nat × Nat × Nat)) : List Byte := leBytes n (pack fs)

/-- Every hypothesis on an accepted command, but the state. -/
def accepts (s : State) (cmd ctr : Nat) (b : List Byte) : Bool :=
  let e := sealed cmd ctr b
  handled s .setup == some e && envCmd e == cmd && judge s .setup e == .accepted b

theorem accepts_of {s : State} {cmd ctr : Nat} {b : List Byte} (h : accepts s cmd ctr b = true) :
    Accepts s .setup cmd (sealed cmd ctr b) b := by
  simp [accepts] at h; exact ⟨⟨h.1.1, h.1.2⟩, h.2⟩

/-- The bodies of the six CTX_ commands: context 1 made with one window, then context 0. -/
def bCreate : List Byte := body 128 [(0, 0, 1), (0x18, 0, 0x10000), (0x50, 0, 1), (0x58, 0, 1000), (0x60, 0, 1)]
def b64 : List Byte := body 64 []
def bWin : List Byte := body 128 [(0x18, 0, 0x10000)]
def bReg : List Byte := body 64 [(8, 0, 1), (0x10, 0, 1000), (0x18, 0, 1)]

theorem witness_ContextCommands :
    (Accepts (secS 1 6 bCreate idleX) .setup 1 (sealed 1 6 bCreate) bCreate
      ∧ fieldsOk (admitted (secS 1 6 bCreate idleX) (sealed 1 6 bCreate)) (sealed 1 6 bCreate) bCreate = true)
    ∧ (Accepts (secS 2 6 b64 idleX) .setup 2 (sealed 2 6 b64) b64
      ∧ fieldsOk (admitted (secS 2 6 b64 idleX) (sealed 2 6 b64)) (sealed 2 6 b64) b64 = true)
    ∧ (Accepts (secS 3 6 b64 idleX) .setup 3 (sealed 3 6 b64) b64
      ∧ fieldsOk (admitted (secS 3 6 b64 idleX) (sealed 3 6 b64)) (sealed 3 6 b64) b64 = true)
    ∧ (Accepts (secS 4 6 b64 idleX) .setup 4 (sealed 4 6 b64) b64
      ∧ fieldsOk (admitted (secS 4 6 b64 idleX) (sealed 4 6 b64)) (sealed 4 6 b64) b64 = true)
    ∧ (Accepts (secS 5 6 bWin idleX) .setup 5 (sealed 5 6 bWin) bWin
      ∧ fieldsOk (admitted (secS 5 6 bWin idleX) (sealed 5 6 bWin)) (sealed 5 6 bWin) bWin = true)
    ∧ (Accepts (secS 6 6 bReg idleX) .setup 6 (sealed 6 6 bReg) bReg
      ∧ fieldsOk (admitted (secS 6 6 bReg idleX) (sealed 6 6 bReg)) (sealed 6 6 bReg) bReg = true) := by
  refine ⟨⟨accepts_of ?_, ?_⟩, ⟨accepts_of ?_, ?_⟩, ⟨accepts_of ?_, ?_⟩, ⟨accepts_of ?_, ?_⟩, ⟨accepts_of ?_, ?_⟩,
    ⟨accepts_of ?_, ?_⟩⟩ <;> decide +kernel

/-- A KEY_LOAD of slot 1 with a wrapped key, and one whose wrap does not open. -/
def bKey : List Byte := leBytes 64 (1 + (leNat kWrapped) <<< 128)
def bBad : List Byte := body 64 [(0, 0, 1)]

theorem witness_EngineCommands :
    (Accepts (secS 0x10 6 b64 id) .setup 0x10 (sealed 0x10 6 b64) b64
      ∧ fieldsOk (admitted (secS 0x10 6 b64 id) (sealed 0x10 6 b64)) (sealed 0x10 6 b64) b64 = true)
    ∧ (Accepts (secS 0x11 6 [] id) .setup 0x11 (sealed 0x11 6 []) []
      ∧ fieldsOk (admitted (secS 0x11 6 [] id) (sealed 0x11 6 [])) (sealed 0x11 6 []) [] = true)
    ∧ (Accepts (secS 0x20 6 bKey id) .setup 0x20 (sealed 0x20 6 bKey) bKey
      ∧ fieldsOk (admitted (secS 0x20 6 bKey id) (sealed 0x20 6 bKey)) (sealed 0x20 6 bKey) bKey = true
      ∧ wrappedKey (admitted (secS 0x20 6 bKey id) (sealed 0x20 6 bKey)) (sealed 0x20 6 bKey) bKey = some kData)
    ∧ (Accepts (secS 0x20 6 bBad id) .setup 0x20 (sealed 0x20 6 bBad) bBad
      ∧ wrappedKey (admitted (secS 0x20 6 bBad id) (sealed 0x20 6 bBad)) (sealed 0x20 6 bBad) bBad = none)
    ∧ (Accepts (secS 0x21 6 b64 id) .setup 0x21 (sealed 0x21 6 b64) b64
      ∧ fieldsOk (admitted (secS 0x21 6 b64 id) (sealed 0x21 6 b64)) (sealed 0x21 6 b64) b64 = true)
    ∧ (Accepts (secS 0x30 6 b64 id) .setup 0x30 (sealed 0x30 6 b64) b64
      ∧ fieldsOk (admitted (secS 0x30 6 b64 id) (sealed 0x30 6 b64)) (sealed 0x30 6 b64) b64 = true) := by
  refine ⟨⟨accepts_of ?_, ?_⟩, ⟨accepts_of ?_, ?_⟩, ⟨accepts_of ?_, ?_, ?_⟩, ⟨accepts_of ?_, ?_⟩, ⟨accepts_of ?_, ?_⟩,
    ⟨accepts_of ?_, ?_⟩⟩ <;> decide +kernel

/-- An image of 64 zero bytes after its header; and one without a header. -/
def bImage : List Byte :=
  body 128 [(0, 0, 1), (4, 0, 128), (8, 0, 9), (0xC, 0, 1), (0x10, 0, 64), (0x14, 0, crc32c (zeros 64))]

theorem witness_FirmwareLoad :
    (Accepts (secS 0x12 6 bImage id) .setup 0x12 (sealed 0x12 6 bImage) bImage ∧ imageError bImage = none)
    ∧ (Accepts (secS 0x12 6 b64 id) .setup 0x12 (sealed 0x12 6 b64) b64 ∧ imageError b64 = some 10) := by
  refine ⟨⟨accepts_of ?_, ?_⟩, ⟨accepts_of ?_, ?_⟩⟩ <;> decide +kernel

/-- SAFE by a FW_LOAD: at its row, and by an error response to the read of its body. -/
theorem witness_EngineTransitions2 :
    goes (.fwLoad .setup) (secS 0x12 6 b64 id) .safe = true
    ∧ goes (.memErrorResponse 3) { secS 0x12 6 b64 id with
        got := [], memOut := [⟨3, .crit, false, 0x1000, 64, [], [], [], 7, none⟩] } .safe = true
    ∧ inRun drained0 = false := by decide +kernel

/-- The hypotheses on an envelope that passes checks 1 to 6, with its counter. -/
def upTo6 (s : State) (cmd ctr : Nat) (b : List Byte) : Bool :=
  let e := sealed cmd ctr b
  handled s .setup == some e && envCmd e == cmd && (earlyCheck s .setup e).isNone && tagOk s e (bodyGot s e)
    && envCounter e == ctr
/-- `secS` under another alarm policy. -/
def policed (n : BitVec 2) (s : State) : State := { s with sec := { s.sec with policy := n } }

theorem witness_StaleEnvelopeExecutesNothing :
    (secS 0x21 5 b64 id).slots[(0 : Fin 8)].counter.toNat = 5
    ∧ (upTo6 (policed 0 (secS 0x21 5 b64 id)) 0x21 5 b64 = true ∧ (policed 0 (secS 0x21 5 b64 id)).sec.policy = 0)
    ∧ upTo6 (policed 0 (secS 0x12 5 b64 id)) 0x12 5 b64 = true
    ∧ (upTo6 (policed 2 (secS 0x21 5 b64 id)) 0x21 5 b64 = true ∧ (policed 2 (secS 0x21 5 b64 id)).sec.policy ≠ 0) := by
  decide +kernel

theorem witness_NoFirmwareRefusesContexts :
    upTo6 { secS 2 6 b64 idleX with fw := up0.fw } 2 6 b64 = true ∧ up0.fw.valid = false
    ∧ bvBit (secS 2 6 b64 idleX).slots[(0 : Fin 8)].perm 0 = true ∧ 6 < 0x10 := by decide +kernel

theorem witness_ViolationsAct :
    4 ≤ 4 ∧ up0.eng ≠ .off ∧ ({ up0 with eng := .locked } : State).eng = .locked ∧ (policed 0 up0).sec.policy = 0
    ∧ (policed 1 up0).sec.policy ≠ 0 ∧ up0.eng ≠ .locked ∧ 1 ≤ 3 ∧ 3 < 4 := by decide +kernel

/-- An erase is in progress. -/
def erasing0 : State := { up0 with sec := { up0.sec with erasing := true } }

theorem witness_KeyStoreWrites :
    (up0.eng ≠ .off ∧ provHeld up0 = false) ∧ (erasing0.eng ≠ .off ∧ provHeld erasing0 = true)
    ∧ provHeld (secS 0x21 6 b64 id) = true
    ∧ provHeld { st0 with st := { st0.st with keyStepPending := true, fromOff := true } } = true
    ∧ provHeld { secS 0x21 6 b64 id with eng := .locked } = false
    ∧ erasing0.sec.erasing = true ∧ erasing0.provWait = [] := by decide +kernel

theorem witness_KeysAreNeverRead : SameButKeys up0 { up0 with slots := up0.slots.set 0 { up0.slots[0] with key := 1 } } :=
  ⟨_, rfl, by decide +kernel⟩

/-! ## The set-up port -/

theorem witness_RegisterWrites : up0.live = true ∧ regAt (ctxOff 0 4) = some (.ctx 0 .ctl) ∧ State.reset.live = false
    ∧ regAt 0xFFFFF = none ∧ (7 : BitVec 4) ≠ 15 := by decide +kernel

theorem witness_RegisterReads : (up0.on = true ∧ regAt 0 = some .id)
    ∧ (regAt 0x30 = some (.lo .tick) ∧ regAt 0x34 = some (.hi .tick) ∧ Pair.tick ≠ .tdc)
    ∧ (regAt 0x3108 = some (.lo .tdc) ∧ regAt 0x310C = some (.hi .tdc))
    ∧ State.reset.on = false ∧ regAt 0xFFFFF = none := by decide +kernel

/-- A context whose rings allow an enable. -/
def ringX (x : Ctx) : Ctx := { idleX x with sqBase := 0x1000, cqBase := 0x2000, db := 0x3000 }
/-- The word of NDE_CTX_CTL with one of its three bits. -/
def drainX (st : CtxState) (x : Ctx) : Ctx := { runX x with state := st, drainBusy := true }

theorem witness_ContextControl :
    ((upCtx ringX).live = true ∧ ((upCtx ringX).ctx 0).state ≠ .free ∧ ((upCtx ringX).ctx 0).state ≠ .faulted
      ∧ bitAt 0 1 = false ∧ bitAt 0 2 = false ∧ bitAt 0 0 = false)
    ∧ (((upCtx ringX).ctx 0).drainBusy = false ∧ ((upCtx ringX).ctx 0).enabled = false
      ∧ ringOk ((upCtx ringX).ctx 0) = true ∧ grpOk ((upCtx ringX).ctx 0) = true)
    ∧ (((upCtx idleX).ctx 0).enabled = false
      ∧ (ringOk ((upCtx idleX).ctx 0) && grpOk ((upCtx idleX).ctx 0)) = false)
    ∧ (((upCtx runX).ctx 0).drainBusy = false ∧ ((upCtx runX).ctx 0).enabled = true)
    ∧ (((upCtx (drainX .draining)).ctx 0).drainBusy = true ∧ ((upCtx (drainX .draining)).ctx 0).state ≠ .free
      ∧ ((upCtx (drainX .draining)).ctx 0).state ≠ .faulted)
    ∧ (((upCtx idleX).ctx 0).state = .idle ∧ ((upCtx idleX).ctx 0).drainBusy = false)
    ∧ ((upCtx fun x => { x with state := .faulted }).ctx 0).state = .faulted
    ∧ (bitAt 0 0 = ((upCtx idleX).ctx 0).enabled)
    ∧ ((upCtx (drainX .faulted)).ctx 0).state = .faulted ∧ ((upCtx (drainX .faulted)).ctx 0).drainBusy = true
    ∧ ((up0.ctx 0).state = .free ∧ (up0.ctx 0).drainBusy = false)
    ∧ grpOk ((upCtx fun x => { x with grpRank := 1 }).ctx 0) = false := by decide +kernel

theorem witness_RingAndGroupRegisters : up0.live = true ∧ quietCtx (up0.ctx 0) = true ∧ quietCtx ((upCtx runX).ctx 0) = false
    ∧ namesSelf up0 0 0x80000005 = true ∧ namesSelf up0 0 0 = false ∧ RingReg.dbHi ≠ .poll := by decide +kernel

theorem witness_ClearsAndSettings : up0.live = true ∧ cfgBad up0 5 = true ∧ cfgBad up0 0x80000006 = false := by
  decide +kernel

/-- `up0` with channel 2 changed. -/
def chanS (f : DmaChan → DmaChan) : State := modDma up0 2 f
/-- A channel that is BUSY with a fill of four bursts at 0x2000, or a copy to the host from there. -/
def fillX (k : DmaChan) : DmaChan := { k with
  state := .busy, activeValid := true, active := { dmaSetReset with op := 1, dst := 0x2000, len := 8192 } }
def copyX (k : DmaChan) : DmaChan := { k with
  state := .busy, activeValid := true, active := { dmaSetReset with src := 0x2000, dstHost := true, len := 8192 } }
/-- The memory regulator of context 0 is spent. -/
def spent (s : State) : State := modCtx s 0 fun x => { x with regMem := ⟨1, 1, 64, 20, [], false⟩ }

theorem witness_DmaEnableWhileDraining :
    up0.live = true ∧ bitAt 0 1 = false ∧ ((chanS fun k => { k with state := .draining }).chan 2).state = .draining
    ∧ ((chanS fun k => { k with state := .off }).chan 2).state = .off ∧ (up0.chan 2).state = .idle
    ∧ ((chanS fillX).chan 2).state = .busy ∧ drainOver (chanS fun k => { k with state := .draining }) 2 = true := by
  decide +kernel

/-- A request of nobody; and 256 of them outstanding on the memory channel of 0x2000. -/
def req0 (w : Bool) : MemReq := ⟨3, .dead, w, 0x1000, 64, if w then zeros 64 else [], if w then zeros 64 else [], [], 7, none⟩
def fullPort : State := { chanS copyX with memOut := List.replicate 256 { req0 false with addr := 0x2000 } }

theorem witness_DmaAbortAndBurst :
    ((chanS fillX).live = true ∧ bitAt 1 0 = true ∧ ((chanS fillX).chan 2).state = .busy)
    ∧ (up0.chan 2).state = .idle ∧ bitAt 0 1 = false
    ∧ (burstLeft ((chanS fillX).chan 2) = true ∧ limiterHeld (chanS fillX) ((chanS fillX).chan 2) = false
      ∧ ((chanS fillX).chan 2).active.op = 1 ∧ memOpen (chanS fillX) 0 = true ∧ channelFree (chanS fillX) 2 = true
      ∧ firstOnChip ((chanS fillX).chan 2).active 0 = some 0x2000 ∧ chanRoom (chanS fillX) 0x2000 = true)
    ∧ (burstLeft ((spent (chanS copyX)).chan 2) = true ∧ limiterHeld (spent (chanS copyX)) ((spent (chanS copyX)).chan 2) = false
      ∧ firstOnChip ((spent (chanS copyX)).chan 2).active 0 = some 0x2000 ∧ channelFree (spent (chanS copyX)) 2 = true
      ∧ memOpen (spent (chanS copyX)) (Fin.ofNat 16 ((spent (chanS copyX)).chan 2).active.ctx.toNat) = false)
    ∧ (chanRoom fullPort 0x2000 = false ∧ memOpen fullPort 0 = true ∧ channelFree fullPort 2 = true
      ∧ burstLeft (fullPort.chan 2) = true ∧ limiterHeld fullPort (fullPort.chan 2) = false) := by
  decide +kernel

/-! ## Host rings -/

/-- A doorbell poll is out. -/
def polling : State := upCtx fun x => { runX x with dbReading := true }
/-- Three descriptors are waiting in the ring, or have been asked for. -/
def tailed : State := upCtx fun x => { runX x with tail := 3 }
def asked (e : EngState) : State := { (upCtx fun x => { runX x with tail := 3, fetching := some ⟨3, 0, false⟩ }) with eng := e }

theorem witness_DoorbellRead :
    ((upCtx runX).live = true ∧ polled ((upCtx runX).ctx 0) = true ∧ ((upCtx runX).ctx 0).dbReading = false
      ∧ ((upCtx runX).ctx 0).lastPoll = none)
    ∧ (polling.live = true ∧ (polling.ctx 0).dbReading = true ∧ polled (polling.ctx 0) = true
      ∧ doorbellOk (polling.ctx 0) 16 0 = true) := by decide +kernel

theorem witness_DoorbellRejected :
    polling.live = true ∧ (polling.ctx 0).dbReading = true ∧ polled (polling.ctx 0) = true
    ∧ 2 ^ (polling.ctx 0).sqLog2.toNat < ((17 : BitVec 32) - (polling.ctx 0).fetched).toNat
    ∧ 2 ^ (polling.ctx 0).cqLog2.toNat < ((polling.ctx 0).written - (1 : BitVec 32)).toNat := by decide +kernel

theorem witness_DescriptorsFetched :
    (tailed.live = true ∧ fetchTurn tailed = some 0)
    ∧ ((asked .up).eng = .up ∧ ((asked .up).ctx 0).fetching = some ⟨3, 0, false⟩
      ∧ (List.replicate 3 (0 : BitVec 512)).length = 3)
    ∧ ((asked .safe).eng = .safe ∧ ((asked .safe).ctx 0).fetching = some ⟨3, 0, false⟩)
    ∧ ((asked .safe).live = true ∧ ((asked .safe).ctx 0).fetching.isSome = true) := by decide +kernel

/-! ## Contexts and the scheduler -/

theorem witness_DrainsAndResets :
    (drained (upCtx (drainX .draining)) 0 = true ∧ ((upCtx (drainX .draining)).ctx 0).resetPending = false
      ∧ ((upCtx (drainX .draining)).ctx 0).enablePending = false)
    ∧ (drained (upCtx fun x => { drainX .draining x with enablePending := true }) 0 = true
      ∧ ((upCtx fun x => { drainX .draining x with enablePending := true }).ctx 0).enablePending = true)
    ∧ (drained (upCtx (drainX .faulted)) 0 = true ∧ ((upCtx (drainX .faulted)).ctx 0).state = .faulted)
    ∧ (drained (upCtx fun x => { drainX .draining x with resetPending := true }) 0 = true
      ∧ ((upCtx fun x => { drainX .draining x with resetPending := true }).ctx 0).destroyPending = false)
    ∧ drained (upCtx fun x => { drainX .draining x with resetPending := true, destroyPending := true }) 0 = true
    ∧ up0.memWait = [] ∧ up0.memOut.length < 250 := by
  decide +kernel

/-- Context 0 QUEUED and context 1 QUEUED of the LC class. -/
def queued2 : State := modCtx (upCtx fun x => { runX x with state := .queued }) 1 fun x => { runX x with state := .queued, lc := true }
/-- Context 0 RUNNING for 20 µs, or PREEMPTING, with context 1 QUEUED. -/
def rivals (st : CtxState) : State := { modCtx (upCtx fun x => { runX x with state := st }) 1 fun x => { runX x with state := .queued }
  with sched := { up0.sched with quantumBe := 20, limitInForce := 20 } }

theorem witness_SchedulerPicksAndSwitches : queued2.up = true ∧ queued2.running = none ∧ pickCtx queued2 = some 1
    ∧ (queued2.ctx 1).state = .queued ∧ (queued2.ctx 1).lc = true := by decide +kernel

/-- A route context of one expert and 256 elements, without norm or halt logit. -/
def hdr0 : List Byte := leBytes 256 (pack [(4, 0, 1), (0x24, 0, 0x3F800000), (0x60, 16, 1), (0x64, 0, 256)])
/-- A token as staged, and its tile. -/
def tok0 : Tok := { freshTok 0 0 none with row := some (zeros 1024) }
def tile0 : Tile := specTile 0 ⟨1, 0, 0, 0, 0, false, 0, 0, 0, 0, 0, 0, 0, 0, false, false, []⟩ 0
  ⟨.route, 0, 1, 1, 256, 0, 0, hdr0, 0, 0, [], [none]⟩ [tok0]
/-- Context 0 in a state with one tile. -/
def tiled (t : Tile) : State := { upCtx (fun x => { runX x with coreset := 1 }) with tiles := [t] }

theorem witness_SchedulerPicksAndSwitches2 :
    ((rivals .running).up = true ∧ (rivals .running).running = some 0 ∧ overQuantum (rivals .running) 0 = true)
    ∧ ((rivals .preempting).running = some 0 ∧ limitPassed { rivals .preempting with tiles := [tile0] } 0 = true)
    ∧ (((upCtx fun x => { runX x with pendMode := some (true, false) }).ctx 0).pendMode = some (true, false)
      ∧ tilesOf (upCtx fun x => { runX x with pendMode := some (true, false) }) 0 = []) := by decide +kernel

theorem witness_RegulatorWindows :
    (up0.live = true ∧ regNow (regOf ((spent up0).ctx 0) .memory) 21000 ≠ regOf ((spent up0).ctx 0) .memory
      ∧ regNow (regOf (({ spent up0 with tick := 21000 } : State).ctx 0) .memory) ({ spent up0 with tick := 21000 } : State).now
          ≠ regOf (({ spent up0 with tick := 21000 } : State).ctx 0) .memory)
    ∧ ((⟨1, 1, 64, 20, [], false⟩ : Regul).next = [] ∧ (⟨1, 1, 64, 20, [], false⟩ : Regul).window ≠ 0)
    ∧ regulReset.budget = 0 := by decide +kernel

/-- The step takes context `c` from one state to another. -/
def edge (i : Instr) (s : State) (c : CtxId) (a b : CtxState) : Bool :=
  (s.ctx c).state == a && (after i s).any fun t => (t.ctx c).state == b
/-- A TILE_ROUTE that has not been checked. -/
def jobNew : TpJob := ⟨1, BitVec.ofNat 512 (pack [(0, 0, 1)]), 0, 1, 1, true, 0, 0, 0, 0, 0, 0, 0, 0, false, false, []⟩
/-- The save record of context 0, in PREEMPTING, is being written. -/
def leavingS (f : Ctx → Ctx) : State := { upCtx fun x => f { runX x with state := .preempting, leaving := some 1 } with
  memOut := [⟨3, .saveWrite 0 1, true, 0x1000, 64, zeros 64, zeros 64, [], 7, none⟩] }

theorem witness_ContextTransitions :
    edge (.ctxCreate .setup) (secS 1 6 bCreate idleX) 1 .free .idle = true
    ∧ edge (.ctxDestroy .setup) (secS 2 6 b64 idleX) 0 .idle .free = true
    ∧ edge .tdcClear (upCtx fun x => { runX x with state := .idle, tp := [jobNew] }) 0 .idle .queued = true
    ∧ edge .schedPick (upCtx fun x => { runX x with state := .queued, tp := [jobNew] }) 0 .queued .running = true
    ∧ edge .schedPick queued2 1 .queued .idle = true
    ∧ edge .tdcClear (upCtx runX) 0 .running .idle = true
    ∧ edge .schedQuantumExpire (rivals .running) 0 .running .preempting = true
    ∧ edge (.memWriteResponse 3) (leavingS id) 0 .preempting .idle = true
    ∧ edge (.memWriteResponse 3) (leavingS fun x => { x with tp := [jobNew] }) 0 .preempting .queued = true := by
  decide +kernel
theorem witness_ContextTransitions2 :
    edge (.ctxDisable 0 0) (upCtx runX) 0 .running .draining = true
    ∧ edge (.drainEnd 0) (upCtx (drainX .draining)) 0 .draining .idle = true
    ∧ edge (.drainEnd 0) (upCtx fun x => { drainX .draining x with resetPending := true, destroyPending := true }) 0
        .draining .free = true
    ∧ edge (.instructionStoreError .double) (upCtx runX) 0 .running .faulted = true
    ∧ edge (.ctxReset 0 0) (upCtx fun x => { x with state := .faulted }) 0 .faulted .idle = true
    ∧ edge .powerOff (upCtx runX) 0 .running .free = true := by decide +kernel

/-! ## The tile path -/

/-- A TILE_ROUTE whose checks have passed, with one token. -/
def job1 : TpJob := ⟨1, BitVec.ofNat 512 (pack [(0, 0, 1)]), 0, 1, 1, true, 0, 0, 0, 0, 0, 0, 0, 0, false, false, []⟩
/-- Context 0 has it, having last begun an epoch at a tick. -/
def jobbed (e : Option (BitVec 64)) : State :=
  upCtx fun x => { runX x with tp := [job1], resumed := true, lastEpoch := e }

theorem witness_TilesStaged :
    ((jobbed (some 19744)).up = true ∧ stageJob (jobbed (some 19744)) = some (0, job1)
      ∧ memOpen (jobbed (some 19744)) 0 = true ∧ ((jobbed (some 19744)).tiles.filter (·.halfHeld)).length < 2
      ∧ ((jobbed (some 19744)).ctx 0).lastEpoch = some 19744 ∧ 256 ≤ (jobbed (some 19744)).since 19744)
    ∧ stageJob (jobbed (some 19745)) = some (0, job1) ∧ (jobbed (some 19745)).since 19745 < 256 := by decide +kernel

/-- The resident route context of a header. -/
def entry0 (hdr : List Byte) : HotEntry :=
  { dirEntry 0x8000 (leNat hdr) false with resident := true, loading := false, store := hdr ++ zeros 1024 }
/-- `tiled` with the route context of its header. -/
def routed0 (t : Tile) : State := { tiled t with dir := [(0, entry0 hdr0)] }
/-- A tile with a bank and one token. -/
def bankTile (k : Tok) : Tile := { tile0 with bank := some 0, toks := [k] }
/-- A token with its router input, dealt to slice 0. -/
def tokY : Tok := { tok0 with y := some (List.replicate 256 zeroF), slice := some 0 }
/-- A tile being scored: its only set is broadcast. -/
def scoreTile : Tile := { bankTile tokY with sharesDealt := true, bcast := 1 }
/-- A state in which its token streams. -/
def scoreS : State := { routed0 scoreTile with
  slices := Vector.replicate 8 { sliceReset with active := some (setNo scoreTile 0) } }

theorem witness_TokensScored :
    ((routed0 (bankTile tok0)).up = true ∧ tileTok (routed0 (bankTile tok0)) 0 0 = some (bankTile tok0, tok0)
      ∧ tok0.row = some (zeros 1024) ∧ tileDir (routed0 (bankTile tok0)) (bankTile tok0) = some (0, entry0 hdr0)
      ∧ tile0.dead = false ∧ tile0.kind = .route ∧ tok0.status = none ∧ tok0.y = none)
    ∧ (scoreS.up = true ∧ tileNo scoreS 0 = some scoreTile ∧ tileDir scoreS scoreTile = some (0, entry0 hdr0)
      ∧ mayScore scoreS scoreTile (entry0 hdr0) = true ∧ hHold (leNat hdr0) = false
      ∧ beginScoring scoreS scoreTile 0 (entry0 hdr0) = some scoreS
      ∧ tileTok (swapAll scoreS) 0 0 = some (scoreTile, tokY)
      ∧ tokTurn (swapAll scoreS) scoreTile 0 tokY = true ∧ holdReady (swapAll scoreS) scoreTile tokY = true)
    ∧ (shadowsFree (swapAll (routed0 tile0)) = true
      ∧ nextBroadcast (swapAll (routed0 tile0)) = some tile0)
    ∧ (let t := { scoreTile with epoch := 1, model := 1 }
      let s := { scoreS with
        tiles := [scoreTile, t], slices := vmap (fun l => { l with shadow := some (setNo t 0) }) scoreS.slices }
      shadowsFree (swapAll s) = false) := by decide +kernel

theorem witness_FixedShares :
    findTile (routed0 tile0) 0 0 = some tile0 ∧ enabledSlices (routed0 tile0) ≠ []
    ∧ (routed0 tile0).sched.scored = false ∧ (unmasked tile0)[0]? = some 0
    ∧ (findTile (dealShares (routed0 tile0) tile0) 0 0).any (fun x => x.toks[0]?.isSome) = true := by decide +kernel

/-- A header with a halt logit and threshold 0. -/
def hdrH : Nat := pack [(4, 0, 1), (4, 30, 1)]
/-- A token with every set streamed. -/
def tokZ : Tok := { tokY with sets := 1, allNegInf := false }

theorem witness_TokensSelected :
    ((routed0 (bankTile tokZ)).up = true ∧ tileTok (routed0 (bankTile tokZ)) 0 0 = some (bankTile tokZ, tokZ)
      ∧ tokZ.status = none ∧ tokZ.scored (leNat hdr0) = true)
    ∧ (tokZ.held = false ∧ tokZ.badLogit = false ∧ { tokZ with badLogit := true }.held = false)
    ∧ (hHalt hdrH = true ∧ isNan { tokZ with halt := nanF }.halt = true)
    ∧ (isNan { tokZ with halt := 0x3F800000 }.halt = false ∧ ltF (hHaltThr hdrH) { tokZ with halt := 0x3F800000 }.halt = true
      ∧ (outcomeOf hdrH { tokZ with halt := 0x3F800000 }).1 ≠ .routed)
    ∧ ltF (hHaltThr hdrH) tokZ.halt = false ∧ hHalt (leNat hdr0) = false ∧ { tokZ with held := true }.held = true
    ∧ (bankTile tokZ).bank = some 0
    ∧ fillNext { bankTile tokZ with toks := [{ tokZ with status := some .routed }, tokZ] }
      = [(0, { tokZ with status := some .routed })]
    ∧ (outcomeOf (leNat hdr0) { tokZ with badLogit := true }).1 ≠ .routed := by
  decide +kernel

/-- A filled tile, with a header. -/
def filledTile (h : List Byte) : Tile := { bankTile { tokZ with status := some .routed } with filled := true, hdr := h }
/-- A bucketed tile with a course left. -/
def courseTile (h : List Byte) : Tile := { filledTile h with bucketed := true, later := [[0]] }
/-- `hdr0` with a core quota of 255, and with DROP and a deadline of 256 ticks. -/
def hdrLow : List Byte := leBytes 256 (pack [(4, 0, 1), (0x60, 16, 1), (0x64, 0, 255)])
def hdrDrop : List Byte := leBytes 256 (pack [(4, 0, 1), (0x60, 0, 2), (0x60, 16, 1), (0x64, 0, 256), (0x68, 16, 1)])

theorem witness_TilesDispatched :
    (tileNo (tiled (filledTile hdr0)) 0 = some (filledTile hdr0) ∧ (tiled (filledTile hdr0)).up = true
      ∧ (filledTile hdr0).dead = false ∧ (filledTile hdr0).kind ≠ .combine ∧ (filledTile hdr0).bank.isSome = true
      ∧ (filledTile hdr0).bucketed = false
      ∧ (olderTiles (tiled (filledTile hdr0)) (filledTile hdr0)).all Tile.dispatched = true
      ∧ (capPlan (tiled (filledTile hdr0)) (filledTile hdr0)).quota * (coreSet (tiled (filledTile hdr0)) 0).length = 256
      ∧ (capPlan (tiled (filledTile hdrLow)) (filledTile hdrLow)).quota * (coreSet (tiled (filledTile hdrLow)) 0).length = 255)
    ∧ (tileNo (tiled (courseTile hdrDrop)) 0 = some (courseTile hdrDrop) ∧ (courseTile hdrDrop).writers = []
      ∧ feeds (tiled (courseTile hdrDrop)) (courseTile hdrDrop) = false
      ∧ courseLate (tiled (courseTile hdr0)) (courseTile hdr0) (capPlan (tiled (courseTile hdr0)) (courseTile hdr0)) = false
      ∧ courseLate (tiled (courseTile hdrDrop)) (courseTile hdrDrop)
          (capPlan (tiled (courseTile hdrDrop)) (courseTile hdrDrop)) = true)
    ∧ (let s := { tiled tile0 with dir := [(0, { entry0 hdr0 with resident := false })] }
      tileNo s 0 = some tile0 ∧ tileDir s tile0 = some (0, { entry0 hdr0 with resident := false })
      ∧ tile0.sharesDealt = false) := by decide +kernel

/-! ## Core work queues, feed and drain -/

/-- A packet of this engine with one row of one choice, in a state. -/
def pkt0 (st : PktState) (feed : List FeedUnit) : Packet :=
  { ownPacket (tiled tile0) tile0 0 0 with state := st, feed := feed, items := 1, choices := 1, slots := [0], listPtr := 0 }
/-- The queue of port 0 holds packets. -/
def queued0 (s : State) (ks : List Packet) : State := modQueue s 0 fun q => { q with packets := ks }
/-- A spore's packet of engine 0 of chip 9. -/
def sporePkt : Packet := { pkt0 .committed [] with spore := true, srcChip := 9, places := 3 }

theorem witness_PacketsQueued :
    ((tiled { tile0 with writers := [(0, pkt0 .committed [])] }).up = true
      ∧ tileWriter (tiled { tile0 with writers := [(0, pkt0 .committed [])] }) 0
        = some ({ tile0 with writers := [(0, pkt0 .committed [])] }, pkt0 .committed []))
    ∧ (tileWriter { up0 with sporeWriters := [(0, sporePkt)] } 0 = none
      ∧ ({ up0 with sporeWriters := [(0, sporePkt)] } : State).sporeWriters = (0, sporePkt) :: []
      ∧ up0.queues[0].packets.length < 64 ∧ (pkt0 .committed []).spore = false ∧ sporePkt.spore = true)
    ∧ 64 ≤ (queued0 up0 (List.replicate 64 sporePkt)).queues[0].packets.length
    ∧ (selected (queued0 up0 [sporePkt]).queues[0] = some sporePkt
      ∧ ((queued0 up0 [sporePkt]).queues[0].packets.any fun k => k.state == .feeding) = false
      ∧ ∃ x ∈ (queued0 up0 [{ sporePkt with lc := true }]).queues[0].packets, x.state = .committed ∧ x.lc = true) := by
  refine ⟨by decide +kernel, by decide +kernel, by decide +kernel, by decide +kernel, by decide +kernel,
    { sporePkt with lc := true }, by decide +kernel, rfl, rfl⟩

/-- A packet in FEEDING with a data flit and its last word left. -/
def feed0 : Packet := pkt0 .feeding [.flit 0 0, .item endWord]

theorem witness_PacketsFed :
    (queued0 (tiled tile0) [feed0]).live = true ∧ grantTurn (queued0 (tiled tile0) [feed0]) 1 = some 0
    ∧ feedingOn (queued0 (tiled tile0) [feed0]) 0 = some feed0 ∧ charged feed0 = true ∧ feed0.spore = false := by
  decide +kernel

/-- A tag of `pkt0`, with its flags in bits 0 and 1. -/
def tag0 (flags : Nat) : BitVec 128 :=
  BitVec.ofNat 128 (pack [(0, 0, flags), (0, 26, 0), (4, 0, (pkt0 .awaiting []).srcChip.toNat)])
/-- Its packet awaits results on port 0, the slot expected. -/
def drainS (fill : Bool) : State :=
  queued0 { tiled { tile0 with bank := some 0, bucketed := true, filled := true, fill := [fill] } with
    banks := Vector.replicate 2 { bankReset with entries := [(0, rtFill 0 0 1 0 0x3F800000 false)] } } [pkt0 .awaiting []]
/-- The tile of `drainS`. -/
def drainTile (fill : Bool) : Tile := { tile0 with bank := some 0, bucketed := true, filled := true, fill := [fill] }

theorem witness_PacketsDrained :
    ((drainS false).live = true ∧ (zeros 256).length = 256 ∧ tagMark (tag0 0) = false ∧ drainPkt up0 0 (tag0 0) = none
      ∧ drainPkt (drainS false) 0 (tag0 0) = some (pkt0 .awaiting []) ∧ tagLast (tag0 0) = false
      ∧ drainPkt (drainS false) 0 (tag0 2) = some (pkt0 .awaiting []) ∧ tagLast (tag0 2) = true)
    ∧ (laneFull up0 0 = false ∧ laneFull { up0 with lanes := [(0, tag0 0, zeros 256)] } 0 = true)
    ∧ (let l := (0, tag0 2, zeros 256)
      let s := { drainS false with lanes := [l] }
      let held := { s with memOut := List.replicate 256 { req0 false with addr := 0 } }
      laneTurn s = some l ∧ mayDrain held l = false ∧ laneTurn held = none)
    ∧ (tagMark (tag0 1) = true ∧ markedPkt up0 0 (tag0 1) = none
      ∧ markedPkt (drainS false) 0 (tag0 1) = some (pkt0 .awaiting []))
    ∧ coreStuck { drainS false with tick := 2000000 } 0 = true
    ∧ (findTile (drainS false) 0 0 = some (drainTile false) ∧ expected (drainS false) (drainTile false) 0 = true
      ∧ resultIn (drainS false) (drainTile false) 0 = false ∧ slotBusy (drainS false) (drainTile false) 0 = false
      ∧ findTile (drainS true) 0 0 = some (drainTile true) ∧ resultIn (drainS true) (drainTile true) 0 = true
      ∧ expected (drainS true) (drainTile true) 1 = false) := by decide +kernel

/-! ## Combine, commit and reduction -/

/-- A token is ready in slice 0's section. -/
def readyS : State := { drainS true with ready := [(0, 0, 0)] }
/-- A tile with everything written. -/
def doneTile : Tile := { drainTile true with toks := [{ tok0 with status := some .routed, combined := true }], logged := true }
/-- A reduction of layer 0 that waits. -/
def waits (t : BitVec 64) : Reduction := ⟨freshStat tile0, 0, .waitDown, t, []⟩
/-- Context 0 has it. -/
def reducing (now : BitVec 64) : State := { upCtx (fun x => { runX x with reductions := [waits 0] }) with tick := now }

theorem witness_TilesCombinedAndReduced :
    (readyS.up = true ∧ tileTok readyS 0 0 = some (drainTile true, tok0) ∧ tok0.combined = false
      ∧ tok0.mixing = false ∧ (drainTile true).dead = false ∧ sectionOf readyS 0 = some 0
      ∧ sectionTurn readyS (drainTile true) 0 = true ∧ frameFree readyS (drainTile true) 0 = true)
    ∧ (findTile (drainS true) (drainTile true).ctx (drainTile true).epoch = some (drainTile true)
      ∧ tokAt (drainTile true) 0 = some tok0)
    ∧ ({ doneTile with committing := true }.committing = true
      ∧ tileBusy (tiled { doneTile with committing := true }) { doneTile with committing := true } = false)
    ∧ committable (tiled doneTile) = some doneTile ∧ committable up0 = none
    ∧ ((reducing 1024000).live = true ∧ ((reducing 1024000).ctx 0).reductions = [waits 0]
      ∧ lostTicks (reducing 1024000) = (reducing 1024000).since 0
      ∧ (reducing 1023999).since 0 < lostTicks (reducing 1023999)
      ∧ (((reducing 0).ctx 0).tp.find? fun j => tpOp j.ops == 1) = none
      ∧ (((modCtx (reducing 1024000) 0 fun x => { x with tp := [job1] }).ctx 0).tp.find? fun j => tpOp j.ops == 1) = some job1)
    := by decide +kernel

/-! ## Basol -/

/-- A stream to engine 0 of chip 9 by port 0, and one from it. -/
def tx0 : TxStream := ⟨9, false, 0, 0, 1, 24, 8, none, [], [], [], 0, 0, false, false⟩
def rx0 : RxStream := ⟨9, false, 1, 0, 0, [], 0, 0, [], true, 24, 8, none, 0⟩
/-- A message, and its block sent at a tick. -/
def msg0 : TxMsg := ⟨2, .result, zeros 64⟩
def blk0 (t : BitVec 64) : TxBlk := ⟨0, zeros 512, 1, 2, .result, t, t⟩
/-- `up0` with one stream, or at another tick. -/
def txS (t : TxStream) : State := { up0 with tx := [t] }
def rxS (r : RxStream) : State := { up0 with rx := [r] }
def lateS (s : State) : State := { s with tick := 1024000 }

theorem witness_BlocksSent :
    let sent := { tx0 with unacked := [blk0 0], resend := [0] }
    let going := { tx0 with cur := some (msg0, 0) }
    let broke := { going with general := 0, reserved := 0 }
    (findTx (txS sent) 9 false = some sent ∧ tx0.ended = false ∧ tx0.stopped = false ∧ up0.up = true
      ∧ sent.resend = 0 :: [] ∧ (sent.unacked.find? fun b => b.seq == 0) = some (blk0 0))
    ∧ (findTx (txS going) 9 false = some going ∧ going.resend = [] ∧ (spend msg0.kind 24 8).isSome = true)
    ∧ (findTx (txS tx0) 9 false = some tx0 ∧ tx0.cur = none)
    ∧ (findTx (txS broke) 9 false = some broke ∧ spend msg0.kind 0 0 = none)
    ∧ isAnswer 2 = true ∧ isAnswer 1 = false := by decide +kernel

/-- A block of a message of a type from engine 0 of chip 9 under a generation and a number. -/
def inBlk (first : Bool) (kind gen seq : Nat) : List Byte :=
  blockBytes512 (pack [(0, 0, 9), (0, 18, b2n first), (0, 19, 1), (0, 20, kind), (0, 24, gen), (4, 0, seq), (8, 16, 64)]) (zeros 64)

theorem witness_BlocksReceived :
    ((inBlk true 2 1 0).length = 512 ∧ up0.on = true ∧ up0.inReset = false)
    ∧ ((readBlock (inBlk true 2 1 0)).first = true ∧ (readBlock (inBlk false 2 1 0)).first = false ∧ st0.up = false
      ∧ st0.on = true)
    ∧ (findRx (rxS rx0) 9 false = some rx0 ∧ (rxS rx0).up = true ∧ (readBlock (inBlk true 2 1 0)).gen = rx0.gen
      ∧ (readBlock (inBlk true 2 1 0)).chip = 9 ∧ (readBlock (inBlk true 2 1 0)).engine = false
      ∧ (readBlock (inBlk true 2 1 0)).seq = rx0.expect ∧ (readBlock (inBlk true 2 1 0)).kind ≠ 1)
    ∧ (readBlock (inBlk true 2 1 1)).seq ≠ rx0.expect
    ∧ ((readBlock (inBlk true 1 1 0)).kind = 1 ∧ refusesSpores (rxS rx0) = true)
    ∧ (olderGen (readBlock (inBlk true 2 0 0)).gen rx0.gen = true ∧ rx0.known = true) := by decide +kernel
/-- The blocks of `witness_BlocksReceived` are good, and one of zeros is bad. -/
theorem witness_goodBlocks :
    (blockGood (inBlk true 2 1 0) && blockGood (inBlk false 2 1 0)) = true := by decide +kernel
theorem witness_goodBlocks2 :
    (blockGood (inBlk true 2 1 1) && blockGood (inBlk true 1 1 0)) = true := by decide +kernel
theorem witness_goodBlocks3 :
    (blockGood (inBlk true 2 0 0) && !blockGood (zeros 512)) = true := by decide +kernel

/-- A message of a type is at the front of the stream. -/
def visible0 (kind : BitVec 4) : State := rxS { rx0 with visible := [⟨kind, zeros 64, 1⟩] }
/-- A read whose answer was RETRY 1 µs ago, and its mover. -/
def run0 : MoverRun :=
  ⟨0, 1, 0, 0, true, [], [], [], 0, 0, 0, [], [⟨0, 0, 0, 0, 9, false, some 19000⟩], 0, none, [], none⟩
def retryS : State := { frontT (job 0x20 []) with gather := Vector.replicate 16 ⟨[], some run0, 1⟩ }
/-- An EPOCH_WAIT whose answer was RETRY 1 µs ago. -/
def waitS : State := held (job 0x51 []) (.epochOwner 0x8000 (some 19000))

theorem witness_MessagesServed :
    (([1, 2, 3, 4, 5, 6, 7] : List (BitVec 4)).all fun k => (takeMsg (visible0 k) 9 false k).isSome) = true
    ∧ (visible0 2).up = true
    ∧ (retryS.mover 0 = some run0 ∧ heldTensor (retryS.ctx run0.ctx) (mvSrc run0.raw) = some (tens 0x1000)
      ∧ run0.reqs.any (retryDue retryS) = true ∧ run0.failed = none)
    ∧ ((waitS.ctx 0).hold = some (.epochOwner 0x8000 (some 19000)) ∧ holder (waitS.ctx 0) 0x51 = some (job 0x51 [])
      ∧ 1000 ≤ waitS.since 19000) := by decide +kernel

/-- A frame from engine 0 of chip 9 of a kind, number and credits. -/
def frame0 (kind seq credits : Nat) : BitVec 128 :=
  let body := pack [(0, 0, 9), (0, 20, kind), (4, 0, seq), (8, 0, credits)]
  BitVec.ofNat 128 (body + crc32c (leBytes 12 body) <<< 96)

theorem witness_FramesServed :
    let t := { tx0 with unacked := [blk0 0], next := 1 }
    let f := fun k n => readFrame (frame0 k 0 n)
    ((txS t).up = true ∧ (f 1 0).chip = 9 ∧ (f 1 0).engine = false ∧ findTx (txS t) 9 false = some t ∧ t.ended = false
      ∧ t.gen = (f 1 0).gen)
    ∧ (([(1, 0), (2, 0), (3, 0), (3, 5), (4, 0)] : List (Nat × Nat)).all fun p =>
        frameGood (frame0 p.1 0 p.2) && (f p.1 p.2).kind == p.1 && (f p.1 p.2).credits == p.2
        && (f p.1 p.2).chip == 9 && !(f p.1 p.2).engine && (f p.1 p.2).gen == t.gen
        && (findTx (hearFrame (txS t) (f p.1 p.2)) 9 false).isSome) = true
    ∧ ((findTx (modTx (hearFrame (txS t) (f 2 0)) 9 false (ackTo ((f 2 0).seq - 1) 20000)) 9 false).any fun v =>
        v.unacked == [blk0 0]) = true
    ∧ frameGood 0 = false ∧ { t with gen := 7 }.gen ≠ (f 1 0).gen := by
  decide +kernel

/-- A waiting stream. -/
def waiter0 : RxWaiter := ⟨9, false, 1, 0, 0, 0⟩

theorem witness_StreamTimers :
    let t := { tx0 with unacked := [blk0 0] }
    (findTx (lateS (txS t)) 9 false = some t ∧ t.ended = false ∧ t.unacked = [blk0 0] ∧ t.stopped = false ∧ t.resend = []
      ∧ (lateS (txS t)).up = true ∧ ackTicks (lateS (txS t)) ≤ (lateS (txS t)).since (blk0 0).sentAt
      ∧ lostTicks (lateS (txS t)) ≤ (lateS (txS t)).since (blk0 0).born
      ∧ lostTicks (lateS (txS t)) ≤ (lateS (txS t)).since t.heardAt)
    ∧ (let s := lateS { txS tx0 with txWait := [(8, false, msg0)] }
      findTx s 9 false = some tx0 ∧ txIdle tx0 = true ∧ s.txWait ≠ [] ∧ lostTicks s ≤ s.since tx0.idleSince)
    ∧ (let s := lateS { rxS rx0 with rxWait := [waiter0] }
      findRx s 9 false = some rx0 ∧ lostTicks s ≤ s.since rx0.lastBlock ∧ rx0.known = true ∧ rx0.general ≠ 0 ∧ { rx0 with general := 0 }.general = 0
      ∧ s.rxWait ≠ [] ∧ holdsMsg s rx0 = false
      ∧ (s.rxWait.find? fun w => w.chip == 9 && w.engine == false) = some waiter0 ∧ ackTicks s ≤ s.since waiter0.lastFrame)
    ∧ up0.inReset = false := by decide +kernel

theorem witness_BlocksAndFramesReadBack :
    (zeros 496).length ≤ 496 ∧ (1 ≤ (7 : BitVec 4).toNat ∧ (7 : BitVec 4).toNat ≤ 7)
    ∧ blockGood (blockBytes512 (blockHead up0 tx0 7 true true 496) (zeros 496)) = true := by decide +kernel

/-! ## Responses -/

/-- A host access by nobody. -/
def host0 (w : Bool) : HostReq := ⟨5, .dead, w, 0x1000, 8, if w then leBytes 8 7 else []⟩
def respS (w : Bool) : State := { up0 with memOut := [req0 w], hostOut := [host0 w] }

theorem witness_ResponsesServed :
    ((respS false).live = true ∧ takeReq (respS false) 3 = some (req0 false, { respS false with memOut := [] })
      ∧ (req0 false).write = false ∧ (zeros 64).length = 64 * slotsOf 0x1000 64 ∧ 64 ≤ (zeros 64).length
      ∧ (zeros 64).length ≤ 2048)
    ∧ (takeReq (respS true) 3 = some (req0 true, { respS true with memOut := [] }) ∧ (req0 true).write = true)
    ∧ takeReq (respS true) 4 = none
    ∧ (((respS false).hostOut.find? fun h => h.id == 5) = some (host0 false)
      ∧ (zeros 8).length = (if (host0 false).write then 0 else (host0 false).len)
      ∧ ((respS true).hostOut.find? fun h => h.id == 5) = some (host0 true)
      ∧ ([] : List Byte).length = (if (host0 true).write then 0 else (host0 true).len)
      ∧ { host0 true with owner := .record 0 }.owner = .record 0 ∧ { host0 true with owner := .diag 1 }.owner = .diag 1)
    ∧ (st0.eng = .selftest ∧ st0.live = false ∧ (req0 false).owner ≠ .crit ∧ { req0 false with owner := .crit }.owner = .crit
      ∧ ({ up0 with eng := .locked } : State).eng = .locked)
    ∧ ((respS true).hostOut.find? fun h => h.id == 6) = none := by decide +kernel

/-- Each of the three ways in which a byte may change does change one. -/
theorem witness_MemoryChangesByRequestsAlone :
    ((after (.memReadResponse 3 (List.replicate 64 7)) (respS false)).any fun t => memByte t.chip 0x1000 != 0) = true
    ∧ ((after (.hostBridgeResponse 5 (.ok [])) (respS true)).any fun t => memByte t.host 0x1000 == 7) = true
    ∧ ((after .tileStageBegin (respS true)).isSome) = true := by decide +kernel

/-! ## Power, sensors, reset and self-test -/

theorem witness_PaceAndPower :
    up0.on = true ∧ up0.eng ≠ .locked ∧ 65536 ≤ ({ up0 with tick := 65536 } : State).since up0.beatFrom
    ∧ ({ up0 with tick := 65535 } : State).since up0.beatFrom < 65536
    ∧ 2000 ≤ up0.since up0.power.lastOperand[unitNo .frond 0] ∧ sliceOn up0 0 = true
    ∧ ((fins 24).all fun u => ({ up0 with tick := 1999 } : State).since up0.power.lastOperand[u] < 2000) = true
    ∧ (upCtx fun x => { runX x with pace := true }).up = true
    ∧ paced (upCtx fun x => { runX x with pace := true }) = true ∧ up0.power.ramp = none
    ∧ { up0 with power := { up0.power with ramp := some (50, 19000) } }.power.ramp = some (50, 19000)
    ∧ 1000 ≤ up0.since 19000
    ∧ ((after (.currentGrant 0 40) { up0 with sensor := { up0.sensor with latest := goodRec } }).any fun t => t.power.req != 0) = true
    ∧ ((after (.currentGrant 40 40) { up0 with sensor := { up0.sensor with latest := goodRec } }).any fun t =>
        t.power.throttledSince == none) = true := by decide +kernel

theorem witness_SensorsAndTimebase :
    (up0.eng = .up ∧ State.reset.eng = .off ∧ State.reset.inReset = false ∧ railsIn goodRec = true
      ∧ railsIn sensorRecReset = false)
    ∧ (up0.on = true ∧ up0.sensor.gap = false ∧ 10000 ≤ up0.since up0.sensor.lastTick ∧ up0.eng ≠ .selftest
      ∧ st0.eng = .selftest)
    ∧ (up0.eng ≠ .off ∧ jumped 20000 19999 = true ∧ jumped 20000 (20000 + 2 ^ 20 + 1) = true
      ∧ jumped 20000 20000 = false ∧ jumped 20000 (20000 + 2 ^ 20) = false) := by decide +kernel

theorem witness_ResetAndPower : (100 : Nat) ≤ 100 ∧ { State.reset with inReset := true }.inReset = true := by decide +kernel

theorem witness_SelfTest :
    (let s := { st0 with tick := 2157152, st := { st0.st with keyStepPending := true } }
     s.eng = .selftest ∧ s.st.keyStepPending = true ∧ 2157152 ≤ testTicks s ∧ s.provWait = [])
    ∧ 2657152 ≤ testTicks { st0 with tick := 2657152 }
    ∧ (st0.st.keyStepPending = false ∧ st0.fw.valid = false ∧ testPasses (logTest st0 goodResult) = true
      ∧ testPasses (logTest st0 badResult) = false)
    ∧ ({ up0 with quiesce := .map }.live = true ∧ { up0 with quiesce := .map }.quiesce = .map)
    ∧ (drained0.live = true ∧ quiesced drained0 = true) ∧ up0.eng ≠ .off ∧ up0.eng ≠ .locked := by decide +kernel

/-! ## The spec's worked examples -/

/-- 02, the MXFP4 block: 3.0, −0.7, 10.5, 0.1 and 28 zeros. -/
theorem test_mxfp4Block :
    ((encodeRow 9 rne ([0x40400000, 0xBF333333, 0x41280000, 0x3DCCCCCD] ++ List.replicate 28 zeroF)).1.take 17)
      = [0x80, 0x93, 0x07] ++ zeros 14 := by decide +kernel
/-- 02, the same block decoded: 3.0, −1.0, 12.0, 0. -/
theorem test_mxfp4Decode :
    ((decodeRow 32 9 ([0x80, 0x93, 0x07] ++ zeros 61)).1.take 4) = [0x40400000, 0xBF800000, 0x41400000, 0] := by
  decide +kernel
/-- 02, the MXFP6 group of codes 0x21, 0x05, 0x3F, 0x10 under scale 1: −0.125, 0.625, −7.5, 2.0 (R31). -/
theorem test_mxfp6Group :
    ((decodeRow 32 8 ([0x7F, 0x61, 0xF1, 0x43] ++ zeros 60)).1.take 4)
      = [0xBE000000, 0x3F200000, 0xC0F00000, 0x40000000] := by decide +kernel
/-- 11, the counter of one rounding draw: its counter words and key. -/
theorem test_roundingDraw :
    roundBits 0x123456789ABCDEF0 0x100000003 70000 0xA21 12 2 1000
      = some (philox 0x0C20007D0000000300000A2100011170 0x9ABCDEF0 0x12345679 % 65536) := by decide +kernel
/-- 19, the four words of a spilled choice. -/
theorem test_spilledChoice :
    rtDispatch (rtFill 1998 6 8 17 0x3E000000 false) 1 0 127 0 = 0x00003E76007F00003E000000841167CE#128 := by decide +kernel

/-- 06, deduplication in one bin: five rows of 24 flits for nine choices. -/
def dedupItems : List (Nat × List Choice) :=
  [(40, [⟨5, 0, 0, 0⟩, ⟨19, 0, 0, 0⟩, ⟨300, 0, 0, 0⟩]), (41, [⟨5, 0, 0, 0⟩, ⟨300, 0, 0, 0⟩, ⟨611, 0, 0, 0⟩]),
    (42, [⟨19, 0, 0, 0⟩, ⟨611, 0, 0, 0⟩, ⟨900, 0, 0, 0⟩])]
theorem test_dedup :
    let p := { pkt0 .committed [] with d := 3072, rowFmt := 2 }
    bufferRows 3072 2 = 341 ∧ ((feedProgram p 0 0 false dedupItems).filter FeedUnit.isFlit).length = 120
    ∧ (feedProgram p 0 0 false dedupItems).length = 134 := by decide +kernel

/-! ## One step of a few commands -/

/-- 15 R349: the request rises by at most 16 units. -/
theorem test_currentGrant :
    ((after (.currentGrant 0 40) { up0 with sensor := { up0.sensor with latest := goodRec } }).map fun t => t.power.req)
      = some 16 := by decide +kernel
/-- 13 R296: a doorbell with tail 3 is taken. -/
theorem test_doorbell :
    ((after (.doorbellReadDone 0 (some 3)) polling).map fun t => ((t.ctx 0).tail, (t.ctx 0).head)) = some (3, 0) := by
  decide +kernel
/-- 07 R161: the expected block draws an ACK for its number. -/
theorem test_blockAck :
    ((after (.basolBlockReceive 0 (inBlk true 2 1 0)) (rxS rx0)).map fun t => t.outbox.map fun o => match o with
      | .transfer port chip false true true bs =>
        (port, chip, (readFrame (BitVec.ofNat 128 (leNat bs))).kind, (readFrame (BitVec.ofNat 128 (leNat bs))).seq)
      | _ => (1, 0, 0, 0)) = some [(0, 9, 1, 0)] := by decide +kernel
/-- 08 R180, R181: a row of one flit is written to its slot, and zeros fill it up. -/
theorem test_drainRow :
    ((after (.drainFlit 0 (tag0 2) (List.replicate 256 7)) (drainS false)).map fun t =>
      (memByte t.chip 0, memByte t.chip 255, memByte t.chip 256, t.memOut.length)) = some (7, 7, 0, 1) := by decide +kernel
/-- 15 R340: the last word of a packet goes out, and it awaits its results. -/
theorem test_feedEnd :
    ((after (.feedFlitGrant 1) (queued0 (tiled tile0) [pkt0 .feeding [.item endWord]])).map fun t =>
      (t.outbox, t.queues[0].packets.map (·.state))) = some ([.item 0 4], [.awaiting]) := by decide +kernel
/-- 12 R277: of two QUEUED contexts the LC one is taken; with nothing to do it is IDLE again. -/
theorem test_schedPick :
    ((after .schedPick queued2).map fun t => ((t.ctx 0).state, (t.ctx 1).state, t.sched.lastLc))
      = some (.queued, .idle, some 1) := by decide +kernel
/-- 01 R26: a step back is taken, with an error. -/
theorem test_timebaseBack :
    ((after (.timebaseStep 19999) up0).map fun t => (t.tick, t.sensor.timebaseErr)) = some (19999, true) := by decide +kernel
/-- 16 R363: a tamper input locks the engine and raises the alarm. -/
theorem test_tamper :
    ((after (.tamperInput 4) up0).map fun t => (t.eng, t.sec.alarm, t.sec.source)) = some (.locked, true, 3) := by
  decide +kernel

end Sys2Proof.Tests
end

section
/-!
PROOFS. Fixed shares (03 R56): the tokens of a tile are dealt to the enabled slices in turn.
-/
namespace Sys2Proof.Proofs

open Sys2Proof Sys2Proof.Machine

/-! ## Lists -/

theorem updAt_eq_modify {α : Type} (i : Nat) (f : α → α) (xs : List α) : updAt i f xs = xs.modify i f := by
  induction xs generalizing i with
  | nil => simp [updAt]
  | cons x xs ih => cases i <;> simp [updAt, ih]

theorem length_tabulate {α : Type} (n : Nat) (f : Nat → α) : (tabulate n f).length = n := by
  simp [tabulate]

theorem getElem?_tabulate {α : Type} {n i : Nat} (f : Nat → α) (h : i < n) : (tabulate n f)[i]? = some (f i) := by
  simp [tabulate, h]

theorem tabulate_succ {α : Type} (n : Nat) (f : Nat → α) :
    tabulate (n + 1) f = f 0 :: tabulate n fun i => f (i + 1) := by
  simp [tabulate, List.range_succ_eq_map, Function.comp_def]

/-- The first element that meets `p` is still the first one after an update that keeps `p`. -/
theorem find?_updFirst {α : Type} {p : α → Bool} {f : α → α} (hf : ∀ x, p (f x) = p x) (xs : List α) :
    (updFirst p f xs).find? p = (xs.find? p).map f := by
  induction xs with
  | nil => rfl
  | cons x xs ih => by_cases h : p x = true <;> simp [updFirst, h, hf, ih]

/-! ## What the shared operations do to tiles and to the scheduler -/

/-- A tile after an update that keeps what it is found by. -/
theorem findTile_modTile {f : Tile → Tile} (hc : ∀ x, (f x).ctx = x.ctx) (he : ∀ x, (f x).epoch = x.epoch)
    (hd : ∀ x, (f x).dead = x.dead) (s : State) (c : CtxId) (e : BitVec 16) :
    findTile (modTile s c e f) c e = (findTile s c e).map f :=
  find?_updFirst (fun x => by simp only [hc, he, hd]) s.tiles

@[simp] theorem findTile_tdcEvent (s : State) (kind k : Nat) (d : Option CtxId) (c : CtxId) (e : BitVec 16) :
    findTile (tdcEvent s kind k d) c e = findTile s c e := by
  simp [findTile]

@[simp] theorem issueReq_sched (s : State) (r : MemReq) : (issueReq s r).sched = s.sched := by
  cases h : r.charge <;> simp [issueReq, h]

@[simp] theorem pumpMem_sched (n : Nat) (s : State) : (pumpMem n s).sched = s.sched := by
  induction n generalizing s with
  | zero => rfl
  | succ n ih =>
    unfold pumpMem
    split
    · rfl
    · simp [ih]

@[simp] theorem request_sched (s : State) (rs : List MemReq) : (request s rs).sched = s.sched := by
  simp [request]

@[simp] theorem loadMode_sched (s : State) (c : CtxId) : (loadMode s c).sched = s.sched := rfl

/-- A context that enters RUNNING finds `scored` clear. -/
theorem runCtx_scored (s : State) (c : CtxId) : (runCtx s c).sched.scored = false := by
  simp only [runCtx, request_sched, loadMode_sched, modCtx_frame]
  split <;> rfl

/-- A tile that begins scoring sets `scored`. -/
theorem dealShares_scored (s : State) (t : Tile) : (dealShares s t).sched.scored = true := by
  simp [dealShares]

/-! ## Dealing in turn -/

/-- How many of the `n` positions from `u` on fall to slice `i` of `m` in turn. -/
def turnShare (m u n i : Nat) : Nat := Nat.count (fun j => (u + j) % m = i) n

/-- The share of a slice is that of the later positions, and one more for the slice whose turn it is. -/
theorem turnShare_succ (m u n i : Nat) :
    turnShare m u (n + 1) i = turnShare m (u + 1) n i + if u % m = i then 1 else 0 := by
  simp only [turnShare, Nat.count_succ', Nat.add_zero, Nat.add_assoc, Nat.add_comm 1]

/-- Fixed shares are the counts of dealing every position in turn. -/
theorem fixedShares_eq_turnShare {m : Nat} (n : Nat) (hm : 0 < m) :
    fixedShares n m = tabulate m (turnShare m 0 n) := by
  refine List.map_congr_left fun i hi => ?_
  have hi : i % m = i := Nat.mod_eq_of_lt (List.mem_range.1 hi)
  have h := Nat.count_modEq_card n hm i
  simp only [Nat.ModEq, hi] at h
  simp [turnShare, h, b2n]

/-- A position taken leaves the shares of the later positions. -/
theorem updAt_turnShare (m u n : Nat) :
    updAt (u % m) (· - 1) (tabulate m (turnShare m u (n + 1))) = tabulate m (turnShare m (u + 1) n) := by
  refine List.ext_getElem? fun i => ?_
  rw [updAt_eq_modify, List.getElem?_modify]
  by_cases hi : i < m
  · simp only [getElem?_tabulate _ hi, turnShare_succ]
    by_cases h : u % m = i <;> simp [h]
  · simp [tabulate, hi]

/-- While the slice whose turn it is has a share left, the search for the next slice stops at once. -/
theorem find?_turn {m cur u : Nat} (n : Nat) (hm : 0 < m) (hcur : cur % m = u % m) :
    ((tabulate m fun j => (cur + j) % m).find? fun i => (tabulate m (turnShare m u (n + 1))).getD i 0 != 0)
      = some (u % m) := by
  obtain ⟨m, rfl⟩ := Nat.exists_eq_succ_of_ne_zero hm.ne'
  rw [tabulate_succ m fun j => (cur + j) % (m + 1)]
  refine List.find?_cons_of_pos ?_ |>.trans ?_
  · simp [List.getD, hcur, getElem?_tabulate _ (Nat.mod_lt u hm), turnShare_succ]
  · simp [hcur]

/-- With the shares of the positions from `u` on, position `u + j` goes to slice `(u + j) % m`. -/
theorem dealPositions_turnShare {m cur u : Nat} (n : Nat) (hm : 0 < m) (hcur : cur % m = u % m) :
    dealPositions n cur (tabulate m (turnShare m u n)) = tabulate n fun j => (u + j) % m := by
  induction n generalizing cur u with
  | zero => rfl
  | succ n ih =>
    have hnext : (u % m + 1) % m = (u + 1) % m := Nat.mod_add_mod u m 1
    simp only [dealPositions, length_tabulate, find?_turn n hm hcur, updAt_turnShare, ih hnext, tabulate_succ,
      Nat.add_zero, Nat.add_assoc, Nat.add_comm 1]

theorem dealPositions_fixedShares {m : Nat} (n : Nat) (hm : 0 < m) :
    dealPositions n 0 (fixedShares n m) = tabulate n (· % m) := by
  simpa [fixedShares_eq_turnShare n hm] using dealPositions_turnShare (u := 0) n hm rfl

/-! ## The slice that a token gets -/

theorem unmasked_nodup (t : Tile) : (unmasked t).Nodup := by
  have h : ((indexed t.toks).map Prod.fst).Nodup := by
    simp [indexed, List.map_fst_zip, List.nodup_range]
  exact h.sublist (List.filter_sublist.map _)

theorem assignSlices_cons (toks : List Tok) (w : Nat × SliceId) (who : List (Nat × SliceId)) :
    assignSlices toks (w :: who) = assignSlices (toks.modify w.1 fun k => { k with slice := some w.2 }) who := by
  simp [assignSlices, updAt_eq_modify]

theorem assignSlices_getElem?_of_notMem {who : List (Nat × SliceId)} {i : Nat} (h : i ∉ who.map Prod.fst)
    (toks : List Tok) : (assignSlices toks who)[i]? = toks[i]? := by
  induction who generalizing toks with
  | nil => rfl
  | cons w who ih =>
    obtain ⟨hw, hwho⟩ := not_or.1 (mt List.mem_cons.2 h)
    simp [assignSlices_cons, ih hwho, Ne.symm hw]

/-- A listed token has the slice listed with it. -/
theorem assignSlices_slice {who : List (Nat × SliceId)} (hnd : (who.map Prod.fst).Nodup) {i : Nat} {l : SliceId}
    (hmem : (i, l) ∈ who) {toks : List Tok} {k : Tok} (hk : (assignSlices toks who)[i]? = some k) :
    k.slice = some l := by
  induction who generalizing toks with
  | nil => cases hmem
  | cons w who ih =>
    obtain ⟨hw, hwho⟩ := List.nodup_cons.1 hnd
    rw [assignSlices_cons] at hk
    rcases List.mem_cons.1 hmem with rfl | hmem
    · rw [assignSlices_getElem?_of_notMem hw, List.getElem?_modify_eq] at hk
      obtain ⟨k', -, rfl⟩ := Option.map_eq_some_iff.1 hk
      rfl
    · exact ih hwho hmem hk

/-- The unmasked tokens of a tile, each with its slice under fixed shares. -/
def dealtInTurn (s : State) (t : Tile) : List (Nat × SliceId) :=
  List.zip (unmasked t)
    ((tabulate (unmasked t).length (· % (enabledSlices s).length)).map fun i => (enabledSlices s).getD i 0)

theorem dealtInTurn_fst_nodup (s : State) (t : Tile) : ((dealtInTurn s t).map Prod.fst).Nodup := by
  rw [dealtInTurn, List.map_fst_zip (by simp [length_tabulate])]
  exact unmasked_nodup t

theorem mem_dealtInTurn {s : State} {t : Tile} {u i : Nat} {l : SliceId} (hi : (unmasked t)[u]? = some i)
    (hl : (enabledSlices s)[u % (enabledSlices s).length]? = some l) : (i, l) ∈ dealtInTurn s t := by
  have hu : u < (unmasked t).length := (List.getElem?_eq_some_iff.1 hi).1
  refine List.mem_of_getElem? (i := u) ?_
  simp [dealtInTurn, List.getElem?_zip_eq_some, hi, getElem?_tabulate _ hu, hl]

/-- The tile after the deal under fixed shares (R56: DET, the first tile since RUNNING, or the controller disabled). -/
theorem findTile_dealShares_fixed {s : State} {t : Tile} (ht : findTile s t.ctx t.epoch = some t)
    (hen : enabledSlices s ≠ [])
    (hfix : (s.ctx t.ctx).det = true ∨ s.sched.scored = false ∨ s.sched.shareAdapt = false) :
    findTile (dealShares s t) t.ctx t.epoch
      = some { t with adaptive := false, sharesDealt := true, toks := assignSlices t.toks (dealtInTurn s t) } := by
  have hadapt (b : Bool) : (!(s.ctx t.ctx).det && s.sched.shareAdapt && s.sched.scored && b) = false := by
    rcases hfix with h | h | h <;> simp [h]
  have hdeal := dealPositions_fixedShares (unmasked t).length (List.length_pos_iff.2 hen)
  simp only [dealShares, hadapt, findTile_tdcEvent, Bool.false_eq_true, if_false, hdeal]
  refine (findTile_modTile ?_ ?_ ?_ _ t.ctx t.epoch).trans (congrArg (Option.map _) ht) <;> exact fun _ => rfl

/-- Settles O42: fixed shares leave each slice the count of its turns, so dealing never skips one. -/
theorem fixedShares : Obligations.FixedShares := by
  intro s t ht hen hfix
  refine ⟨_, findTile_dealShares_fixed ht hen hfix, fun u i k hi hk =>
    ⟨?_, runCtx_scored s, dealShares_scored s t⟩⟩
  have hlt : u % (enabledSlices s).length < (enabledSlices s).length := Nat.mod_lt u (List.length_pos_iff.2 hen)
  have hl := List.getElem?_eq_getElem hlt
  rw [hl]
  exact assignSlices_slice (dealtInTurn_fst_nodup s t) (mem_dealtInTurn hi hl) hk

end Sys2Proof.Proofs
end

section
/-!
PROOFS. The windows of a bandwidth regulator (12 R287).
-/
namespace Sys2Proof.Proofs

open Sys2Proof Sys2Proof.Machine

theorem regDue_of_next_nil {r : Regul} (h : r.next = []) (t : Nat) : regDue r t = none := by
  simp [regDue, h]

/-- Either the regulator stands as it was, in the window that holds `t`, or it has begun that window at zero; the window's
length changes only with settings that waited. -/
theorem regNow_cases (r : Regul) (t : Nat) :
    (regNow r t = r ∧ t / (1000 * r.window) = r.winNo)
    ∨ ((regNow r t).used = 0 ∧ (regNow r t).winNo = t / (1000 * (regNow r t).window)
      ∧ (r.next = [] → (regNow r t).window = r.window)) := by
  cases hd : regDue r t with
  | none =>
    by_cases hw : t / (1000 * r.window) = r.winNo
    · exact .inl ⟨by simp [regNow, hd, hw], hw⟩
    · exact .inr (by simp [regNow, hd, hw])
  | some d =>
    refine .inr ⟨by simp [regNow, hd], by simp [regNow, hd], fun h => ?_⟩
    rw [regDue_of_next_nil h] at hd
    cases hd

/-- The number of a window is the tick divided by the window's length, whatever settings waited. -/
theorem regNow_winNo (r : Regul) (t : Nat) : (regNow r t).winNo = t / (1000 * (regNow r t).window) := by
  obtain ⟨hsame, hno⟩ | ⟨-, hno, -⟩ := regNow_cases r t
  · rw [hsame, hno]
  · exact hno

theorem regNow_window_of_next_nil {r : Regul} (h : r.next = []) (t : Nat) : (regNow r t).window = r.window := by
  obtain ⟨hsame, -⟩ | ⟨-, -, hwin⟩ := regNow_cases r t
  · rw [hsame]
  · exact hwin h

theorem regNow_used_of_winNo_ne {r : Regul} {t : Nat} (h : (regNow r t).winNo ≠ r.winNo) : (regNow r t).used = 0 := by
  obtain ⟨hsame, -⟩ | ⟨hused, -⟩ := regNow_cases r t
  · exact absurd (congrArg Regul.winNo hsame) h
  · exact hused

theorem regOpen_of_budget_zero {r : Regul} (h : r.budget = 0) : regOpen r = true := by
  simp [regOpen, h]

/-- REGULATOR_WINDOW has its effect when the tick lies outside the window that the regulator stands in. -/
theorem exec_regulatorWindow {s : State} {c : CtxId} {k : RegKind} (hl : s.live = true)
    (h : regNow (regOf (s.ctx c) k) s.now ≠ regOf (s.ctx c) k) :
    exec (.regulatorWindow c k) s = becomes s (modCtx s c fun x => setReg x k (regNow (regOf (s.ctx c) k) s.now)) := by
  change execRegulatorWindow c k s = _
  rw [execRegulatorWindow, working_true hl (bne_iff_ne.2 h)]

/-- Settles O39: a window's number is the tick divided by the window's length, so the tick lies in that window. -/
theorem regulatorWindows : Obligations.RegulatorWindows := by
  refine ⟨fun s c k => exec_regulatorWindow, fun r t hnext hwin => ?_, fun r => regOpen_of_budget_zero⟩
  have hno : (regNow r t).winNo = t / (1000 * r.window) := by
    rw [regNow_winNo, regNow_window_of_next_nil hnext]
  have hpos : 0 < 1000 * r.window := by omega
  refine ⟨?_, ?_, regNow_used_of_winNo_ne⟩
  · rw [hno]
    exact Nat.div_mul_le_self t _
  · rw [hno, Nat.mul_comm]
    exact Nat.lt_mul_div_succ t hpos

end Sys2Proof.Proofs
end

section
/-!
PROOFS. A doorbell value that is rejected (13 R295).
-/
namespace Sys2Proof.Proofs

open Sys2Proof Sys2Proof.Machine

/-- A record write that is made again is a host request alone: no context changes. -/
@[simp] theorem retryRecord_ctx (s : State) (c d : CtxId) : (retryRecord s c).ctx d = s.ctx d := by
  unfold retryRecord
  dsimp only
  split
  · split <;> simp [State.ctx]
  · rfl

/-- Only the value at the context that is updated matters. -/
theorem modCtx_congr {s : State} {c : CtxId} {f g : Ctx → Ctx} (h : f (s.ctx c) = g (s.ctx c)) :
    modCtx s c f = modCtx s c g := by
  simp only [State.ctx, Fin.getElem_fin] at h
  simp only [modCtx, vmod, Fin.getElem_fin, h]

/-- The tail count is more than a ring ahead, or the head count more than a queue behind. -/
theorem doorbellOk_eq_false_iff {x : Ctx} {tail head : BitVec 32} :
    doorbellOk x tail head = false ↔
      2 ^ x.sqLog2.toNat < (tail - x.fetched).toNat ∨ 2 ^ x.cqLog2.toNat < (x.written - head).toNat := by
  simp only [doorbellOk, Bool.and_eq_false_iff, decide_eq_false_iff_not, Nat.not_le]

/-- The context after a rejected doorbell: the read has ended, without a change of tail or head. -/
def rejectDoorbell (x : Ctx) : Ctx :=
  { x with dbReading := false, fetchFailed := false, badDoorbell := true, pollNow := nextPoll x false }

/-- A word that is not valid only rejects; a record write that failed is made again. -/
theorem exec_doorbellReadDone_rejected {s : State} {c : CtxId} {tail head : BitVec 32} (hl : s.live = true)
    (hr : (s.ctx c).dbReading = true) (hp : polled (s.ctx c) = true) (hbad : doorbellOk (s.ctx c) tail head = false) :
    exec (.doorbellReadDone c (some (head ++ tail))) s = becomes s (retryRecord (modCtx s c rejectDoorbell) c) := by
  have htail : (head ++ tail).extractLsb' 0 32 = tail := BitVec.extractLsb'_append_eq_right
  have hhead : (head ++ tail).extractLsb' 32 32 = head := BitVec.extractLsb'_append_eq_left
  change execDoorbellReadDone c (some (head ++ tail)) s = _
  rw [execDoorbellReadDone, working_true hl hr, hp]
  refine congrArg (fun t => becomes s (retryRecord t c)) (modCtx_congr ?_)
  simp only [htail, hhead, hbad]
  rfl

/-- Settles O34: a word whose tail or head is out of range rejects, which touches neither. -/
theorem doorbellRejected : Obligations.DoorbellRejected := by
  intro s c tail head hl hr hp hbad
  refine ⟨_, exec_doorbellReadDone_rejected hl hr hp (doorbellOk_eq_false_iff.2 hbad), ?_⟩
  simp [rejectDoorbell]

end Sys2Proof.Proofs
end

section
/-!
PROOFS. A DMA channel that is OFF, and the writes of its enable (14 R332, R333).
-/
namespace Sys2Proof.Proofs

open Sys2Proof Sys2Proof.Machine

/-! ## Bits of a word -/

theorem bitAt_eq_testBit (n i : Nat) : bitAt n i = n.testBit i := by
  simp [bitAt, Nat.testBit_eq_decide_div_mod_eq, Nat.shiftRight_eq_div_pow, beq_eq_decide]

theorem fld_lt (n hi lo : Nat) : fld n hi lo < 2 ^ (hi - lo + 1) := Nat.mod_lt _ (Nat.two_pow_pos _)

theorem testBit_withBit_of_ne {w : Reg} {i k : Nat} (b : Bool) (h : k ≠ i) :
    (withBit w i b).testBit k = w.toNat.testBit k := by
  have hk (n : Nat) : (BitVec.ofNat n (2 ^ i)).getLsbD k = false := by
    simp only [BitVec.getLsbD_ofNat, Nat.testBit_two_pow_of_ne h.symm, Bool.and_false]
  simp only [withBit, bvSetBit, BitVec.testBit_toNat]
  split
  · rw [BitVec.getLsbD_or, hk, Bool.or_false]
  · rw [BitVec.getLsbD_and, BitVec.getLsbD_not, hk, Bool.not_false, Bool.and_true, Bool.and_comm]
    exact Bool.and_eq_right_iff_imp.2 fun hw => decide_eq_true (BitVec.lt_of_getLsbD hw)

@[simp] theorem bitAt_withBit_zero (w : Reg) (b : Bool) : bitAt (withBit w 0 b) 0 = b := by
  cases b <;> simp [bitAt_eq_testBit, withBit, bvSetBit]

theorem bitAt_withBit_of_ne {w : Reg} {i k : Nat} (b : Bool) (h : k ≠ i) : bitAt (withBit w i b) k = bitAt w.toNat k := by
  rw [bitAt_eq_testBit, bitAt_eq_testBit, testBit_withBit_of_ne b h]

/-- A bit below a field is not one of the field's. -/
theorem fld_withBit_of_lt {w : Reg} {i lo : Nat} (b : Bool) (hi : Nat) (h : i < lo) :
    fld (withBit w i b) hi lo = fld w.toNat hi lo := by
  refine Nat.eq_of_testBit_eq fun k => ?_
  have hk : lo + k ≠ i := by omega
  simp only [fld, Nat.testBit_mod_two_pow, Nat.testBit_shiftRight, testBit_withBit_of_ne b hk]

/-! ## One channel -/

@[simp] theorem chan_modDma_self (s : State) (ch : ChanId) (f : DmaChan → DmaChan) :
    (modDma s ch f).chan ch = f (s.chan ch) := by
  simp [State.chan, modDma, vmod]

@[simp] theorem modDma_modDma (s : State) (ch : ChanId) (f g : DmaChan → DmaChan) :
    modDma (modDma s ch f) ch g = modDma s ch fun k => g (f k) := by
  simp [modDma, vmod]

/-- Only the value at the channel that is updated matters. -/
theorem modDma_congr {s : State} {ch : ChanId} {f g : DmaChan → DmaChan} (h : f (s.chan ch) = g (s.chan ch)) :
    modDma s ch f = modDma s ch g := by
  simp only [State.chan, Fin.getElem_fin] at h
  simp only [modDma, vmod, Fin.getElem_fin, h]

/-- Dealing a descriptor is no change of a channel. -/
@[simp] theorem dealTo_chan (s : State) (c : CtxId) (u : UnitId) (j : Job) (ch : ChanId) :
    (dealTo s c u j).chan ch = s.chan ch := rfl

theorem endChanDrain_chan {s : State} {ch : ChanId} (h : drainOver s ch = true) :
    (endChanDrain s ch).chan ch
      = { s.chan ch with state := if (s.chan ch).enablePending then .idle else .off, enablePending := false } := by
  simp [endChanDrain, h]

/-! ## Descriptors -/

/-- DMA_COPY, DMA_FILL and DMA_COMPARE each take the descriptors of their own op. -/
theorem exec_dmaDescriptor {i : Instr} {c : CtxId} {op : Nat}
    (h : (i, op) ∈ [(Instr.dmaCopy c, 0), (.dmaFill c, 1), (.dmaCompare c, 2)]) (s : State) :
    ∃ p : Nat → Bool, p op = true ∧ exec i s = dmaDescriptor p c s := by
  simp only [List.mem_cons, Prod.mk.injEq, List.not_mem_nil, or_false] at h
  obtain ⟨rfl, rfl⟩ | ⟨rfl, rfl⟩ | ⟨rfl, rfl⟩ := h
  · exact ⟨fun op => op == 0 || op == 3, rfl, rfl⟩
  · exact ⟨(· == 1), rfl, rfl⟩
  · exact ⟨(· == 2), rfl, rfl⟩

theorem op_of_atFront {s : State} {c : CtxId} {op : Nat} {j : Job} (h : AtFront s c op j) : j.op = op := by
  obtain ⟨⟨-, -, hop, -⟩, -⟩ := h
  exact hop

theorem unitOf_dma {j : Job} (h : j.op = 0x20) : unitOf j = .dma (dmCh j) := by
  simp [unitOf, h, dmCh]

/-- A good DMA descriptor at the front is dealt to its channel. -/
theorem exec_dma_dealt {s : State} {c : CtxId} {j : Job} {i : Instr} {op : Nat}
    (hi : (i, op) ∈ [(Instr.dmaCopy c, 0), (.dmaFill c, 1), (.dmaCompare c, 2)]) (hop : dmOp j = op)
    (hf : AtFront s c 0x20 j) (hck : dmaCheck (s.ctx c) (dmaSetOf c j) = none) :
    exec i s = becomes s (dealDma c (dealTo s c (.dma (dmCh j)) j) j) := by
  obtain ⟨p, hp, hexec⟩ := exec_dmaDescriptor hi s
  subst hop
  rw [hexec, dmaDescriptor, dealChecked_none hf hp hck, unitOf_dma (op_of_atFront hf)]

/-- The length of 48 bits is held whole. -/
theorem dmaSetOf_len (c : CtxId) (j : Job) : (dmaSetOf c j).len.toNat = rf j.n 0x20 47 0 :=
  Nat.mod_eq_of_lt (fld_lt j.n (8 * 0x20 + 47) (8 * 0x20))

theorem dealDma_of_off {s : State} {c : CtxId} {j : Job} (h : (s.chan (dmCh j)).state = .off) :
    dealDma c s j = complete s c (.dma (dmCh j)) j stAborted (rf j.n 0x20 47 0) 0 0 := by
  simp [dealDma, h, dmaSetOf_len]

/-- Settles O13: the descriptor is dealt, and an OFF channel completes what is dealt to it. -/
theorem dmaOffChannelAborts : Obligations.DmaOffChannelAborts := by
  intro s c j i op hi hop hf hck hoff
  rw [exec_dma_dealt hi hop hf hck, dealDma_of_off (by simpa using hoff)]
  rfl

/-! ## Writes of enable -/

/-- A write of share_m1 alone. -/
def setShare (w : Reg) : DmaChan → DmaChan := fun k => { k with shareM1 := BitVec.ofNat 8 (fld w.toNat 15 8) }

theorem regAt_dmaCtl (ch : ChanId) : regAt (dmaOff ch 0) = some (.dmaCtl ch) := by
  revert ch; decide

/-- A whole write of NDE_DMA_CTL while the engine works has its effect. -/
theorem wholeWrite_dmaCtl {s : State} (hl : s.live = true) (ch : ChanId) (w : Nat) :
    wholeWrite s (dmaOff ch 0) w = writes s (writeDmaCtl s ch w) := by
  simp [wholeWrite, writeReg, regAt_dmaCtl, hl, writeEffect, writes]

/-- A word without an abort writes share_m1, then enables or disables by its bit 0. -/
theorem writeDmaCtl_withBit_zero (s : State) (ch : ChanId) {w : Reg} (b : Bool) (ha : bitAt w.toNat 1 = false) :
    writeDmaCtl s ch (withBit w 0 b)
      = if b then modDma (modDma s ch (setShare w)) ch chanEnable else chanDisable (modDma s ch (setShare w)) ch := by
  have hshare : (fun k : DmaChan => { k with shareM1 := BitVec.ofNat 8 (fld (withBit w 0 b) 15 8) }) = setShare w := by
    rw [fld_withBit_of_lt b 15 (by decide)]
    rfl
  have habort : bitAt (withBit w 0 b) 1 = false := (bitAt_withBit_of_ne b one_ne_zero).trans ha
  simp [writeDmaCtl, hshare, habort]

/-- Enable 1 without an abort is a change of the channel alone (R333). -/
theorem exec_dmaChannelEnable {s : State} {ch : ChanId} {w : Reg} (hl : s.live = true) (ha : bitAt w.toNat 1 = false) :
    exec (.dmaChannelEnable ch w) s = writes s (modDma s ch fun k => chanEnable (setShare w k)) := by
  change execDmaChannelEnable ch w s = _
  rw [execDmaChannelEnable, wholeWrite_dmaCtl hl, writeDmaCtl_withBit_zero s ch true ha, if_pos rfl, modDma_modDma]

/-- Enable 0 without an abort writes share_m1 and disables (R331, R333). -/
theorem exec_dmaChannelDisable {s : State} {ch : ChanId} {w : Reg} (hl : s.live = true) (ha : bitAt w.toNat 1 = false) :
    exec (.dmaChannelDisable ch w) s = writes s (chanDisable (modDma s ch (setShare w)) ch) := by
  change execDmaChannelDisable ch w s = _
  rw [execDmaChannelDisable, wholeWrite_dmaCtl hl, writeDmaCtl_withBit_zero s ch false ha]
  rfl

/-- Settles O31: each write is `chanEnable` or `chanDisable` at the state that the channel is in. -/
theorem dmaEnableWhileDraining : Obligations.DmaEnableWhileDraining := by
  intro s ch w hl ha
  rw [exec_dmaChannelEnable hl ha, exec_dmaChannelDisable hl ha]
  refine ⟨fun hdrain => ?_, fun hdrain => ?_, fun hoff => ?_, fun hidle => ?_, fun hon => ?_, fun hoff => ?_,
    fun hover => ?_⟩
  · exact congrArg (writes s) (modDma_congr (by simp [chanEnable, setShare, hdrain]))
  · simp [chanDisable, setShare, hdrain]
  · exact congrArg (writes s) (modDma_congr (by simp [chanEnable, setShare, hoff]))
  · simp [chanDisable, setShare, hidle]
  · refine congrArg (writes s) (modDma_congr ?_)
    obtain hidle | hbusy := hon
    · simp [chanEnable, setShare, hidle]
    · simp [chanEnable, setShare, hbusy]
  · simp [chanDisable, setShare, hoff]
  · simp [endChanDrain_chan hover]

end Sys2Proof.Proofs
end

section
/-!
PROOFS. The critical commands (16 R352, R356), and those that no firmware refuses (17 R375).
-/
namespace Sys2Proof.Proofs

open Sys2Proof Sys2Proof.Machine

/-- The row of a critical command is `crit` at its own code and path. -/
theorem exec_eq_crit {i : Instr} {code : Nat} {p : CritPath} (h : envelopeRow i = some (code, p)) (s : State) :
    exec i s = crit code p s := by
  unfold envelopeRow at h
  split at h <;> cases h <;> rfl

/-- A row with the code of the envelope that is handled answers with the envelope's outcome. -/
theorem exec_envelope {s : State} {i : Instr} {code e : Nat} {p : CritPath} (hi : envelopeRow i = some (code, p))
    (h : Handles s p code e) : exec i s = answers s (runEnvelope s p e) := by
  obtain ⟨hhandled, hcmd⟩ := h
  have htakes : rowTakes code e = true := by simp [rowTakes, hcmd]
  simp only [exec_eq_crit hi, crit, hhandled, htakes, if_true, answers]

/-- Past checks 1 to 7, a refusal of the permission or of the engine's state is the outcome. -/
theorem judge_of_grantCheck {s : State} {p : CritPath} {e n st : Nat} (hearly : earlyCheck s p e = none)
    (htag : tagOk s e (bodyGot s e) = true) (hctr : s.slots[envSlot e].counter.toNat < envCounter e)
    (hgrant : grantCheck s e = some (n, st)) : judge s p e = .late n st := by
  simp only [judge, hearly, lateCheck, htag, Nat.not_le.2 hctr, hgrant, Bool.not_true, Bool.false_eq_true, if_false]

/-- A refusal after check 7 of a command other than FW_LOAD is its record alone, with the counter advanced. -/
theorem runEnvelope_late {s : State} {p : CritPath} {e n st : Nat} (h : judge s p e = .late n st)
    (hcmd : envCmd e ≠ 0x12) : runEnvelope s p e = endCrit (admitted s e) p st 0 0 0 := by
  simp only [runEnvelope, h, refuseLate, beq_iff_eq, hcmd, if_false, admitted]

/-- A context command, 0x01 to 0x06, needs firmware (17 R375). -/
theorem critAllowed_context_false {s : State} {cmd : Nat} (hle : cmd ≤ 6) (hfw : s.fw.valid = false) :
    critAllowed s cmd = false := by
  simp only [critAllowed, hle, if_true, hfw, Bool.and_false]

/-- No other command asks for firmware (17 R375). -/
theorem critAllowed_fw (s : State) (f : Firmware) {cmd : Nat} (hlt : 6 < cmd) :
    critAllowed { s with fw := f } cmd = critAllowed s cmd := by
  simp only [critAllowed, Nat.not_le.2 hlt, if_false]
  rfl

/-- Without firmware check 9 refuses a context command that the slot permits, with RANGE. -/
theorem grantCheck_context_noFirmware {s : State} {e : Nat} (hle : envCmd e ≤ 6) (hfw : s.fw.valid = false)
    (hperm : bvBit s.slots[envSlot e].perm 0 = true) : grantCheck s e = some (9, stRange) := by
  have hbit : critPerm (envCmd e) = 0 := if_pos hle
  simp only [grantCheck, hbit, hperm, critAllowed_context_false hle hfw, Bool.not_true, Bool.not_false,
    Bool.false_eq_true, if_false, if_true]

/-- Settles O22: check 9 is where firmware enters, for the context commands alone. -/
theorem noFirmwareRefusesContexts : Obligations.NoFirmwareRefusesContexts := by
  refine ⟨fun s p e i code hi hh _ hle hfw hearly htag hctr hperm => ?_, fun s f _ => critAllowed_fw s f⟩
  obtain ⟨hhandled, rfl⟩ := hh
  have hlate : judge s p e = .late 9 stRange :=
    judge_of_grantCheck hearly htag hctr (grantCheck_context_noFirmware hle hfw hperm)
  rw [exec_envelope hi ⟨hhandled, rfl⟩, runEnvelope_late hlate (by omega)]
  rfl

end Sys2Proof.Proofs
end

section
/-!
PROOFS. What every command answers: the rows whose meaning is the units' work alone, and the others one by one.
-/
namespace Sys2Proof.Proofs

open Sys2Proof Sys2Proof.Machine

/-! ## The rows that only work -/

/-- The row's meaning is the units' work alone: it leaves the engine's state, host memory and the chip's inputs. -/
def onlyWorks : Instr → Bool
  | .ctxCreate _ | .ctxDestroy _ | .ctxClass _ | .ctxMode _ | .ctxWindows _ | .ctxRegulate _ | .disabledMap _
  | .selftestReq _ | .fwLoad _ | .keyLoad _ | .keyErase _ | .alarmPolicy _ | .keyStoreEraseDone | .packetWrite _
  | .packetSelect _ | .memReadResponse _ _ | .memWriteResponse _ | .memErrorResponse _ | .sensorRecord _ | .timebaseStep _
  | .tamperInput _ | .handshakeFault | .resetAssert _ | .resetRelease _ | .powerOff | .provisionSlotWrite _ _ _ _
  | .provisionSlotZero _ | .dmAck | .quiesceDone | .selftestComplete _ | .instructionStoreError _
  | .hostBridgeResponse _ _ | .selftestKeyStoreStepEnd => false
  | _ => true

/-- Such a row answers a next state that the units' work reaches. -/
theorem exec_answers {i : Instr} (hi : onlyWorks i = true) (hw : i.wf = true) (s : State) : Answers s (exec i s) := by
  cases i with
  | tileRoute ctx => exact execTileRoute_answers ctx s
  | tileCombine ctx => exact execTileCombine_answers ctx s
  | tileReverse ctx => exact execTileReverse_answers ctx s
  | xformCopy ctx => exact execXformCopy_answers ctx s
  | gather ctx => exact execGather_answers ctx s
  | scatterAcc ctx => exact execScatterAcc_answers ctx s
  | transpose ctx => exact execTranspose_answers ctx s
  | expand ctx => exact execExpand_answers ctx s
  | dmaCopy ctx => exact execDmaCopy_answers ctx s
  | dmaFill ctx => exact execDmaFill_answers ctx s
  | dmaCompare ctx => exact execDmaCompare_answers ctx s
  | seqJoin ctx => exact execSeqJoin_answers ctx s
  | seqLeave ctx => exact execSeqLeave_answers ctx s
  | stepBuild ctx => exact execStepBuild_answers ctx s
  | modelLoad ctx => exact execModelLoad_answers ctx s
  | modelUnpin ctx => exact execModelUnpin_answers ctx s
  | modelPin ctx => exact execModelPin_answers ctx s
  | modelForget ctx => exact execModelForget_answers ctx s
  | fence ctx => exact execFence_answers ctx s
  | fenceRelease ctx => exact execFenceRelease_answers ctx s
  | epochWaitOwner ctx => exact execEpochWaitOwner_answers ctx s
  | epochWaitWord ctx => exact execEpochWaitWord_answers ctx s
  | epochWaitPoll ctx => exact execEpochWaitPoll_answers ctx s
  | tdescCreate ctx => exact execTdescCreate_answers ctx s
  | tdescDestroy ctx => exact execTdescDestroy_answers ctx s
  | tdescFree ctx => exact execTdescFree_answers ctx s
  | ctxCreate path => cases hi
  | ctxDestroy path => cases hi
  | ctxClass path => cases hi
  | ctxMode path => cases hi
  | ctxWindows path => cases hi
  | ctxRegulate path => cases hi
  | disabledMap path => cases hi
  | selftestReq path => cases hi
  | fwLoad path => cases hi
  | keyLoad path => cases hi
  | keyErase path => cases hi
  | alarmPolicy path => cases hi
  | keyStoreEraseDone => cases hi
  | ctxEnable ctx word => exact execCtxEnable_answers ctx word s
  | ctxDisable ctx word => exact execCtxDisable_answers ctx word s
  | ctxReset ctx word => exact execCtxReset_answers ctx word s
  | clearAcct ctx word => exact execClearAcct_answers ctx word s
  | drainEnd ctx => exact execDrainEnd_answers ctx s
  | ringConfigWrite ctx reg word => exact execRingConfigWrite_answers ctx reg word s
  | ctxGroupWrite ctx reg word => exact execCtxGroupWrite_answers ctx reg word s
  | schedQuantumWrite word => exact execSchedQuantumWrite_answers word s
  | tdcClear => exact execTdcClear_answers s
  | clearEng => exact execClearEng_answers s
  | clearCtx ctx => exact execClearCtx_answers ctx s
  | tableSnapshot word => exact execTableSnapshot_answers word s
  | spillPeerCfgWrite n word => exact execSpillPeerCfgWrite_answers n word s
  | corePortRestore m word => exact execCorePortRestore_answers m word s
  | dmaChannelEnable ch word => exact execDmaChannelEnable_answers ch word s
  | dmaChannelDisable ch word => exact execDmaChannelDisable_answers ch word s
  | dmaAbort ch word => exact execDmaAbort_answers ch word s
  | dmaBurstIssue ch => exact execDmaBurstIssue_answers ch s
  | latchedPairRead offset => exact execLatchedPairRead_answers offset s
  | registerWrite offset word enables => exact execRegisterWrite_answers offset word enables s
  | doorbellPoll ctx => exact execDoorbellPoll_answers ctx s
  | doorbellReadDone ctx word => exact execDoorbellReadDone_answers ctx word s
  | descriptorFetch ctx => exact execDescriptorFetch_answers ctx s
  | descriptorArrival ctx descs => exact execDescriptorArrival_answers ctx descs s hw
  | schedPick => exact execSchedPick_answers s
  | schedQuantumExpire => exact execSchedQuantumExpire_answers s
  | preemptLimitExpire => exact execPreemptLimitExpire_answers s
  | modeChangeApply ctx => exact execModeChangeApply_answers ctx s
  | regulatorWindow ctx which => exact execRegulatorWindow_answers ctx which s
  | tileStageBegin => exact execTileStageBegin_answers s
  | tokenPrenorm tile token => exact execTokenPrenorm_answers tile token s
  | tokenScore tile token waits => exact execTokenScore_answers tile token waits s
  | weightSetLoad => exact execWeightSetLoad_answers s
  | tokenSelect tile token => exact execTokenSelect_answers tile token s
  | hotsetMissFetch tile => exact execHotsetMissFetch_answers tile s
  | bucketing tile => exact execBucketing_answers tile s
  | courseStart tile => exact execCourseStart_answers tile s
  | packetWrite port => cases hi
  | packetSelect port => cases hi
  | feedFlitGrant ready => exact execFeedFlitGrant_answers ready s
  | drainFlit port tag data => exact execDrainFlit_answers port tag data s hw
  | endOfPacketMark port tag => exact execEndOfPacketMark_answers port tag s
  | coreTimeout port => exact execCoreTimeout_answers port s
  | tokenCombine tile token => exact execTokenCombine_answers tile token s
  | tileCommit => exact execTileCommit_answers s
  | groupReduce ctx => exact execGroupReduce_answers ctx s
  | statTimeout ctx => exact execStatTimeout_answers ctx s
  | basolBlockSend chip engine => exact execBasolBlockSend_answers chip engine s
  | basolBlockReceive port block => exact execBasolBlockReceive_answers port block s hw
  | spore chip engine => exact execSpore_answers chip engine s
  | result chip engine => exact execResult_answers chip engine s
  | abandon chip engine => exact execAbandon_answers chip engine s
  | statUp chip engine => exact execStatUp_answers chip engine s
  | statDown chip engine => exact execStatDown_answers chip engine s
  | readReq chip engine => exact execReadReq_answers chip engine s
  | readData chip engine => exact execReadData_answers chip engine s
  | readRetryTimer who => exact execReadRetryTimer_answers who s
  | ack port frame => exact execAck_answers port frame s
  | nak port frame => exact execNak_answers port frame s
  | credit port frame => exact execCredit_answers port frame s
  | refuse port frame => exact execRefuse_answers port frame s
  | ackTimeout chip engine => exact execAckTimeout_answers chip engine s
  | lostTimeout chip engine => exact execLostTimeout_answers chip engine s
  | streamEndTimeout chip engine => exact execStreamEndTimeout_answers chip engine s
  | sendStateRelease chip engine => exact execSendStateRelease_answers chip engine s
  | inboundStreamRelease chip engine => exact execInboundStreamRelease_answers chip engine s
  | creditRepeat chip engine => exact execCreditRepeat_answers chip engine s
  | linkStatusReport port report => exact execLinkStatusReport_answers port report s
  | memReadResponse tag data => cases hi
  | memWriteResponse tag => cases hi
  | memErrorResponse tag => cases hi
  | beatWindowEnd beats => exact execBeatWindowEnd_answers beats s
  | paceCredit lost => exact execPaceCredit_answers lost s
  | currentGrant grant need => exact execCurrentGrant_answers grant need s
  | fillerLimitExpire => exact execFillerLimitExpire_answers s
  | rampStep draw => exact execRampStep_answers draw s
  | sensorRecord rec => cases hi
  | sensorStale => exact execSensorStale_answers s
  | timebaseStep sample => cases hi
  | tamperInput ticks => cases hi
  | handshakeFault => cases hi
  | resetAssert ticks => cases hi
  | resetRelease pins => cases hi
  | powerOff => cases hi
  | provisionSlotWrite slot key perm floor => cases hi
  | provisionSlotZero slot => cases hi
  | dmAck => cases hi
  | quiesceDone => cases hi
  | selftestComplete result => cases hi
  | instructionStoreError kind => cases hi
  | hostBridgeResponse id outcome => cases hi
  | selftestKeyStoreStepEnd => cases hi

/-! ## The waiting commands -/

/-- The answer leaves the waiting commands as they are. -/
def Finishes (s : State) (r : Res) : Prop := ∃ t, r = finish s t

theorem finishes_of_answers {s : State} {r : Res} (h : Answers s r) : Finishes s r := by
  obtain ⟨t, rfl, hp, -⟩ := h
  exact ⟨t, by rw [finish, ← hp]⟩

theorem finishes_guarded (s : State) (b : Bool) (f : State → State) : Finishes s (guarded s b f) := ⟨_, rfl⟩

theorem finishes_crit (code : Nat) (p : CritPath) (s : State) : Finishes s (crit code p s) := by
  unfold crit
  split
  · exact ⟨_, rfl⟩
  · split <;> exact ⟨_, rfl⟩

theorem finishes_packetSelect (p : PortId) (s : State) : Finishes s (execPacketSelect p s) := by
  unfold execPacketSelect
  dsimp only
  split
  · exact ⟨_, rfl⟩
  · exact finishes_guarded ..

theorem finishes_memReadResponse {tag : BitVec 12} {data : List Byte} (s : State)
    (hw : Instr.wf (.memReadResponse tag data) = true) : Finishes s (execMemReadResponse tag data s) := by
  rw [execMemReadResponse, if_pos hw]
  split
  · exact ⟨_, rfl⟩
  · exact finishes_guarded ..

theorem finishes_memWriteResponse (tag : BitVec 12) (s : State) : Finishes s (execMemWriteResponse tag s) := by
  unfold execMemWriteResponse
  split
  · exact ⟨_, rfl⟩
  · exact finishes_guarded ..

theorem finishes_memErrorResponse (tag : BitVec 12) (s : State) : Finishes s (execMemErrorResponse tag s) := by
  unfold execMemErrorResponse
  split
  · exact ⟨_, rfl⟩
  · exact finishes_guarded ..

theorem finishes_sensorRecord (r : SensorRec) (s : State) : Finishes s (execSensorRecord r s) := by
  unfold execSensorRecord
  split
  · exact finishes_guarded ..
  · exact ⟨_, rfl⟩

theorem finishes_hostBridgeResponse {id : BitVec 16} {o : HostOutcome} (s : State)
    (hw : Instr.wf (.hostBridgeResponse id o) = true) : Finishes s (execHostBridgeResponse id o s) := by
  rw [execHostBridgeResponse, if_pos hw]
  split
  · exact ⟨_, rfl⟩
  · exact finishes_guarded ..

theorem finishes_resetAssert {n : Nat} (s : State) (hw : Instr.wf (.resetAssert n) = true) :
    Finishes s (execResetAssert n s) := by
  rw [execResetAssert, if_pos hw]
  split
  · exact ⟨_, rfl⟩
  · exact ⟨_, rfl⟩

theorem finishes_tamperInput {n : Nat} (s : State) (hw : Instr.wf (.tamperInput n) = true) :
    Finishes s (execTamperInput n s) := by
  rw [execTamperInput, if_pos hw]
  exact finishes_guarded ..

/-- A row that does more than work leaves the waiting commands too. -/
theorem finishes_of_not_onlyWorks {i : Instr} (hi : onlyWorks i = false) (hw : i.wf = true) (s : State) :
    Finishes s (exec i s) := by
  cases i
  case ctxCreate p => exact finishes_crit ..
  case ctxDestroy p => exact finishes_crit ..
  case ctxClass p => exact finishes_crit ..
  case ctxMode p => exact finishes_crit ..
  case ctxWindows p => exact finishes_crit ..
  case ctxRegulate p => exact finishes_crit ..
  case disabledMap p => exact finishes_crit ..
  case selftestReq p => exact finishes_crit ..
  case fwLoad p => exact finishes_crit ..
  case keyLoad p => exact finishes_crit ..
  case keyErase p => exact finishes_crit ..
  case alarmPolicy p => exact finishes_crit ..
  case keyStoreEraseDone => exact ⟨_, rfl⟩
  case packetWrite p => exact ⟨_, rfl⟩
  case packetSelect p => exact finishes_packetSelect p s
  case memReadResponse tag data => exact finishes_memReadResponse s hw
  case memWriteResponse tag => exact finishes_memWriteResponse tag s
  case memErrorResponse tag => exact finishes_memErrorResponse tag s
  case sensorRecord r => exact finishes_sensorRecord r s
  case timebaseStep n => exact ⟨_, rfl⟩
  case tamperInput n => exact finishes_tamperInput s hw
  case handshakeFault => exact ⟨_, rfl⟩
  case resetAssert n => exact finishes_resetAssert s hw
  case resetRelease pins => exact ⟨_, rfl⟩
  case powerOff => exact ⟨_, rfl⟩
  case provisionSlotWrite i key perm floor => exact ⟨_, rfl⟩
  case provisionSlotZero i => exact ⟨_, rfl⟩
  case dmAck => exact ⟨_, rfl⟩
  case quiesceDone => exact ⟨_, rfl⟩
  case selftestComplete r => exact ⟨_, rfl⟩
  case instructionStoreError k => exact ⟨_, rfl⟩
  case hostBridgeResponse id o => exact finishes_hostBridgeResponse s hw
  case selftestKeyStoreStepEnd => exact ⟨_, rfl⟩
  all_goals cases hi

theorem exec_finishes {i : Instr} (hw : i.wf = true) (s : State) : Finishes s (exec i s) := by
  cases hi : onlyWorks i
  · exact finishes_of_not_onlyWorks hi hw s
  · exact finishes_of_answers (exec_answers hi hw s)

/-- An operand that no port carries is refused by name. -/
theorem exec_illFormed {i : Instr} (hw : i.wf = false) (s : State) : ∃ why, exec i s = .refused (.illFormed why) := by
  have hw' : ¬ i.wf = true := by simp [hw]
  cases i
  case descriptorArrival c ds => exact ⟨_, if_neg hw'⟩
  case drainFlit p g data => exact ⟨_, if_neg hw'⟩
  case basolBlockReceive p bs => exact ⟨_, if_neg hw'⟩
  case memReadResponse tag data => exact ⟨_, if_neg hw'⟩
  case hostBridgeResponse id o => exact ⟨_, if_neg hw'⟩
  case resetAssert n => exact ⟨_, if_neg hw'⟩
  case tamperInput n => exact ⟨_, if_neg hw'⟩
  all_goals cases hw

/-- A command that answers a next state could stand on its port. -/
theorem wf_of_exec_next {i : Instr} {s t : State} (h : exec i s = .next t) : i.wf = true := by
  cases hw : i.wf
  · obtain ⟨why, hr⟩ := exec_illFormed hw s
    rw [hr] at h
    cases h
  · rfl

/-- Settles O1: `step` takes the queue apart and runs its front. -/
theorem stepRunsFront : Obligations.StepRunsFront := by
  intro c rest s h
  rw [step, h]

/-- Settles O2: every answer is a `finish`, which keeps the queue. -/
theorem queueUntouched : Obligations.QueueUntouched := by
  intro c s t h
  obtain ⟨u, hu⟩ := exec_finishes (wf_of_exec_next h) s
  rw [hu] at h
  cases h
  rfl

/-- Settles O3: a well-formed command finishes, any other is refused. -/
theorem everyCommandAnswers : Obligations.EveryCommandAnswers := by
  intro c s
  refine ⟨fun hw => ?_, fun hw => exec_illFormed hw s⟩
  obtain ⟨t, ht⟩ := exec_finishes hw s
  exact ⟨_, ht⟩

/-- Settles O4, field by field. -/
theorem resetState : Obligations.ResetState := by
  have hctx (c : CtxId) : State.reset.ctx c = ctxReset := by
    simp only [State.ctx, State.reset, Fin.getElem_fin, Vector.getElem_replicate]
  have hqueue (p : PortId) : State.reset.queues[p] = coreQReset := by
    simp only [State.reset, Fin.getElem_fin, Vector.getElem_replicate]
  refine ⟨rfl, fun c => by rw [hctx]; rfl, rfl, rfl, rfl, rfl, rfl, fun i => ?_, rfl, rfl, reset_memories_wf, fun p => ?_⟩
  · simp only [State.reset, Fin.getElem_fin, Vector.getElem_replicate]
  · rw [hqueue]
    exact ⟨Nat.zero_le _, Nat.zero_le _⟩

end Sys2Proof.Proofs
end

section
/-!
PROOFS. What the rows that do more than work store: memory changes by the requests that are issued and by responses alone
(15 R338, R339), and every step keeps the form of the memories and the bounds of the queues (06 R140, R142).
-/
namespace Sys2Proof.Proofs

open Sys2Proof Sys2Proof.Machine

/-! ## The relations -/

/-- Work during which the engine's state and the chip's inputs may change too. -/
def Runs (s t : State) : Prop := t.host = s.host ∧ Moves s t

theorem Works.runs {s t : State} (h : Works s t) : Runs s t := ⟨h.1.2.1, h.2⟩

theorem Runs.refl (s : State) : Runs s s := ⟨rfl, fun _ _ h => h, id⟩

theorem Runs.trans {s t u : State} (h : Runs s t) (k : Runs t u) : Runs s u :=
  ⟨k.1.trans h.1, fun m o w => k.2.1 m o (h.2.1 m o w), fun w => k.2.2 (h.2.2 w)⟩

/-- A change outside memories, requests and queues. -/
theorem Runs.of_eq {s t : State} (hh : t.host = s.host) (hc : t.chip = s.chip) (ho : t.memOut = s.memOut)
    (hq : t.queues = s.queues) : Runs s t :=
  ⟨hh, fun m o h => by rwa [hc, ho], fun h => by rwa [hq]⟩

/-- From a state to another whose chip memory holds, beside what it held, what writes that are outstanding store. -/
structure Stores (s t : State) : Prop where
  host : t.host = s.host
  chip : Issues s.chip [] t.chip t.memOut
  queues : QueuesOk s.queues → QueuesOk t.queues

theorem Runs.stores {s t : State} (h : Runs s t) : Stores s t :=
  ⟨h.1, h.2.1 _ _ ⟨fun _ ha => absurd rfl ha, fun _ hr => absurd hr List.not_mem_nil, id⟩, h.2.2⟩

/-- A step keeps the form of both memories when it stores by requests alone. -/
theorem Stores.memWf {s t : State} (h : Stores s t) (hw : s.memWf) : t.memWf :=
  ⟨h.chip.form hw.1, by rw [h.host]; exact hw.2⟩

/-! ## Packets written and selected -/

theorem commitTo_works {s : State} {p : PortId} (k : Packet) (h : s.queues[p].packets.length < 64) :
    Works s (commitTo s p k) := by
  refine ⟨by simp [commitTo], fun m o hi => by simpa [commitTo] using hi, fun hq => QueuesOk.mod p _ ⟨?_, ?_⟩ hq⟩
  · simp only [List.length_append, List.length_singleton]
    omega
  · simpa [List.filter_append] using (hq p).2

theorem writePacket_works {s : State} {p : PortId} (h : s.queues[p].packets.length < 64) :
    Works s (writePacket s p) := by
  unfold writePacket
  split
  · exact (modTile_works ..).trans (commitTo_works _ (by simpa using h))
  · split
    · split
      · exact commitTo_works (s := { s with sporeWriters := _ }) _ h
      · simp
    · simp

theorem length_updFirst {α : Type} (p : α → Bool) (f : α → α) (l : List α) : (updFirst p f l).length = l.length := by
  induction l with
  | nil => rfl
  | cons x l ih => by_cases h : p x = true <;> simp [updFirst, h, ih]

/-- One packet made FEEDING where none was. -/
theorem feeding_updFirst {l : List Packet} (p : Packet → Bool) (f : Packet → Packet)
    (h : (l.any fun k => k.state == .feeding) = false) :
    ((updFirst p f l).filter (·.state == .feeding)).length ≤ 1 := by
  induction l with
  | nil => simp [updFirst]
  | cons k l ih =>
    simp only [List.any_cons, Bool.or_eq_false_iff] at h
    obtain ⟨hk, hl⟩ := h
    have hnone : l.filter (·.state == .feeding) = [] :=
      List.filter_eq_nil_iff.2 fun x hx => by simpa using List.any_eq_false.1 hl x hx
    unfold updFirst
    split
    · rw [List.filter_cons, hnone]
      split <;> simp
    · rw [List.filter_cons_of_neg (by simpa using hk)]
      exact ih hl

theorem selectPacket_works {s : State} {p : PortId} (n : BitVec 16) (f : Packet → Packet) (g : CoreQ → CoreQ)
    (hg : ∀ q, (g q).packets = q.packets) (h : (s.queues[p].packets.any fun k => k.state == .feeding) = false) :
    Works s (modQueue s p fun q => modPkt n f (g q)) := by
  refine ⟨by simp, by simp, fun hq => QueuesOk.mod p _ ⟨?_, ?_⟩ hq⟩
  · simpa only [modPkt, hg, length_updFirst] using (hq p).1
  · simpa only [modPkt, hg] using feeding_updFirst _ _ h

theorem execPacketWrite_answers (p : PortId) (s : State) : Answers s (execPacketWrite p s) :=
  answers_running fun h => writePacket_works (by simpa using h)

theorem execPacketSelect_answers (p : PortId) (s : State) : Answers s (execPacketSelect p s) := by
  unfold execPacketSelect
  dsimp only
  split
  · exact answers_self s
  · exact answers_running fun h => selectPacket_works _ _ (fun q => { q with lastTaken := _ }) (fun _ => rfl) (by simpa using h)

/-! ## Entry to SAFE, LOCKED and SELFTEST -/

/-- The engine's state and the cause at the entry to SAFE. -/
def safeBegun (s : State) (cause : Nat) : State :=
  { s with eng := .safe, st := { s.st with safeCause := BitVec.ofNat 8 cause } }

/-- In SAFE the rest of the entry is work. -/
theorem enterSafe_works (s : State) (cause : Nat) : Works (safeBegun s cause) (enterSafe s cause) := by
  refine Works.trans ?_ (writeDiag_works _)
  refine Works.trans ?_ (foldl_works _ (fun u c => answerSafe_works u c) _ _)
  refine Works.trans ?_ (critSafe_works _)
  refine Works.trans ?_ (dropStreams_works _)
  refine Works.trans ?_ (foldl_works _ (fun u c => applyMode_works u c) _ _)
  refine foldl_works _ (fun u c => ?_) _ _
  split
  · exact faultCtx_works ..
  · simp

theorem enterSafe_runs (s : State) (cause : Nat) : Runs s (enterSafe s cause) :=
  (Runs.of_eq (t := safeBegun s cause) rfl rfl rfl rfl).trans (Works.runs (enterSafe_works s cause))

@[simp] theorem enterSafe_eng (s : State) (cause : Nat) : (enterSafe s cause).eng = .safe := (enterSafe_works s cause).1.1

theorem enterLocked_runs (s : State) : Runs s (enterLocked s) := Runs.of_eq rfl rfl rfl rfl

/-- Requests that change owner alone are the same writes. -/
theorem runs_of_owners {s t : State} (f : MemReq → MemOwner) (hh : t.host = s.host) (hc : t.chip = s.chip)
    (ho : t.memOut = s.memOut.map fun r => { r with owner := f r }) (hq : QueuesOk s.queues → QueuesOk t.queues) :
    Runs s t :=
  ⟨hh, fun m o h => by
    rw [hc, ho]
    exact h.relabel _ fun _ => ⟨rfl, rfl, rfl, rfl⟩, hq⟩

/-- The owner that a request has in SELFTEST: none but the security unit. -/
def selftestOwner (r : MemReq) : MemOwner := if r.owner == .crit then r.owner else .dead

theorem selftestOwner_eq (r : MemReq) :
    (if r.owner == .crit then r else { r with owner := .dead }) = { r with owner := selftestOwner r } := by
  unfold selftestOwner
  split <;> rfl

/-- The engine's state at the entry to SELFTEST. -/
def selftestBegun (s : State) : State := { s with eng := .selftest }

theorem wiped_works (s : State) : Works (selftestBegun s) (wipeSram (dropStreams (selftestBegun s))) :=
  (dropStreams_works _).trans (wipeSram_works _)

/-- What entry to SELFTEST from `s` sets in a state `u` with nothing in its tables. -/
def selftestSet (s u : State) (fromOff : Bool) : State :=
  { u with
    fuse := s.pins, quiesce := .none, dm := ⟨false, s.dm.data⟩, floors := [], coreFail := 0
    memWait := u.memWait.filter fun r => r.owner == .crit
    memOut := u.memOut.map fun r => if r.owner == .crit then r else { r with owner := .dead }
    beatFrom := if fromOff then s.tick else u.beatFrom
    sched := { u.sched with scored := false }
    st := { u.st with
      step := 1, safeCause := 0, entry := s.tick, stepFrom := s.tick, fromOff := fromOff, keyStepPending := true, eccHit := false
      oor := !allIn s.sensor.latest || s.sensor.gap, oorCal := false
      passed := false, failSteps := 0, suspect := 0, tested := enabledBits { s with fuse := s.pins }
      details := Vector.replicate 11 0, sram := Vector.replicate 8 0, time := 0 }
    slices := vmap (fun x => { x with suspect := false }) u.slices }

theorem enterSelftest_eq (s : State) (b : Bool) :
    enterSelftest s b = selftestSet s (wipeSram (dropStreams (selftestBegun s))) b := by
  rw [enterSelftest, selftestSet, selftestBegun]

theorem selftestSet_runs (s u : State) (b : Bool) : Runs u (selftestSet s u b) :=
  runs_of_owners selftestOwner rfl rfl (List.map_congr_left fun r _ => selftestOwner_eq r) id

@[simp] theorem selftestSet_eng (s u : State) (b : Bool) : (selftestSet s u b).eng = u.eng := rfl

theorem enterSelftest_runs (s : State) (b : Bool) : Runs s (enterSelftest s b) := by
  have hbegun : Runs s (selftestBegun s) := Runs.of_eq rfl rfl rfl rfl
  rw [enterSelftest_eq]
  exact (hbegun.trans (Works.runs (wiped_works s))).trans (selftestSet_runs ..)

@[simp] theorem enterSelftest_eng (s : State) (b : Bool) : (enterSelftest s b).eng = .selftest := by
  rw [enterSelftest_eq, selftestSet_eng]
  exact (wiped_works s).1.1

/-! ## Violations -/

/-- A violation keeps the engine's state, or locks the engine under a policy other than LOG. -/
theorem violation_eng (s : State) (src : Fin 4) :
    (violation s src).eng = s.eng ∨ ((violation s src).eng = .locked ∧ s.sec.policy ≠ 0 ∧ s.eng ≠ .off) := by
  have hlock (u : State) : (provisionAll (enterLocked u)).eng = .locked := (provisionAll_works _).1.1
  unfold violation
  split
  · exact .inl rfl
  · rename_i hoff
    dsimp only
    split
    · exact .inl rfl
    · rename_i hpol
      split
      · exact .inl rfl
      · refine .inr ⟨?_, by simpa using hpol, by simpa using hoff⟩
        split <;> exact hlock _

theorem violation_runs (s : State) (src : Fin 4) : Runs s (violation s src) := by
  have hcount : Runs s (countViolation s src) := Works.runs (countViolation_works s src)
  have hlock (u : State) : Runs u (provisionAll (enterLocked u)) :=
    (enterLocked_runs u).trans (Works.runs (provisionAll_works _))
  unfold violation
  split
  · exact Runs.refl s
  · dsimp only
    split
    · exact hcount
    · split
      · exact hcount
      · split
        · exact (hcount.trans (hlock _)).trans (Runs.of_eq rfl rfl rfl rfl)
        · exact hcount.trans (hlock _)

/-! ## Envelopes -/

theorem live_congr {s t : State} (h : t.eng = s.eng) : t.live = s.live := by simp [State.live, h]

theorem setCheck_works (s : State) (e n : Nat) : Works s (setCheck s e n) := by
  unfold setCheck
  split <;> simp

theorem acceptEnv_works (s : State) (e : Nat) : Works s (acceptEnv s e) := by simp [acceptEnv]

/-- A state that an envelope's handling leads to: the engine's state is kept, or SAFE after a FW_LOAD in a live engine. -/
def FwEnds (s : State) (e : Nat) (t : State) : Prop :=
  Runs s t ∧ (t.eng = s.eng ∨ (t.eng = .safe ∧ envCmd e = 0x12 ∧ s.live = true))

theorem Works.fwEnds {s t : State} (e : Nat) (h : Works s t) : FwEnds s e t := ⟨Works.runs h, .inl h.1.1⟩

theorem FwEnds.of_works {s t u : State} {e : Nat} (h : Works s t) (k : FwEnds t e u) : FwEnds s e u := by
  refine ⟨(Works.runs h).trans k.1, ?_⟩
  rw [← live_congr h.1.1, ← h.1.1]
  exact k.2

theorem refuseLate_fwEnds (s : State) (p : CritPath) (e n st : Nat) : FwEnds s e (refuseLate s p e n st) := by
  unfold refuseLate
  split
  · rename_i hcmd
    have hw : Works s (endCrit (setCheck s e n) p stSafe 0 0 0) := (setCheck_works s e n).trans (endCrit_works ..)
    dsimp only
    split
    · rename_i hlive
      refine ⟨(Works.runs hw).trans (enterSafe_runs _ 3), .inr ⟨enterSafe_eng .., by simpa using hcmd, ?_⟩⟩
      rwa [live_congr hw.1.1] at hlive
    · exact Works.fwEnds e hw
  · exact Works.fwEnds e (endCrit_works ..)

theorem fwLoad_fwEnds (s : State) (p : CritPath) (e : Nat) (body : List Byte) : FwEnds s e (fwLoad s p e body) := by
  unfold fwLoad
  split
  · exact refuseLate_fwEnds ..
  · have hload : Works s (loadImage s body) := by simp [loadImage]
    exact Works.fwEnds e (hload.trans ((done_works ..).trans (startQuiesce_works ..)))

theorem keyLoad_works (s : State) (p : CritPath) (e b : Nat) (body : List Byte) : Works s (keyLoad s p e b body) := by
  unfold keyLoad
  split
  · exact endCrit_works ..
  · rename_i key _
    have hload : Works s (loadKey s b key) := by simp [loadKey]
    exact hload.trans (done_works ..)

theorem driveMap_works (s : State) (b : Nat) : Works s (driveMap s b) := by
  have hdm (d : DmPins) : Works s { s with dm := d } := by simp
  exact (hdm _).trans (startQuiesce_works _ _)

theorem execute_fwEnds (s : State) (p : CritPath) (e b : Nat) (body : List Byte) : FwEnds s e (execute s p e b body) := by
  have hslots (ks) : Works s { s with slots := ks } := by simp
  have hsec (k) : Works s { s with sec := k } := by simp
  unfold execute
  dsimp only
  split
  · exact Works.fwEnds e ((createCtx_works ..).trans (done_works ..))
  · exact Works.fwEnds e ((destroyCtx_works ..).trans (done_works ..))
  · exact Works.fwEnds e ((modCtx_works ..).trans (done_works ..))
  · exact Works.fwEnds e (changeMode_works ..)
  · exact Works.fwEnds e ((modCtx_works ..).trans (done_works ..))
  · exact Works.fwEnds e ((regulateCtx_works ..).trans (done_works ..))
  · exact Works.fwEnds e ((done_works ..).trans (driveMap_works ..))
  · exact Works.fwEnds e ((done_works ..).trans (startQuiesce_works ..))
  · exact fwLoad_fwEnds ..
  · exact Works.fwEnds e (keyLoad_works ..)
  · exact Works.fwEnds e ((hslots _).trans (done_works ..))
  · exact Works.fwEnds e ((hsec _).trans (done_works ..))
  · exact Works.fwEnds e (endCrit_works ..)

theorem command_fwEnds (s : State) (p : CritPath) (e : Nat) (body : List Byte) : FwEnds s e (command s p e body) := by
  unfold command
  split
  · exact Works.fwEnds e (endCrit_works ..)
  · exact execute_fwEnds ..

/-- What the outcome of an envelope does: it keeps the engine's state, locks it for a violation, or leaves a live engine
in SAFE for a FW_LOAD. -/
def EnvelopeEnds (s : State) (e : Nat) (t : State) : Prop :=
  FwEnds s e t ∨ (Runs s t ∧ t.eng = .locked ∧ s.sec.policy ≠ 0)

theorem refuseViolation_ends (s : State) (p : CritPath) (e n st : Nat) (src : Fin 4) (hl : s.eng ≠ .locked) :
    EnvelopeEnds s e (refuseViolation s p e n st src) := by
  have hrun := violation_runs s src
  unfold refuseViolation
  dsimp only
  obtain hkeep | ⟨hlock, hpol, -⟩ := violation_eng s src
  · rw [if_neg (by simpa [hkeep] using hl)]
    obtain ⟨hr, he⟩ := refuseLate_fwEnds (violation s src) p e n st
    rw [hkeep, live_congr hkeep] at he
    exact .inl ⟨hrun.trans hr, he⟩
  · rw [if_pos (by simpa using hlock)]
    exact .inr ⟨hrun, hlock, hpol⟩

theorem dropImage_policy (s : State) (e : Nat) : (dropImage s e).sec = s.sec := by
  unfold dropImage
  split <;> rfl

theorem runEnvelope_ends (s : State) (p : CritPath) (e : Nat) (hl : s.eng ≠ .locked) :
    EnvelopeEnds s e (runEnvelope s p e) := by
  have hdrop := dropImage_works s e
  have haccept : Works s (acceptEnv (dropImage s e) e) := hdrop.trans (acceptEnv_works ..)
  unfold runEnvelope
  split
  · exact .inl (Works.fwEnds e ((setCheck_works s e _).trans (endCrit_works ..)))
  · obtain h | ⟨hr, hlock, hpol⟩ := refuseViolation_ends (dropImage s e) p e _ _ _ (by rwa [hdrop.1.1])
    · exact .inl (h.of_works hdrop)
    · exact .inr ⟨(Works.runs hdrop).trans hr, hlock, by rwa [dropImage_policy] at hpol⟩
  · exact .inl ((refuseLate_fwEnds ..).of_works haccept)
  · exact .inl ((command_fwEnds ..).of_works haccept)

end Sys2Proof.Proofs
end

section
/-!
PROOFS. Every step keeps the form of the memories and the bounds of the queues, and memory changes by requests alone.
-/
namespace Sys2Proof.Proofs

open Sys2Proof Sys2Proof.Machine

/-! ## Rows that store by requests alone -/

/-- An answer that stores by requests alone. -/
def StoresRes (s : State) (r : Res) : Prop := ∀ t, r = .next t → Stores s t

theorem storesRes_finish {s t : State} (h : Stores s t) : StoresRes s (finish s t) := by
  intro u hu
  cases hu
  exact ⟨h.host, h.chip, h.queues⟩

theorem storesRes_self (s : State) : StoresRes s (finish s s) := storesRes_finish (Runs.refl s).stores

theorem storesRes_guarded {s : State} {b : Bool} {f : State → State} (h : Stores s (f s)) : StoresRes s (guarded s b f) := by
  unfold guarded
  split
  · exact storesRes_finish h
  · exact storesRes_self s

theorem storesRes_of_answers {s : State} {r : Res} (h : Answers s r) : StoresRes s r := by
  obtain ⟨t, rfl, -, hw⟩ := h
  intro u hu
  cases hu
  exact (Works.runs hw).stores

/-- A state that differs from `s` outside memories, requests and queues. -/
theorem stores_of_eq {s t : State} (hh : t.host = s.host) (hc : t.chip = s.chip) (ho : t.memOut = s.memOut)
    (hq : t.queues = s.queues) : Stores s t := (Runs.of_eq hh hc ho hq).stores

theorem storesRes_crit (code : Nat) (p : CritPath) (s : State) : StoresRes s (crit code p s) := by
  unfold crit
  split
  · exact storesRes_self s
  · rename_i e he
    split
    · have hl : s.eng ≠ .locked := by
        intro hl
        simp [handled, hl] at he
      refine storesRes_finish ?_
      obtain ⟨hr, -⟩ | ⟨hr, -, -⟩ := runEnvelope_ends s p e hl
      · exact (hr.trans (Works.runs (settleOn_works _))).stores
      · exact (hr.trans (Works.runs (settleOn_works _))).stores
    · exact storesRes_self s

theorem provisionOne_stores (w : ProvWrite) (s : State) : StoresRes s (provisionOne w s) := by
  refine storesRes_guarded ?_
  split
  · exact stores_of_eq rfl rfl rfl rfl
  · exact (Works.runs (provision_works s w)).stores

/-- The key store's changes lie outside memories and queues. -/
theorem provisioned_stores {s u : State} (h : Stores s u) : Stores s (if provHeld u then u else provisionAll u) := by
  split
  · exact h
  · obtain ⟨⟨-, hh, -, -⟩, hm, hq⟩ := provisionAll_works u
    exact ⟨hh.trans h.host, hm _ _ h.chip, fun w => hq (h.queues w)⟩

theorem queuesOk_replicate : QueuesOk (Vector.replicate 80 coreQReset) := by
  intro p
  rw [Fin.getElem_fin, Vector.getElem_replicate]
  exact ⟨Nat.zero_le _, Nat.zero_le _⟩

/-- Reset and power leave both memories, and no packet. -/
theorem stores_of_empty {s t : State} (hh : t.host = s.host) (hc : t.chip = s.chip)
    (hq : t.queues = Vector.replicate 80 coreQReset) : Stores s t :=
  ⟨hh, hc ▸ ⟨fun _ h => absurd rfl h, fun _ h => absurd h List.not_mem_nil, id⟩, fun _ => hq ▸ queuesOk_replicate⟩

theorem offState_stores (s : State) : Stores s (offState s) := stores_of_empty rfl rfl rfl

theorem execResetAssert_stores (n : Nat) (s : State) : StoresRes s (execResetAssert n s) := by
  unfold execResetAssert
  split
  · split
    · exact storesRes_finish (offState_stores s)
    · refine storesRes_finish ?_
      split
      · exact stores_of_empty rfl rfl rfl
      · exact stores_of_eq rfl rfl rfl rfl
  · intro t h
    cases h

theorem passTo_works (s : State) (n : BitVec 64) : Works s (passTo s n) := by
  have htick : Works s { s with tick := n } := by simp
  unfold passTo
  dsimp only
  split
  · exact htick
  · refine htick.trans (foldl_works _ (fun u c => ?_) _ _)
    split
    · exact acctAdd_works ..
    · exact acctAdd_works ..
    · exact acctAdd_works ..
    · simp

/-- A sample that jumps changes the ticks of the packets, and no packet's state. -/
theorem retime_works (s : State) (n : BitVec 64) : Works s (retime s n) :=
  ⟨⟨rfl, rfl, rfl, rfl⟩, fun _ _ h => h, fun h => QueuesOk.mapPackets (fun k => { k with since := n }) (fun _ => rfl) h⟩

theorem execTimebaseStep_answers (n : BitVec 64) (s : State) : Answers s (execTimebaseStep n s) := by
  refine answers_finish ?_
  split
  · simp
  · split
    · exact passTo_works s n
    · split
      · exact ⟨⟨rfl, rfl, rfl, rfl⟩, fun _ _ h => h, id⟩
      · exact retime_works s n

theorem execSensorRecord_stores (r : SensorRec) (s : State) : StoresRes s (execSensorRecord r s) := by
  unfold execSensorRecord
  split
  · exact storesRes_guarded ((Works.runs (publishRecord_works s r)).trans (enterSelftest_runs ..)).stores
  · exact storesRes_finish (Works.runs ((publishRecord_works s r).trans (testOor_works ..))).stores

theorem execSelftestComplete_stores (r : SelfTestResult) (s : State) : StoresRes s (execSelftestComplete r s) := by
  have hlog := Works.runs (logTest_works s r)
  refine storesRes_guarded ?_
  dsimp only
  split
  · refine (hlog.trans ?_).stores
    exact Runs.of_eq rfl rfl rfl rfl
  · exact (hlog.trans ((Runs.of_eq (t := { logTest s r with fresh := (logTest s r).fresh + 1 }) rfl rfl rfl rfl).trans
      (enterSafe_runs _ _))).stores

/-- The contexts outside FREE are reset before a self-test. -/
def resetAll (s : State) : State := (fins 16).foldl (fun s c => if isFree s c then s else resetCtx s c) s

theorem resetAll_works (s : State) : Works s (resetAll s) := by
  refine foldl_works _ (fun u c => ?_) _ _
  split
  · simp
  · exact resetCtx_works u c

theorem execQuiesceDone_stores (s : State) : StoresRes s (execQuiesceDone s) :=
  storesRes_guarded ((Works.runs (resetAll_works s)).trans (enterSelftest_runs (resetAll s) false)).stores

/-- The state without its image. -/
def noImage (s : State) : State := { s with fw := { s.fw with valid := false, version := 0, image := [] } }

theorem execInstructionStoreError_stores (k : EccKind) (s : State) : StoresRes s (execInstructionStoreError k s) := by
  refine storesRes_guarded ?_
  split
  · exact stores_of_eq rfl rfl rfl rfl
  · dsimp only
    split
    · exact stores_of_eq rfl rfl rfl rfl
    · refine Runs.stores (Runs.trans (t := noImage s) (Runs.of_eq rfl rfl rfl rfl) ?_)
      exact (enterSafe_runs _ 4).trans (Works.runs (settle_works _))

/-- A response takes its request away, and the memory and the queues stay. -/
theorem stores_of_takeReq {s s1 t : State} {tag : BitVec 12} {r : MemReq} (h : takeReq s tag = some (r, s1))
    (hr : Runs s1 t) : Stores s t := by
  unfold takeReq at h
  obtain ⟨q, -, hq⟩ := Option.map_eq_some_iff.1 h
  cases hq
  obtain ⟨hh, hc, hqs⟩ := hr.stores
  exact ⟨hh, hc, hqs⟩

theorem execMemWriteResponse_stores (tag : BitVec 12) (s : State) : StoresRes s (execMemWriteResponse tag s) := by
  unfold execMemWriteResponse
  split
  · exact storesRes_self s
  · rename_i r s1 h
    refine storesRes_guarded (stores_of_takeReq h (Works.runs (answered_works _ _ _ ?_)))
    exact writeReturned_works s1 r

theorem execKeyStoreEraseDone_stores (s : State) : StoresRes s (execKeyStoreEraseDone s) :=
  storesRes_guarded (provisioned_stores (stores_of_eq (s := s) rfl rfl rfl rfl))

theorem execSelftestKeyStoreStepEnd_stores (s : State) : StoresRes s (execSelftestKeyStoreStepEnd s) := by
  refine storesRes_guarded (provisioned_stores (s := s) ?_)
  split
  · exact stores_of_eq rfl rfl rfl rfl
  · exact stores_of_eq rfl rfl rfl rfl

theorem execResetRelease_stores (pins : FusePins) (s : State) : StoresRes s (execResetRelease pins s) :=
  storesRes_guarded (stores_of_eq (s := s) rfl rfl rfl rfl)

theorem execPowerOff_stores (s : State) : StoresRes s (execPowerOff s) :=
  storesRes_finish (stores_of_empty (s := s) rfl rfl rfl)

theorem execDmAck_stores (s : State) : StoresRes s (execDmAck s) :=
  storesRes_guarded (stores_of_eq (s := s) rfl rfl rfl rfl)

/-- The row is a response that itself shows bytes in memory. -/
def bringsBytes : Instr → Bool
  | .memReadResponse _ _ => true
  | .memErrorResponse _ => true
  | .hostBridgeResponse _ _ => true
  | _ => false

/-- Every other row stores by requests alone. -/
theorem exec_stores {i : Instr} (hb : bringsBytes i = false) {s t : State} (h : exec i s = .next t) : Stores s t := by
  have hw := wf_of_exec_next h
  cases hi : onlyWorks i with
  | true => exact storesRes_of_answers (exec_answers hi hw s) t h
  | false =>
    cases i
    case ctxCreate p => exact storesRes_crit _ p s t h
    case ctxDestroy p => exact storesRes_crit _ p s t h
    case ctxClass p => exact storesRes_crit _ p s t h
    case ctxMode p => exact storesRes_crit _ p s t h
    case ctxWindows p => exact storesRes_crit _ p s t h
    case ctxRegulate p => exact storesRes_crit _ p s t h
    case disabledMap p => exact storesRes_crit _ p s t h
    case selftestReq p => exact storesRes_crit _ p s t h
    case fwLoad p => exact storesRes_crit _ p s t h
    case keyLoad p => exact storesRes_crit _ p s t h
    case keyErase p => exact storesRes_crit _ p s t h
    case alarmPolicy p => exact storesRes_crit _ p s t h
    case keyStoreEraseDone => exact execKeyStoreEraseDone_stores s t h
    case packetWrite p => exact storesRes_of_answers (execPacketWrite_answers p s) t h
    case packetSelect p => exact storesRes_of_answers (execPacketSelect_answers p s) t h
    case memWriteResponse tag => exact execMemWriteResponse_stores tag s t h
    case sensorRecord r => exact execSensorRecord_stores r s t h
    case timebaseStep n => exact storesRes_of_answers (execTimebaseStep_answers n s) t h
    case tamperInput n =>
      change execTamperInput n s = _ at h
      rw [execTamperInput, if_pos hw] at h
      exact storesRes_guarded (violation_runs s 2).stores t h
    case handshakeFault => exact storesRes_finish (violation_runs s 3).stores t h
    case resetAssert n => exact execResetAssert_stores n s t h
    case resetRelease pins => exact execResetRelease_stores pins s t h
    case powerOff => exact execPowerOff_stores s t h
    case provisionSlotWrite slot key perm floor => exact provisionOne_stores _ s t h
    case provisionSlotZero slot => exact provisionOne_stores _ s t h
    case dmAck => exact execDmAck_stores s t h
    case quiesceDone => exact execQuiesceDone_stores s t h
    case selftestComplete r => exact execSelftestComplete_stores r s t h
    case instructionStoreError k => exact execInstructionStoreError_stores k s t h
    case selftestKeyStoreStepEnd => exact execSelftestKeyStoreStepEnd_stores s t h
    case memReadResponse => cases hb
    case memErrorResponse => cases hb
    case hostBridgeResponse => cases hb
    all_goals cases hi

end Sys2Proof.Proofs
end

section
/-!
PROOFS. The responses that show bytes in memory (15 R338, R339, 13 R317), the form of the memories, the bounds of the queues
(06 R140, R142), and that memory changes by requests alone.
-/
namespace Sys2Proof.Proofs

open Sys2Proof Sys2Proof.Machine

/-! ## Responses -/

/-- The answer of a guarded meaning: its effect, or the state as it is. -/
theorem guarded_eq_next {s t : State} {b : Bool} {f : State → State} (h : guarded s b f = .next t) :
    (b = true ∧ t = { f s with pending := s.pending }) ∨ (b = false ∧ t = s) := by
  cases b
  · cases h
    exact .inr ⟨rfl, rfl⟩
  · cases h
    exact .inl ⟨rfl, rfl⟩

theorem critFailed_fwEnds {s : State} : Runs s (critFailed s) := by
  have hkill := Works.runs (killReads_works s (· == .crit))
  unfold critFailed
  dsimp only
  split
  · split
    · exact hkill.trans (refuseLate_fwEnds ..).1
    · exact hkill
  · exact hkill

theorem unitError_runs (s : State) (o : MemOwner) : Runs s (unitError s o) := by
  by_cases h : o = .crit
  · subst h
    exact critFailed_fwEnds
  · exact Works.runs (unitError_works s o h)

theorem answered_runs {s : State} {o : MemOwner} {f : State → State} (h : Runs s (f s)) : Runs s (answered s o f) := by
  unfold answered
  split
  · exact h.trans (Works.runs ((settleOn_works _).trans (dropGot_works _)))
  · exact Runs.refl s

theorem takeReq_eq_some {s s1 : State} {tag : BitVec 12} {r : MemReq} (h : takeReq s tag = some (r, s1)) :
    r ∈ s.memOut ∧ r.tag = tag ∧ s1 = { s with memOut := s.memOut.filter fun q => q.tag != tag } := by
  unfold takeReq at h
  obtain ⟨q, hq, heq⟩ := Option.map_eq_some_iff.1 h
  cases heq
  exact ⟨List.mem_of_find?_eq_some hq, by simpa using List.find?_some hq, rfl⟩

/-- What a response of the memory port can do: a byte that differs from what `s` held lies in the response's request, or
is stored by a request that is outstanding. -/
structure Lands (s : State) (r : MemReq) (n : Nat) (t : State) : Prop where
  host : t.host = s.host
  bytes : ∀ a, memByte t.chip a ≠ memByte s.chip a → (r.addr ≤ a ∧ a < r.addr + n)
    ∨ ∃ q ∈ t.memOut, q.covers a ∧ memByte t.chip a = q.data.getD (a - q.addr) 0
  form : s.chip.wf = true → t.chip.wf = true
  queues : QueuesOk s.queues → QueuesOk t.queues

/-- A response writes its own bytes, at most `n`, and what follows stores by requests. -/
theorem lands_of_write {s u t : State} {r : MemReq} {n : Nat} {bs : List Byte} (hh : u.host = s.host)
    (hc : u.chip = memWrite s.chip r.addr bs) (hn : bs.length ≤ n) (hq : u.queues = s.queues) (h : Runs u t) :
    Lands s r n t := by
  obtain ⟨hhost, hchip, hqueues⟩ := h.stores
  refine ⟨hhost.trans hh, fun a ha => ?_, fun w => hchip.form (hc ▸ memWrite_wf _ _ _ w), fun w => hqueues (hq ▸ w)⟩
  by_cases hu : memByte t.chip a = memByte u.chip a
  · left
    by_contra hout
    refine ha (hu.trans ?_)
    rw [hc, memByte_memWrite_out _ _ _ _ (by omega)]
  · exact .inr (hchip.bytes a hu)

theorem lands_of_stores {s t : State} (h : Stores s t) (r : MemReq) (n : Nat) : Lands s r n t :=
  ⟨h.host, fun a ha => .inr (h.chip.bytes a ha), h.chip.form, h.queues⟩

theorem Lands.finish {s t : State} {r : MemReq} {n : Nat} (h : Lands s r n t) : Lands s r n { t with pending := s.pending } :=
  ⟨h.host, h.bytes, h.form, h.queues⟩

theorem readReturned_lands {s : State} (r : MemReq) {data : List Byte} (hn : data.length ≤ r.len) {t : State}
    (h : Runs (readReturned s r data) t) : Lands s r r.len t := by
  let u : State := { s with chip := landRead s.chip r data, got := s.got ++ [(r.owner, r.addr, data)] }
  have hret : Runs u (readReturned s r data) := by
    unfold readReturned
    dsimp only
    split
    · exact Works.runs (dmaArrived_works ..)
    · split
      · exact Runs.refl u
      · exact Works.runs (readsDone_works ..)
  refine lands_of_write (u := u) rfl rfl ?_ rfl (hret.trans h)
  simpa [indexed] using hn

/-- A read's response shows the bytes read. -/
theorem execMemReadResponse_lands {s t : State} {tag : BitVec 12} {data : List Byte}
    (h : execMemReadResponse tag data s = .next t) :
    Stores s t ∨ ∃ r ∈ s.memOut, r.tag = tag ∧ r.write = false ∧ Lands s r r.len t := by
  unfold execMemReadResponse at h
  split at h
  · split at h
    · exact .inl (storesRes_self s t h)
    · rename_i r s1 hreq
      obtain ⟨hmem, htag, rfl⟩ := takeReq_eq_some hreq
      obtain ⟨hok, rfl⟩ | ⟨-, rfl⟩ := guarded_eq_next h
      · simp only [Bool.and_eq_true, Bool.not_eq_true'] at hok
        have hlen : (slice data (r.addr % 64) r.len).length ≤ r.len := by
          simp only [slice, List.length_take]
          omega
        unfold answered
        split
        · refine .inr ⟨r, hmem, htag, hok.1, ?_⟩
          obtain ⟨h1, h2, h3, h4⟩ := readReturned_lands (s := { s with memOut := s.memOut.filter fun q => q.tag != tag }) r hlen
            (Works.runs ((settleOn_works _).trans (dropGot_works _)))
          exact ⟨h1, h2, h3, h4⟩
        · exact .inl (stores_of_takeReq hreq (Runs.of_eq rfl rfl rfl rfl))
      · exact .inl (Runs.refl _).stores
  · cases h

theorem revertWrite_lands {s : State} (r : MemReq) {t : State} (h : Runs (revertWrite s r) t) :
    Lands s r r.old.length t :=
  lands_of_write (u := revertWrite s r) rfl rfl (by simp [indexed]) rfl h

/-- An error response goes to the unit that made the request, unless the engine is LOCKED. -/
theorem errorGoes_runs (s : State) (b : Bool) (o : MemOwner) :
    Runs s (if b then s else answered (memErr s) o fun s => unitError s o) := by
  split
  · exact Runs.refl s
  · exact (Works.runs (memErr_works s)).trans (answered_runs (unitError_runs _ o))

/-- What an error response leads to, once its request is taken. -/
def errorEnd (s : State) (locked : Bool) (r : MemReq) : State :=
  let u := if r.write then revertWrite s r else s
  if locked then u else answered (memErr u) r.owner fun v => unitError v r.owner

theorem errorEnd_lands (s : State) (locked : Bool) (r : MemReq) :
    Stores s (errorEnd s locked r) ∨ (r.write = true ∧ Lands s r r.old.length (errorEnd s locked r)) := by
  have hgoes := errorGoes_runs (if r.write then revertWrite s r else s) locked r.owner
  cases hw : r.write
  · rw [hw] at hgoes
    exact .inl (by simpa only [errorEnd, hw, Bool.false_eq_true, if_false] using hgoes.stores)
  · rw [hw] at hgoes
    exact .inr ⟨rfl, by simpa only [errorEnd, hw] using revertWrite_lands r hgoes⟩

/-- The error response of a write shows, of each slot, the old contents or the data. -/
theorem execMemErrorResponse_lands {s t : State} {tag : BitVec 12} (h : execMemErrorResponse tag s = .next t) :
    Stores s t ∨ ∃ r ∈ s.memOut, r.tag = tag ∧ r.write = true ∧ Lands s r r.old.length t := by
  unfold execMemErrorResponse at h
  split at h
  · exact .inl (storesRes_self s t h)
  · rename_i r s1 hreq
    obtain ⟨hmem, htag, rfl⟩ := takeReq_eq_some hreq
    obtain ⟨-, rfl⟩ | ⟨-, rfl⟩ := guarded_eq_next h
    · obtain ⟨h1, h2, h3⟩ | ⟨hw, h1, h2, h3, h4⟩ :=
        errorEnd_lands { s with memOut := s.memOut.filter fun q => q.tag != tag } (s.eng == .locked) r
      · exact .inl ⟨h1, h2, h3⟩
      · exact .inr ⟨r, hmem, htag, hw, h1, h2, h3, h4⟩
    · exact .inl (Runs.refl _).stores

/-! ## Responses of the host bridge -/

/-- A host response that changes host memory writes what its access holds. -/
structure LandsHost (s : State) (h : HostReq) (t : State) : Prop where
  chip : Issues s.chip [] t.chip t.memOut
  bytes : ∀ a, memByte t.host a ≠ memByte s.host a → h.addr ≤ a ∧ a < h.addr + h.data.length
  form : s.host.wf = true → t.host.wf = true
  queues : QueuesOk s.queues → QueuesOk t.queues

theorem landsHost_of_write {s u t : State} {h : HostReq} {bs : List Byte} (hc : u.chip = s.chip)
    (hh : u.host = memWrite s.host h.addr bs) (hn : bs.length = h.data.length)
    (hq : u.queues = s.queues) (hr : Runs u t) : LandsHost s h t := by
  obtain ⟨hhost, hchip, hqueues⟩ := hr.stores
  refine ⟨hc ▸ hchip, fun a ha => ?_, fun w => ?_, fun w => hqueues (hq ▸ w)⟩
  · by_contra hout
    refine ha ?_
    rw [hhost, hh, memByte_memWrite_out _ _ _ _ (by omega)]
  · rw [hhost, hh]
    exact memWrite_wf _ _ _ w

theorem landsHost_of_stores {s t : State} (h : Stores s t) (k : HostReq) : LandsHost s k t :=
  ⟨h.chip, fun a ha => absurd (by rw [h.host]) ha, fun w => by rw [h.host]; exact w, h.queues⟩

/-- The access that a host response ends is no longer outstanding. -/
def hostTaken (s : State) (h : HostReq) : State := { s with hostOut := s.hostOut.filter fun k => k.id != h.id }

theorem hostTaken_runs (s : State) (h : HostReq) : Runs s (hostTaken s h) := Runs.of_eq rfl rfl rfl rfl

theorem hostReturned_ok (s : State) (h : HostReq) (data : List Byte) :
    hostReturned s h (.ok data)
      = hostAnswered (if h.write then landHost (hostTaken s h) h else hostTaken s h) h.owner fun u => hostGood u h data := rfl

theorem hostReturned_bad (s : State) (h : HostReq) {o : HostOutcome} (ho : o = .busError ∨ o = .unreachable) :
    hostReturned s h o = hostAnswered (if h.write && h.owner.isDma then revertHost (hostTaken s h) h else hostTaken s h)
      h.owner fun u => hostBad u h.owner := by
  obtain rfl | rfl := ho
  · rfl
  · rfl

theorem landHost_lands {s t : State} {h : HostReq} (hr : Runs (landHost (hostTaken s h) h) t) : LandsHost s h t :=
  landsHost_of_write (u := landHost (hostTaken s h) h) rfl rfl rfl rfl hr

theorem revertHost_lands {s t : State} {h : HostReq} (hr : Runs (revertHost (hostTaken s h) h) t) : LandsHost s h t :=
  landsHost_of_write (u := revertHost (hostTaken s h) h) rfl rfl (by simp [indexed]) rfl hr

theorem hostReturned_lands (s : State) (h : HostReq) (o : HostOutcome) :
    Stores s (hostReturned s h o) ∨ (h.write = true ∧ LandsHost s h (hostReturned s h o)) := by
  have hgood (u : State) (data : List Byte) : Runs u (hostAnswered u h.owner fun u => hostGood u h data) :=
    Works.runs (hostAnswered_works u h.owner _ (hostGood_works u h data))
  have hbad (u : State) : Runs u (hostAnswered u h.owner fun u => hostBad u h.owner) :=
    Works.runs (hostAnswered_works u h.owner _ (hostBad_works u h.owner))
  have hfail {o : HostOutcome} (ho : o = .busError ∨ o = .unreachable) :
      Stores s (hostReturned s h o) ∨ (h.write = true ∧ LandsHost s h (hostReturned s h o)) := by
    rw [hostReturned_bad s h ho]
    split
    · rename_i hw
      exact .inr ⟨(Bool.and_eq_true_iff.1 hw).1, revertHost_lands (hbad _)⟩
    · exact .inl ((hostTaken_runs s h).trans (hbad _)).stores
  cases o with
  | ok data =>
    rw [hostReturned_ok]
    split
    · rename_i hw
      exact .inr ⟨hw, landHost_lands (hgood _ data)⟩
    · exact .inl ((hostTaken_runs s h).trans (hgood _ data)).stores
  | busError => exact hfail (.inl rfl)
  | unreachable => exact hfail (.inr rfl)

theorem execHostBridgeResponse_lands {s t : State} {id : BitVec 16} {o : HostOutcome}
    (h : execHostBridgeResponse id o s = .next t) :
    Stores s t ∨ ∃ k ∈ s.hostOut, k.id = id ∧ k.write = true ∧ LandsHost s k t := by
  unfold execHostBridgeResponse at h
  split at h
  · split at h
    · exact .inl (storesRes_self s t h)
    · rename_i k hk
      obtain ⟨-, rfl⟩ | ⟨-, rfl⟩ := guarded_eq_next h
      · obtain ⟨h1, h2, h3⟩ | ⟨hw, h1, h2, h3, h4⟩ := hostReturned_lands s k o
        · exact .inl ⟨h1, h2, h3⟩
        · exact .inr ⟨k, List.mem_of_find?_eq_some hk, by simpa using List.find?_some hk, hw, h1, h2, h3, h4⟩
      · exact .inl (Runs.refl _).stores
  · cases h

/-! ## Every command -/

/-- Every command keeps the form of the memories and the bounds of the queues. -/
theorem exec_memWf_queuesWf {i : Instr} {s t : State} (h : exec i s = .next t) :
    (s.memWf → t.memWf) ∧ (s.queuesWf → t.queuesWf) := by
  have hstores : Stores s t → (s.memWf → t.memWf) ∧ (s.queuesWf → t.queuesWf) := fun hs => ⟨hs.memWf, hs.queues⟩
  have hlands {r n} (hl : Lands s r n t) : (s.memWf → t.memWf) ∧ (s.queuesWf → t.queuesWf) :=
    ⟨fun hw => ⟨hl.form hw.1, by rw [hl.host]; exact hw.2⟩, hl.queues⟩
  cases hb : bringsBytes i with
  | false => exact hstores (exec_stores hb h)
  | true =>
    cases i
    case memReadResponse tag data =>
      obtain hs | ⟨r, -, -, -, hl⟩ := execMemReadResponse_lands h
      · exact hstores hs
      · exact hlands hl
    case memErrorResponse tag =>
      obtain hs | ⟨r, -, -, -, hl⟩ := execMemErrorResponse_lands h
      · exact hstores hs
      · exact hlands hl
    case hostBridgeResponse id o =>
      obtain hs | ⟨k, -, -, -, hl⟩ := execHostBridgeResponse_lands h
      · exact hstores hs
      · exact ⟨fun hw => ⟨hl.chip.form hw.1, hl.form hw.2⟩, hl.queues⟩
    all_goals cases hb

/-- A step is a command on the state with the rest of the queue, or the passing of a tick. -/
theorem step_memWf_queuesWf {s t : State} (h : step s = .next t) :
    (s.memWf → t.memWf) ∧ (s.queuesWf → t.queuesWf) := by
  unfold step at h
  split at h
  · cases h
    have hw := (Works.runs (passTo_works s (s.tick + 1))).stores
    exact ⟨hw.memWf, hw.queues⟩
  · rename_i rest _
    exact exec_memWf_queuesWf (s := { s with pending := rest }) h

/-- Settles O5: memory changes by writes alone, and a write keeps the form. -/
theorem memoryFormKept : Obligations.MemoryFormKept := fun _ _ hw h => (step_memWf_queuesWf h).1 hw

/-- Settles O6: a packet enters a queue with a free entry alone, and FEEDING where none is in it. -/
theorem queuesKept : Obligations.QueuesKept := fun _ _ hw h => (step_memWf_queuesWf h).2 hw

/-- Settles O56: what a response does not bring is stored by a request that the engine has issued. -/
theorem memoryChangesByRequestsAlone : Obligations.MemoryChangesByRequestsAlone := by
  intro i s t h
  have hissued {a} : (∃ q ∈ t.memOut, q.covers a ∧ memByte t.chip a = q.data.getD (a - q.addr) 0) →
      ∃ r ∈ t.memOut, r.write = true ∧ r.addr ≤ a ∧ a < r.addr + r.data.length
        ∧ memByte t.chip a = r.data.getD (a - r.addr) 0 := by
    rintro ⟨q, hq, ⟨hw, hlo, hhi⟩, hbyte⟩
    exact ⟨q, hq, hw, hlo, hhi, hbyte⟩
  have hhost {a} (he : t.host = s.host) : ¬ memByte t.host a ≠ memByte s.host a := by rw [he]; exact fun h => h rfl
  have hstores (hs : Stores s t) :
      (∀ a, memByte t.chip a ≠ memByte s.chip a → ∃ r ∈ t.memOut, r.write = true ∧ r.addr ≤ a
        ∧ a < r.addr + r.data.length ∧ memByte t.chip a = r.data.getD (a - r.addr) 0)
      ∧ ∀ a, ¬ memByte t.host a ≠ memByte s.host a :=
    ⟨fun a ha => hissued (hs.chip.bytes a ha), fun a => hhost hs.host⟩
  cases hb : bringsBytes i with
  | false =>
    obtain ⟨hc, hh⟩ := hstores (exec_stores hb h)
    exact ⟨fun a ha => .inl (hc a ha), fun a ha => absurd ha (hh a)⟩
  | true =>
    cases i
    case memReadResponse tag data =>
      obtain hs | ⟨r, hr, htag, hw, hl⟩ := execMemReadResponse_lands h
      · obtain ⟨hc, hh⟩ := hstores hs
        exact ⟨fun a ha => .inl (hc a ha), fun a ha => absurd ha (hh a)⟩
      · refine ⟨fun a ha => ?_, fun a ha => absurd ha (hhost hl.host)⟩
        obtain ⟨hlo, hhi⟩ | hq := hl.bytes a ha
        · exact .inr (.inl ⟨tag, data, r, rfl, hr, htag, hw, hlo, hhi⟩)
        · exact .inl (hissued hq)
    case memErrorResponse tag =>
      obtain hs | ⟨r, hr, htag, hw, hl⟩ := execMemErrorResponse_lands h
      · obtain ⟨hc, hh⟩ := hstores hs
        exact ⟨fun a ha => .inl (hc a ha), fun a ha => absurd ha (hh a)⟩
      · refine ⟨fun a ha => ?_, fun a ha => absurd ha (hhost hl.host)⟩
        obtain ⟨hlo, hhi⟩ | hq := hl.bytes a ha
        · exact .inr (.inr ⟨tag, r, rfl, hr, htag, hw, hlo, hhi⟩)
        · exact .inl (hissued hq)
    case hostBridgeResponse id o =>
      obtain hs | ⟨k, hk, hid, hw, hl⟩ := execHostBridgeResponse_lands h
      · obtain ⟨hc, hh⟩ := hstores hs
        exact ⟨fun a ha => .inl (hc a ha), fun a ha => absurd ha (hh a)⟩
      · refine ⟨fun a ha => .inl (hissued (hl.chip.bytes a ha)), fun a ha => ?_⟩
        obtain ⟨hlo, hhi⟩ := hl.bytes a ha
        exact ⟨id, o, k, rfl, hk, hid, hw, hlo, hhi⟩
    all_goals cases hb

end Sys2Proof.Proofs
end

section
/-!
PROOFS. The transitions of the engine's state (01 R26), row by row.
-/
namespace Sys2Proof.Proofs

open Sys2Proof Sys2Proof.Machine

/-! ## The envelopes' rows -/

theorem crit_eq_next {code : Nat} {p : CritPath} {s t : State} (h : crit code p s = .next t) :
    t.eng = s.eng ∨ ∃ e, handled s p = some e ∧ rowTakes code e = true ∧ t.eng = (runEnvelope s p e).eng := by
  unfold crit at h
  split at h
  · cases h
    exact .inl rfl
  · rename_i e he
    split at h
    · rename_i htakes
      cases h
      exact .inr ⟨e, he, htakes, (settleOn_works _).1.1⟩
    · cases h
      exact .inl rfl

theorem handled_eq_some {s : State} {p : CritPath} {e : Nat} (h : handled s p = some e) :
    s.on = true ∧ s.eng ≠ .locked ∧ s.sec.reading = some p ∧ envelopeAt s p = some e := by
  unfold handled at h
  split at h
  · rename_i hc
    simp only [Bool.and_eq_true, bne_iff_ne, beq_iff_eq] at hc
    obtain ⟨⟨⟨hon, hlock⟩, hread⟩, -⟩ := hc
    exact ⟨hon, hlock, hread, h⟩
  · cases h

/-- A code of the table is taken by its own row alone. -/
theorem code_of_rowTakes {code e cmd : Nat} (h : rowTakes code e = true) (he : envCmd e = cmd)
    (hin : (critLen cmd).isSome = true) : code = cmd := by
  subst he
  simp only [rowTakes, Bool.or_eq_true, beq_iff_eq, Option.isNone_iff_eq_none] at h
  obtain h | h := h
  · exact h.symm
  · rw [h] at hin
    cases hin

/-- How a critical row moves the engine's state. -/
theorem crit_eng {code : Nat} {p : CritPath} {s t : State} (h : crit code p s = .next t) (hne : t.eng ≠ s.eng) :
    s.eng ≠ .off ∧ ((t.eng = .locked ∧ s.sec.policy ≠ 0)
      ∨ (t.eng = .safe ∧ s.eng = .up ∧ code = 0x12 ∧ ∃ e, Handles s p 0x12 e)) := by
  obtain heq | ⟨e, he, htakes, heng⟩ := crit_eq_next h
  · exact absurd heq hne
  · obtain ⟨hon, hlock, -, -⟩ := handled_eq_some he
    rw [heng] at hne ⊢
    refine ⟨by simpa [State.on] using hon, ?_⟩
    obtain ⟨-, hkeep | ⟨hsafe, hcmd, hlive⟩⟩ | ⟨-, hl, hpol⟩ := runEnvelope_ends s p e hlock
    · exact absurd hkeep hne
    · refine .inr ⟨hsafe, ?_, code_of_rowTakes htakes hcmd rfl, e, he, hcmd⟩
      rw [hsafe] at hne
      simp only [State.live, Bool.or_eq_true, beq_iff_eq] at hlive
      exact hlive.resolve_right (Ne.symm hne)
    · exact .inl ⟨hl, hpol⟩

/-! ## The error response of the security unit's read -/

theorem critFailed_eng {s : State} (h : (critFailed s).eng ≠ s.eng) :
    (critFailed s).eng = .safe ∧ s.live = true
      ∧ ∃ p e, s.sec.reading = some p ∧ envelopeAt s p = some e ∧ envCmd e = 0x12 := by
  have hkill := killReads_works s (· == .crit)
  have hat (p : CritPath) : envelopeAt (killReads s (· == .crit)) p = envelopeAt s p := by cases p <;> rfl
  unfold critFailed at h ⊢
  dsimp only at h ⊢
  cases hp : s.sec.reading with
  | none => exact absurd hkill.1.1 (by simpa only [hp] using h)
  | some p =>
    cases he : envelopeAt s p with
    | none => exact absurd hkill.1.1 (by simpa only [hp, he] using h)
    | some e =>
      simp only [hp, he] at h ⊢
      obtain ⟨-, hkeep | ⟨hsafe, hcmd, hlive⟩⟩ := (refuseLate_fwEnds (killReads s (· == .crit)) p e 5 stBus).of_works hkill
      · exact absurd hkeep h
      · exact ⟨hsafe, hlive, p, e, rfl, he, hcmd⟩

theorem unitError_eng {s : State} {o : MemOwner} (h : (unitError s o).eng ≠ s.eng) :
    o = .crit ∧ (unitError s o).eng = .safe ∧ s.live = true
      ∧ ∃ p e, s.sec.reading = some p ∧ envelopeAt s p = some e ∧ envCmd e = 0x12 := by
  by_cases ho : o = .crit
  · subst ho
    exact ⟨rfl, critFailed_eng h⟩
  · exact absurd (unitError_works s o ho).1.1 h

theorem errorEnd_eng {s : State} {locked : Bool} {r : MemReq} (h : (errorEnd s locked r).eng ≠ s.eng) :
    r.owner = .crit ∧ (errorEnd s locked r).eng = .safe ∧ s.live = true
      ∧ ∃ p e, s.sec.reading = some p ∧ envelopeAt s p = some e ∧ envCmd e = 0x12 := by
  have hu : ∃ u : State, u.eng = s.eng ∧ u.sec = s.sec ∧ u.ctxs = s.ctxs ∧ (if r.write then revertWrite s r else s) = u := by
    cases hw : r.write
    · exact ⟨s, rfl, rfl, rfl, by simp⟩
    · exact ⟨revertWrite s r, rfl, rfl, rfl, by simp⟩
  obtain ⟨u, heng, hsec, hctxs, hif⟩ := hu
  have hat (p : CritPath) : envelopeAt (memErr u) p = envelopeAt s p := by
    cases p <;> simp [envelopeAt, State.ctx, hsec, hctxs]
  unfold errorEnd at h ⊢
  simp only [hif] at h ⊢
  split at h
  · exact absurd heng h
  · rename_i hlock
    rw [if_neg hlock]
    unfold answered at h ⊢
    split at h
    · rename_i hgo
      rw [if_pos hgo]
      have hend := ((settleOn_works (unitError (memErr u) r.owner)).trans (dropGot_works _)).1.1
      rw [hend, ← heng] at h
      obtain ⟨ho, hsafe, hlive, p, e, hread, henv, hcmd⟩ := unitError_eng (s := memErr u) h
      refine ⟨ho, hend.trans hsafe, (live_congr (s := s) (t := memErr u) heng) ▸ hlive, p, e, ?_, (hat p) ▸ henv, hcmd⟩
      rwa [← hsec]
    · exact absurd heng h

theorem execMemErrorResponse_eng {s t : State} {tag : BitVec 12} (h : execMemErrorResponse tag s = .next t)
    (hne : t.eng ≠ s.eng) :
    t.eng = .safe ∧ s.eng = .up ∧ ∃ r s1 p e, takeReq s tag = some (r, s1) ∧ r.owner = .crit
      ∧ s.sec.reading = some p ∧ envelopeAt s p = some e ∧ envCmd e = 0x12 := by
  unfold execMemErrorResponse at h
  split at h
  · cases h
    exact absurd rfl hne
  · rename_i r s1 hreq
    obtain ⟨-, -, rfl⟩ := takeReq_eq_some hreq
    obtain ⟨-, rfl⟩ | ⟨-, rfl⟩ := guarded_eq_next h
    · obtain ⟨ho, hsafe, hlive, p, e, hread, henv, hcmd⟩ :=
        errorEnd_eng (s := { s with memOut := s.memOut.filter fun q => q.tag != tag }) (locked := s.eng == .locked) hne
      have hat : envelopeAt { s with memOut := s.memOut.filter fun q => q.tag != tag } p = envelopeAt s p := by
        cases p <;> rfl
      refine ⟨hsafe, ?_, r, _, p, e, hreq, ho, hread, hat ▸ henv, hcmd⟩
      have hne' : s.eng ≠ .safe := fun hs => hne (hsafe.trans hs.symm)
      have hlive' : s.live = true := hlive
      simp only [State.live, Bool.or_eq_true, beq_iff_eq] at hlive'
      exact hlive'.resolve_right hne'
    · exact absurd rfl hne

/-! ## The other rows -/

theorem execSensorRecord_eng {s t : State} {r : SensorRec} (h : execSensorRecord r s = .next t) (hne : t.eng ≠ s.eng) :
    s.eng = .off ∧ t.eng = .selftest ∧ s.inReset = false ∧ railsIn r = true := by
  unfold execSensorRecord at h
  split at h
  · rename_i hoff
    obtain ⟨hc, ht⟩ | ⟨-, rfl⟩ := guarded_eq_next h
    · simp only [Bool.and_eq_true, Bool.not_eq_true'] at hc
      have heng : t.eng = (enterSelftest (publishRecord s r) true).eng := by rw [ht]
      rw [enterSelftest_eng] at heng
      exact ⟨by simpa using hoff, heng, hc.1, hc.2⟩
    · exact absurd rfl hne
  · cases h
    exact absurd ((publishRecord_works s r).trans (testOor_works ..)).1.1 hne

theorem execSelftestComplete_eng {s t : State} {r : SelfTestResult} (h : execSelftestComplete r s = .next t)
    (hne : t.eng ≠ s.eng) : s.eng = .selftest ∧ (t.eng = .up ∨ t.eng = .safe) := by
  obtain ⟨hc, rfl⟩ | ⟨-, rfl⟩ := guarded_eq_next h
  · simp only [Bool.and_eq_true, beq_iff_eq] at hc
    refine ⟨hc.1, ?_⟩
    dsimp only
    split
    · exact .inl rfl
    · exact .inr (enterSafe_eng ..)
  · exact absurd rfl hne

/-- A quiesced engine has no context that makes it RUN. -/
theorem inRun_of_quiesced {s : State} (h : quiesced s = true) : s.quiesce = .drain ∧ inRun s = false := by
  simp only [quiesced, Bool.and_eq_true, beq_iff_eq, List.all_eq_true] at h
  obtain ⟨⟨hq, hquiet⟩, -⟩ := h
  refine ⟨hq, ?_⟩
  have hnone (c : CtxId) : ctxActive s c = false := by
    have hc := hquiet (s.ctx c) (by simp [State.ctx])
    simp only [quiet, Bool.and_eq_true, Bool.not_eq_true', bne_iff_ne] at hc
    obtain ⟨⟨⟨-, hwork⟩, hqueued⟩, -⟩ := hc
    simp only [ctxActive, hwork, Bool.false_or, beq_eq_false_iff_ne]
    exact hqueued
  simp [inRun, hnone]

theorem execQuiesceDone_eng {s t : State} (h : execQuiesceDone s = .next t) (hne : t.eng ≠ s.eng) :
    (s.eng = .up ∨ s.eng = .safe) ∧ t.eng = .selftest ∧ s.quiesce = .drain ∧ inRun s = false := by
  obtain ⟨hc, ht⟩ | ⟨-, rfl⟩ := guarded_eq_next h
  · simp only [Bool.and_eq_true] at hc
    obtain ⟨hlive, hq⟩ := hc
    have heng : t.eng = (enterSelftest (resetAll s) false).eng := by rw [ht, resetAll]
    rw [enterSelftest_eng] at heng
    exact ⟨by simpa [State.live] using hlive, heng, inRun_of_quiesced hq⟩
  · exact absurd rfl hne

theorem execInstructionStoreError_eng {s t : State} {k : EccKind} (h : execInstructionStoreError k s = .next t)
    (hne : t.eng ≠ s.eng) : k = .double ∧ s.eng = .up ∧ t.eng = .safe := by
  obtain ⟨hc, rfl⟩ | ⟨-, rfl⟩ := guarded_eq_next h
  · simp only [Bool.and_eq_true, State.on, bne_iff_ne] at hc
    obtain ⟨hoff, hlock⟩ := hc
    cases k with
    | single => exact absurd rfl hne
    | double =>
      by_cases hst : s.eng = .selftest
      · simp only [hst, beq_self_eq_true, if_true] at hne
        exact absurd rfl hne
      · simp only [beq_eq_false_iff_ne.2 hst, Bool.false_eq_true, if_false] at hne ⊢
        have hsafe (u : State) : (settle (enterSafe u 4)).eng = .safe := (settle_works _).1.1.trans (enterSafe_eng u 4)
        rw [hsafe] at hne
        refine ⟨trivial, ?_, hsafe _⟩
        cases he : s.eng with
        | up => rfl
        | off => exact absurd he hoff
        | selftest => exact absurd he hst
        | safe => exact absurd he.symm hne
        | locked => exact absurd he hlock
  · exact absurd rfl hne

/-- A response to a read or to a write, and one of the host bridge, keep the engine's state. -/
theorem answered_eng {s : State} {o : MemOwner} {f : State → State} (h : Works s (f s)) : (answered s o f).eng = s.eng :=
  (answered_works s o f h).1.1

theorem execMemReadResponse_eng {s t : State} {tag : BitVec 12} {data : List Byte}
    (h : execMemReadResponse tag data s = .next t) : t.eng = s.eng := by
  unfold execMemReadResponse at h
  split at h
  · split at h
    · cases h
      rfl
    · rename_i r s1 hreq
      obtain ⟨-, -, rfl⟩ := takeReq_eq_some hreq
      obtain ⟨-, rfl⟩ | ⟨-, rfl⟩ := guarded_eq_next h
      · dsimp only
        unfold answered
        split
        · refine ((settleOn_works _).trans (dropGot_works _)).1.1.trans ?_
          unfold readReturned
          dsimp only
          split
          · exact (dmaArrived_works ..).1.1
          · split
            · rfl
            · exact (readsDone_works ..).1.1
        · rfl
      · rfl
  · cases h

theorem execMemWriteResponse_eng {s t : State} {tag : BitVec 12} (h : execMemWriteResponse tag s = .next t) :
    t.eng = s.eng := by
  unfold execMemWriteResponse at h
  split at h
  · cases h
    rfl
  · rename_i r s1 hreq
    obtain ⟨-, -, rfl⟩ := takeReq_eq_some hreq
    obtain ⟨-, rfl⟩ | ⟨-, rfl⟩ := guarded_eq_next h
    · exact answered_eng (writeReturned_works _ r)
    · rfl

theorem execHostBridgeResponse_eng {s t : State} {id : BitVec 16} {o : HostOutcome}
    (h : execHostBridgeResponse id o s = .next t) : t.eng = s.eng := by
  have hany (u : State) (k : HostReq) (f : State → State) (hf : Works u (f u)) (hu : u.eng = s.eng) :
      (hostAnswered u k.owner f).eng = s.eng := (hostAnswered_works u k.owner f hf).1.1.trans hu
  unfold execHostBridgeResponse at h
  split at h
  · split at h
    · cases h
      rfl
    · rename_i k _
      obtain ⟨-, rfl⟩ | ⟨-, rfl⟩ := guarded_eq_next h
      · cases o with
        | ok data => exact hany _ k _ (hostGood_works _ k data) (by split <;> rfl)
        | busError => exact hany _ k _ (hostBad_works _ k.owner) (by split <;> rfl)
        | unreachable => exact hany _ k _ (hostBad_works _ k.owner) (by split <;> rfl)
      · rfl
  · cases h

theorem provisioned_eng (u : State) : (if provHeld u then u else provisionAll u).eng = u.eng := by
  split
  · rfl
  · exact (provisionAll_works u).1.1

theorem provisionOne_eng {w : ProvWrite} {s t : State} (h : provisionOne w s = .next t) : t.eng = s.eng := by
  obtain ⟨-, rfl⟩ | ⟨-, rfl⟩ := guarded_eq_next h
  · dsimp only
    split
    · rfl
    · exact (provision_works s w).1.1
  · rfl

theorem execSelftestKeyStoreStepEnd_eng {s t : State} (h : execSelftestKeyStoreStepEnd s = .next t) : t.eng = s.eng := by
  obtain ⟨-, rfl⟩ | ⟨-, rfl⟩ := guarded_eq_next h
  · refine (provisioned_eng _).trans ?_
    dsimp only
    split <;> rfl
  · rfl

theorem eng_of_answers {s t : State} {r : Res} (ha : Answers s r) (h : r = .next t) : t.eng = s.eng := by
  obtain ⟨u, hu, -, hw⟩ := ha
  rw [hu] at h
  cases h
  exact hw.1.1

theorem execTamperInput_eng {n : Nat} {s t : State} (h : execTamperInput n s = .next t) (hne : t.eng ≠ s.eng) :
    t.eng = .locked ∧ s.sec.policy ≠ 0 ∧ s.eng ≠ .off := by
  unfold execTamperInput at h
  split at h
  · obtain ⟨-, rfl⟩ | ⟨-, rfl⟩ := guarded_eq_next h
    · exact (violation_eng s 2).resolve_left hne
    · exact absurd rfl hne
  · cases h

theorem execResetAssert_eng {n : Nat} {s t : State} (h : execResetAssert n s = .next t) (hne : t.eng ≠ s.eng) :
    t.eng = .off := by
  unfold execResetAssert at h
  split at h
  · split at h
    · cases h
      rfl
    · cases h
      by_cases hf : Config.freeBit s.fresh = true
      · simp only [hf, if_true]
        rfl
      · simp only [hf, if_false, Bool.false_eq_true] at hne
        exact absurd rfl hne
  · cases h

theorem execKeyStoreEraseDone_eng {s t : State} (h : execKeyStoreEraseDone s = .next t) : t.eng = s.eng := by
  obtain ⟨-, rfl⟩ | ⟨-, rfl⟩ := guarded_eq_next h
  · exact (provisioned_eng _).trans rfl
  · rfl

theorem execResetRelease_eng {pins : FusePins} {s t : State} (h : execResetRelease pins s = .next t) : t.eng = s.eng := by
  obtain ⟨-, rfl⟩ | ⟨-, rfl⟩ := guarded_eq_next h
  · rfl
  · rfl

theorem execDmAck_eng {s t : State} (h : execDmAck s = .next t) : t.eng = s.eng := by
  obtain ⟨-, rfl⟩ | ⟨-, rfl⟩ := guarded_eq_next h
  · rfl
  · rfl

/-! ## Every command -/

/-- The rows that may lock the engine. -/
def mayLock (c : Instr) : Prop := (envelopeRow c).isSome = true ∨ (∃ n, c = .tamperInput n) ∨ c = .handshakeFault

/-- The edges of the table (01 R26), each with its cause. -/
def EngineEdge (c : Instr) (s t : State) : Prop :=
  (s.eng = .off ∧ t.eng = .selftest ∧ ∃ r, c = .sensorRecord r ∧ s.inReset = false ∧ railsIn r = true)
  ∨ (s.eng = .selftest ∧ (t.eng = .up ∨ t.eng = .safe) ∧ ∃ r, c = .selftestComplete r)
  ∨ (s.eng = .up ∧ t.eng = .safe ∧ ((∃ p e, c = .fwLoad p ∧ Handles s p 0x12 e) ∨ c = .instructionStoreError .double
        ∨ ∃ tag r s1 p e, c = .memErrorResponse tag ∧ takeReq s tag = some (r, s1) ∧ r.owner = .crit
            ∧ s.sec.reading = some p ∧ envelopeAt s p = some e ∧ envCmd e = 0x12))
  ∨ ((s.eng = .up ∨ s.eng = .safe) ∧ t.eng = .selftest ∧ c = .quiesceDone ∧ s.quiesce = .drain ∧ inRun s = false)
  ∨ (s.eng ≠ .off ∧ t.eng = .locked ∧ s.sec.policy ≠ 0 ∧ mayLock c)
  ∨ (t.eng = .off ∧ ((∃ n, c = .resetAssert n) ∨ c = .powerOff))

theorem edge_of_crit {code : Nat} {p : CritPath} {c : Instr} {s t : State} (hrow : envelopeRow c = some (code, p))
    (hc : code = 0x12 → c = .fwLoad p) (h : crit code p s = .next t) (hne : t.eng ≠ s.eng) : EngineEdge c s t := by
  obtain ⟨hoff, ⟨hl, hpol⟩ | ⟨hsafe, hup, hcode, e, he⟩⟩ := crit_eng h hne
  · exact .inr (.inr (.inr (.inr (.inl ⟨hoff, hl, hpol, .inl (by simp [hrow])⟩))))
  · exact .inr (.inr (.inl ⟨hup, hsafe, .inl ⟨p, e, hc hcode, he⟩⟩))

theorem exec_engineEdge {c : Instr} {s t : State} (h : exec c s = .next t) (hne : t.eng ≠ s.eng) : EngineEdge c s t := by
  have hw := wf_of_exec_next h
  cases hi : onlyWorks c with
  | true => exact absurd (eng_of_answers (exec_answers hi hw s) h) hne
  | false =>
    cases c
    case ctxCreate p => exact edge_of_crit rfl (by simp) h hne
    case ctxDestroy p => exact edge_of_crit rfl (by simp) h hne
    case ctxClass p => exact edge_of_crit rfl (by simp) h hne
    case ctxMode p => exact edge_of_crit rfl (by simp) h hne
    case ctxWindows p => exact edge_of_crit rfl (by simp) h hne
    case ctxRegulate p => exact edge_of_crit rfl (by simp) h hne
    case disabledMap p => exact edge_of_crit rfl (by simp) h hne
    case selftestReq p => exact edge_of_crit rfl (by simp) h hne
    case fwLoad p => exact edge_of_crit rfl (fun _ => rfl) h hne
    case keyLoad p => exact edge_of_crit rfl (by simp) h hne
    case keyErase p => exact edge_of_crit rfl (by simp) h hne
    case alarmPolicy p => exact edge_of_crit rfl (by simp) h hne
    case keyStoreEraseDone => exact absurd (execKeyStoreEraseDone_eng h) hne
    case packetWrite p => exact absurd (eng_of_answers (execPacketWrite_answers p s) h) hne
    case packetSelect p => exact absurd (eng_of_answers (execPacketSelect_answers p s) h) hne
    case memReadResponse tag data => exact absurd (execMemReadResponse_eng h) hne
    case memWriteResponse tag => exact absurd (execMemWriteResponse_eng h) hne
    case memErrorResponse tag =>
      obtain ⟨hsafe, hup, r, s1, p, e, hr⟩ := execMemErrorResponse_eng h hne
      exact .inr (.inr (.inl ⟨hup, hsafe, .inr (.inr ⟨tag, r, s1, p, e, rfl, hr⟩)⟩))
    case sensorRecord r =>
      obtain ⟨hoff, hst, hr⟩ := execSensorRecord_eng h hne
      exact .inl ⟨hoff, hst, r, rfl, hr⟩
    case timebaseStep n => exact absurd (eng_of_answers (execTimebaseStep_answers n s) h) hne
    case tamperInput n =>
      obtain ⟨hl, hpol, hoff⟩ := execTamperInput_eng h hne
      exact .inr (.inr (.inr (.inr (.inl ⟨hoff, hl, hpol, .inr (.inl ⟨n, rfl⟩)⟩))))
    case handshakeFault =>
      cases h
      obtain ⟨hl, hpol, hoff⟩ := (violation_eng s 3).resolve_left hne
      exact .inr (.inr (.inr (.inr (.inl ⟨hoff, hl, hpol, .inr (.inr rfl)⟩))))
    case resetAssert n => exact .inr (.inr (.inr (.inr (.inr ⟨execResetAssert_eng h hne, .inl ⟨n, rfl⟩⟩))))
    case resetRelease pins => exact absurd (execResetRelease_eng h) hne
    case powerOff =>
      cases h
      exact .inr (.inr (.inr (.inr (.inr ⟨rfl, .inr rfl⟩))))
    case provisionSlotWrite slot key perm floor => exact absurd (provisionOne_eng h) hne
    case provisionSlotZero slot => exact absurd (provisionOne_eng h) hne
    case dmAck => exact absurd (execDmAck_eng h) hne
    case quiesceDone =>
      obtain ⟨hs, ht, hq, hrun⟩ := execQuiesceDone_eng h hne
      exact .inr (.inr (.inr (.inl ⟨hs, ht, rfl, hq, hrun⟩)))
    case selftestComplete r =>
      obtain ⟨hs, ht⟩ := execSelftestComplete_eng h hne
      exact .inr (.inl ⟨hs, ht, r, rfl⟩)
    case instructionStoreError k =>
      obtain ⟨rfl, hup, hsafe⟩ := execInstructionStoreError_eng h hne
      exact .inr (.inr (.inl ⟨hup, hsafe, .inr (.inl rfl)⟩))
    case hostBridgeResponse id o => exact absurd (execHostBridgeResponse_eng h) hne
    case selftestKeyStoreStepEnd => exact absurd (execSelftestKeyStoreStepEnd_eng h) hne
    all_goals cases hi

/-- Settles O7: the rows that move the engine's state are those of the table. -/
theorem engineTransitions : Obligations.EngineTransitions := by
  intro c s t h hne
  obtain ⟨hs, ht, hc⟩ | ⟨hs, ht | ht, hc⟩ | ⟨hs, ht, hc⟩ | ⟨hs | hs, ht, hc, hq, hrun⟩ | ⟨hs, ht, hpol, hc⟩ | ⟨ht, hc⟩ :=
    exec_engineEdge h hne
  · simpa only [hs, ht] using hc
  · simpa only [hs, ht] using hc
  · simpa only [hs, ht] using hc
  · simpa only [hs, ht] using hc
  · simpa only [hs, ht] using ⟨hc, hq, hrun⟩
  · simpa only [hs, ht] using ⟨hc, hq⟩
  · rw [ht] at hne ⊢
    cases he : s.eng with
    | off => exact absurd he hs
    | locked => exact absurd he.symm hne
    | selftest | up | safe => exact ⟨hpol, hc⟩
  · rw [ht] at hne ⊢
    cases he : s.eng with
    | off => exact absurd he.symm hne
    | selftest | up | safe | locked => exact hc

end Sys2Proof.Proofs
end

section
/-!
PROOFS. What works in READY, RUN and SAFE alone: such a row changes nothing in OFF, SELFTEST and LOCKED (01 R26, R28).
-/
namespace Sys2Proof.Proofs

open Sys2Proof Sys2Proof.Machine

/-! ## The shapes -/

section
variable {s : State} (hl : s.live = false)
include hl

theorem up_of_stopped : s.up = false := by
  simp only [State.live, Bool.or_eq_false_iff] at hl
  exact hl.1

theorem working_stopped {b : Bool} {f : State → State} : working s b f = .next s := working_false (by simp [hl])

theorem running_stopped {b : Bool} {f : State → State} : running s b f = .next s :=
  running_false (by simp [up_of_stopped hl])

theorem dealing_stopped {c : CtxId} {op : Nat} {p : Job → Bool} {f : State → Job → State} :
    dealing s c op p f = .next s := by
  unfold dealing
  split
  · rfl
  · exact running_stopped hl

theorem dealChecked_stopped {c : CtxId} {op : Nat} {p : Job → Bool} {ck : Job → Option Nat}
    {g f : State → Job → State} : dealChecked s c op p ck g f = .next s := by
  unfold dealChecked
  split
  · rfl
  · split
    · exact running_stopped hl
    · exact dealing_stopped hl

theorem handling_stopped {chip : BitVec 16} {engine : Bool} {kind : BitVec 4} {f : State → RxMsg → State} :
    handling s chip engine kind f = .next s := by
  unfold handling
  split
  · rfl
  · exact running_stopped hl

theorem framed_stopped {kind : Nat} {frame : BitVec 128} {g : State → TxStream → CtlFrame → State} :
    framed s kind frame g = .next s := by
  unfold framed
  dsimp only
  split
  · rfl
  · exact running_stopped hl

theorem settle_stopped : settle s = s := by simp [settle, hl]

end

/-! ## The rows -/

/-- The row's meaning is the work of a unit that stands still outside READY, RUN and SAFE. -/
def needsLive : Instr → Bool
  | .ctxCreate _ | .ctxDestroy _ | .ctxClass _ | .ctxMode _ | .ctxWindows _ | .ctxRegulate _ | .disabledMap _
  | .selftestReq _ | .fwLoad _ | .keyLoad _ | .keyErase _ | .alarmPolicy _ | .keyStoreEraseDone | .ctxEnable _ _
  | .ctxDisable _ _ | .ctxReset _ _ | .clearAcct _ _ | .ringConfigWrite _ _ _ | .ctxGroupWrite _ _ _
  | .schedQuantumWrite _ | .tdcClear | .clearEng | .clearCtx _ | .tableSnapshot _ | .spillPeerCfgWrite _ _
  | .corePortRestore _ _ | .dmaChannelEnable _ _ | .dmaChannelDisable _ _ | .dmaAbort _ _ | .latchedPairRead _
  | .registerWrite _ _ _ | .basolBlockReceive _ _ | .linkStatusReport _ _ | .memReadResponse _ _ | .memWriteResponse _
  | .memErrorResponse _ | .beatWindowEnd _ | .currentGrant _ _ | .fillerLimitExpire | .rampStep _ | .sensorRecord _
  | .sensorStale | .timebaseStep _ | .tamperInput _ | .handshakeFault | .resetAssert _ | .resetRelease _ | .powerOff
  | .provisionSlotWrite _ _ _ _ | .provisionSlotZero _ | .selftestComplete _ | .instructionStoreError _
  | .hostBridgeResponse _ _ | .selftestKeyStoreStepEnd => false
  | _ => true

theorem exec_stopped {i : Instr} (hi : needsLive i = true) (hw : i.wf = true) {s : State} (hl : s.live = false) :
    exec i s = .next s := by
  cases i
  case tileRoute | tileCombine | tileReverse | seqJoin | seqLeave | stepBuild | modelLoad | modelUnpin | modelPin
      | modelForget | fence | epochWaitOwner | epochWaitWord | tdescCreate | tdescDestroy =>
    simp only [exec, execTileRoute, execTileCombine, execTileReverse, execSeqJoin, execSeqLeave, execStepBuild,
      execModelLoad, execModelUnpin, execModelPin, execModelForget, execFence, execEpochWaitOwner, execEpochWaitWord,
      execTdescCreate, execTdescDestroy, dealing_stopped hl]
  case xformCopy | gather | scatterAcc | transpose | expand | dmaCopy | dmaFill | dmaCompare =>
    simp only [exec, execXformCopy, execGather, execScatterAcc, execTranspose, execExpand, moverDescriptor, execDmaCopy,
      execDmaFill, execDmaCompare, dmaDescriptor, dealChecked_stopped hl]
  case drainEnd | dmaBurstIssue | doorbellPoll | doorbellReadDone | descriptorFetch | regulatorWindow | endOfPacketMark
      | coreTimeout | groupReduce | statTimeout =>
    simp only [exec, execDrainEnd, execDmaBurstIssue, execDoorbellPoll, execDoorbellReadDone, execDescriptorFetch,
      execRegulatorWindow, execEndOfPacketMark, execCoreTimeout, execGroupReduce, execStatTimeout, working_stopped hl]
  case schedPick | schedQuantumExpire | modeChangeApply | weightSetLoad | packetWrite =>
    simp only [exec, execSchedPick, execSchedQuantumExpire, execModeChangeApply, execWeightSetLoad, execPacketWrite,
      running_stopped hl]
  case spore | result | abandon | statUp | statDown | readReq | readData =>
    simp only [exec, execSpore, execResult, execAbandon, execStatUp, execStatDown, execReadReq, execReadData,
      handling_stopped hl]
  case ack | nak | credit | refuse => simp only [exec, execAck, execNak, execCredit, execRefuse, framed_stopped hl]
  case descriptorArrival c ds =>
    change execDescriptorArrival c ds s = _
    unfold execDescriptorArrival
    rw [if_pos hw]
    cases ds with
    | none => simp only [working_stopped hl]
    | some ds =>
      dsimp only
      split
      · rfl
      · simp only [working_stopped hl]
  case drainFlit port tag data =>
    change execDrainFlit port tag data s = _
    rw [execDrainFlit, if_pos hw, working_stopped hl]
  case paceCredit | dmAck | quiesceDone =>
    simp [exec, execPaceCredit, execDmAck, execQuiesceDone, guarded, hl, up_of_stopped hl]
  case fenceRelease | epochWaitPoll | tdescFree | preemptLimitExpire | tileStageBegin | tokenPrenorm | tokenScore
      | tokenSelect | hotsetMissFetch | bucketing | courseStart | packetSelect | feedFlitGrant | tokenCombine | tileCommit
      | basolBlockSend | readRetryTimer | ackTimeout | lostTimeout | streamEndTimeout | sendStateRelease
      | inboundStreamRelease | creditRepeat =>
    simp only [exec, execFenceRelease, execEpochWaitPoll, execTdescFree, execPreemptLimitExpire, execTileStageBegin,
      execTokenPrenorm, execTokenScore, execTokenSelect, execHotsetMissFetch, execBucketing, execCourseStart,
      execPacketSelect, execFeedFlitGrant, execTokenCombine, execTileCommit, execBasolBlockSend, execReadRetryTimer,
      execAckTimeout, execLostTimeout, execStreamEndTimeout, execSendStateRelease, execInboundStreamRelease,
      execCreditRepeat, working_stopped hl, running_stopped hl, finish_self]
    repeat' split
    all_goals rfl
  all_goals cases hi

/-! ## OFF -/

theorem crit_of_off {code : Nat} {p : CritPath} {s : State} (ho : s.eng = .off) : crit code p s = .next s := by
  simp [crit, handled, State.on, ho]

theorem violation_off {s : State} {src : Fin 4} (ho : s.eng = .off) : violation s src = s := by simp [violation, ho]

/-- Settles O9: in OFF every condition of a row outside the list fails. -/
theorem offDoesNothing : Obligations.OffDoesNothing := by
  intro c s t ho hr h
  have hw := wf_of_exec_next h
  have hl : s.live = false := by simp [State.live, ho]
  suffices hs : exec c s = .next s by
    rw [hs] at h
    cases h
    rfl
  cases hn : needsLive c with
  | true => exact exec_stopped hn hw hl
  | false =>
    have hc : (needsLive c || reachesOff c) = false := by rw [hn, hr]; rfl
    cases c
    case ctxCreate | ctxDestroy | ctxClass | ctxMode | ctxWindows | ctxRegulate | disabledMap | selftestReq | fwLoad
        | keyLoad | keyErase | alarmPolicy => exact crit_of_off ho
    case basolBlockReceive port block =>
      change execBasolBlockReceive port block s = _
      unfold execBasolBlockReceive
      rw [if_pos hw]
      exact guarded_false (by simp [State.on, ho])
    case tamperInput n =>
      change execTamperInput n s = _
      unfold execTamperInput
      rw [if_pos hw]
      simp [guarded, violation_off ho]
    case handshakeFault => simp [exec, execHandshakeFault, violation_off ho]
    case rampStep draw =>
      simp only [exec, execRampStep]
      split
      · rfl
      · exact guarded_false (by simp [State.on, ho])
    case linkStatusReport | beatWindowEnd | currentGrant | fillerLimitExpire | sensorStale | provisionSlotWrite
        | provisionSlotZero | selftestComplete | instructionStoreError | selftestKeyStoreStepEnd =>
      simp [exec, execLinkStatusReport, execBeatWindowEnd, execCurrentGrant, execFillerLimitExpire, execSensorStale,
        execProvisionSlotWrite, execProvisionSlotZero, provisionOne, execSelftestComplete, execInstructionStoreError,
        execSelftestKeyStoreStepEnd, guarded, State.on, ho]
    all_goals cases hc

end Sys2Proof.Proofs
end

section
/-!
PROOFS. Blocks and control frames read back as they were built (07 R158, R159).
-/
namespace Sys2Proof.Proofs

open Sys2Proof Sys2Proof.Machine

/-! ## Bytes -/

@[simp] theorem length_leBytes (k n : Nat) : (leBytes k n).length = k := by
  induction k generalizing n with
  | zero => rfl
  | succ k ih => simp [leBytes, ih]

theorem leNat_leBytes (k n : Nat) : leNat (leBytes k n) = n % 256 ^ k := by
  induction k generalizing n with
  | zero => simp [leBytes, leNat, Nat.mod_one]
  | succ k ih => rw [leBytes, leNat, ih, BitVec.toNat_ofNat, pow_succ' 256 k, Nat.mod_mul]

/-- What lies above the bytes taken does not count. -/
theorem leBytes_mod (k n : Nat) : leBytes k (n % 256 ^ k) = leBytes k n := by
  induction k generalizing n with
  | zero => rfl
  | succ k ih =>
    rw [leBytes, leBytes, pow_succ', Nat.mod_mul_right_div_self, ih]
    congr 1
    exact BitVec.eq_of_toNat_eq (by simp)

theorem leNat_lt (bs : List Byte) : leNat bs < 2 ^ (8 * bs.length) := by
  induction bs with
  | nil => simp [leNat]
  | cons b bs ih =>
    have hb := b.isLt
    have hpow : 2 ^ (8 * (b :: bs).length) = 256 * 2 ^ (8 * bs.length) := by
      rw [List.length_cons, Nat.mul_add, pow_add, Nat.mul_comm]
      norm_num
    rw [leNat, hpow]
    omega

/-! ## The CRC is of 32 bits -/

theorem crcShift_lt (n : Nat) {c : Nat} (h : c < 2 ^ (32 + n)) : crcShift n c < 2 ^ 32 := by
  induction n generalizing c with
  | zero => exact h
  | succ n ih =>
    have hhalf : c >>> 1 < 2 ^ (32 + n) := by
      rw [Nat.shiftRight_eq_div_pow]
      exact Nat.div_lt_of_lt_mul (by rw [← pow_add]; exact lt_of_lt_of_eq h (by ring_nf))
    have hpoly : 0x82F63B78 < 2 ^ (32 + n) :=
      lt_of_lt_of_le (by norm_num) (Nat.pow_le_pow_right (by norm_num) (Nat.le_add_right 32 n))
    unfold crcShift
    split
    · exact ih (Nat.xor_lt_two_pow hhalf hpoly)
    · exact ih hhalf

theorem crc32c_lt (bs : List Byte) : crc32c bs < 2 ^ 32 := by
  have hle (m : Nat) (h : m ≤ 32 + 8 * bs.length) : 2 ^ m ≤ 2 ^ (32 + 8 * bs.length) :=
    Nat.pow_le_pow_right (by norm_num) h
  have hbs : leNat bs < 2 ^ (32 + 8 * bs.length) := lt_of_lt_of_le (leNat_lt bs) (hle _ (by omega))
  have hones : 0xFFFFFFFF < 2 ^ (32 + 8 * bs.length) := lt_of_lt_of_le (by norm_num) (hle 32 (by omega))
  exact Nat.xor_lt_two_pow (crcShift_lt _ (Nat.xor_lt_two_pow hbs hones)) (by norm_num)

/-! ## Control frames -/

theorem b2n_le (b : Bool) : b2n b ≤ 1 := by cases b <;> decide

theorem b2n_beq_one (b : Bool) : (b2n b == 1) = b := by cases b <;> rfl

theorem selfWord_eq (s : State) : selfWord s = s.fuse.chipId.toNat + b2n s.fuse.engineId * 2 ^ 16 := by
  rw [selfWord, Nat.shiftLeft_eq]

theorem reportedLoad_lt (s : State) : reportedLoad s < 2 ^ 16 := by
  rw [reportedLoad]
  omega

/-- The first 12 bytes of a block or a frame: the fields that both have, three bits and two fields of 16 bits. -/
def headWord (chip self low kind gen seq c l : Nat) : Nat :=
  chip + self * 65536 + low * 131072 + kind * 1048576 + gen * 16777216 + seq * 4294967296 + c * 18446744073709551616
    + l * 1208925819614629174706176

section
variable {chip self low kind gen seq c l : Nat} (hchip : chip < 65536) (hself : self ≤ 1) (hlow : low < 8)
  (hkind : kind < 16) (hgen : gen < 256) (hseq : seq < 4294967296) (hc : c < 65536) (hl : l < 65536)
include hchip hself hlow hkind hgen hseq hc hl

theorem headWord_lt : headWord chip self low kind gen seq c l < 79228162514264337593543950336 := by
  unfold headWord
  omega

/-- Each field reads back, whatever stands above the 12 bytes. -/
theorem headWord_fields {w crc : Nat} (hw : w = headWord chip self low kind gen seq c l + crc * 79228162514264337593543950336) :
    w % 65536 = chip ∧ w / 65536 % 2 = self ∧ w / 131072 % 8 = low ∧ w / 1048576 % 16 = kind ∧ w / 16777216 % 256 = gen
      ∧ w / 4294967296 % 4294967296 = seq ∧ w / 18446744073709551616 % 65536 = c
      ∧ w / 1208925819614629174706176 % 65536 = l := by
  unfold headWord at hw
  refine ⟨?_, ?_, ?_, ?_, ?_, ?_, ?_, ?_⟩ <;> omega

end

/-! ## Control frames -/

theorem frameBody_eq (s : State) (kind : Nat) (engine : Bool) (gen : BitVec 8) (seq : BitVec 32) (credits : Nat) :
    frameBody s kind engine gen seq credits
      = headWord s.fuse.chipId.toNat (b2n s.fuse.engineId) (b2n engine) kind gen.toNat seq.toNat credits (reportedLoad s) := by
  simp only [frameBody, pack, List.foldl, Nat.shiftLeft_eq, selfWord_eq, headWord]
  norm_num

/-- 12 bytes and their CRC. -/
def withCrc (body : Nat) : Nat := body + crc32c (leBytes 12 body) * 79228162514264337593543950336

/-- A number of 12 bytes with 4 bytes above it. -/
theorem withCrc_parts {b c w : Nat} (hb : b < 79228162514264337593543950336) (hc : c < 4294967296)
    (hw : w = b + c * 79228162514264337593543950336) :
    w < 340282366920938463463374607431768211456 ∧ w % 79228162514264337593543950336 = b
      ∧ w / 79228162514264337593543950336 % 4294967296 = c := by
  omega

section
variable {body : Nat} (hb : body < 79228162514264337593543950336)
include hb

theorem withCrc_lt : withCrc body < 340282366920938463463374607431768211456 := (withCrc_parts hb (crc32c_lt _) rfl).1

theorem toNat_withCrc : (BitVec.ofNat 128 (withCrc body)).toNat = withCrc body :=
  (BitVec.toNat_ofNat ..).trans (Nat.mod_eq_of_lt (withCrc_lt hb))

theorem frameGood_withCrc : frameGood (BitVec.ofNat 128 (withCrc body)) = true := by
  obtain ⟨-, hlow, hcrc⟩ := withCrc_parts hb (crc32c_lt (leBytes 12 body)) rfl
  have hbytes : leBytes 12 (withCrc body) = leBytes 12 body := by
    have h := leBytes_mod 12 (withCrc body)
    rw [← h]
    exact congrArg (leBytes 12) hlow
  rw [frameGood, toNat_withCrc hb, hbytes, beq_iff_eq, rf, fld, Nat.shiftRight_eq_div_pow]
  exact hcrc.symm

end

section
variable (s : State) {kind credits : Nat} (engine : Bool) (gen : BitVec 8) (seq : BitVec 32) (hk : kind < 16)
  (hc : credits < 65536)
include hk hc

theorem frameBody_lt : frameBody s kind engine gen seq credits < 79228162514264337593543950336 := by
  have heng := b2n_le engine
  rw [frameBody_eq]
  exact headWord_lt s.fuse.chipId.isLt (b2n_le _) (by omega) hk gen.isLt seq.isLt hc (reportedLoad_lt s)

theorem readFrame_withCrc : readFrame (BitVec.ofNat 128 (withCrc (frameBody s kind engine gen seq credits)))
    = ⟨s.fuse.chipId, s.fuse.engineId, kind, gen, seq, credits, BitVec.ofNat 16 (reportedLoad s)⟩ := by
  have heng := b2n_le engine
  have hload := reportedLoad_lt s
  have hword := congrArg (· + crc32c (leBytes 12 (frameBody s kind engine gen seq credits)) * 79228162514264337593543950336)
    (frameBody_eq s kind engine gen seq credits)
  obtain ⟨fchip, fself, -, fkind, fgen, fseq, fcredits, fload⟩ := headWord_fields s.fuse.chipId.isLt (b2n_le _)
    (low := b2n engine) (by omega) hk gen.isLt seq.isLt hc hload hword
  have hnat := toNat_withCrc (frameBody_lt s engine gen seq hk hc)
  simp only [readFrame, hnat, rf, rb, fld, bitAt, Nat.shiftRight_eq_div_pow, CtlFrame.mk.injEq]
  refine ⟨BitVec.eq_of_toNat_eq ((BitVec.toNat_ofNat ..).trans fchip), ?_, fkind,
    BitVec.eq_of_toNat_eq ((BitVec.toNat_ofNat ..).trans ?_), BitVec.eq_of_toNat_eq ((BitVec.toNat_ofNat ..).trans ?_),
    fcredits, BitVec.eq_of_toNat_eq ((BitVec.toNat_ofNat ..).trans ?_)⟩
  · exact (congrArg (· == 1) fself).trans (b2n_beq_one _)
  · exact (Nat.mod_mod _ _).trans fgen
  · exact (Nat.mod_mod _ _).trans fseq
  · exact (Nat.mod_mod _ _).trans (fload.trans (Nat.mod_eq_of_lt hload).symm)

end

/-! ## Blocks -/

theorem blockHead_eq (s : State) (t : TxStream) (kind : BitVec 4) (first last : Bool) (n : Nat) :
    blockHead s t kind first last n
      = headWord s.fuse.chipId.toNat (b2n s.fuse.engineId) (b2n t.engine + 2 * b2n first + 4 * b2n last) kind.toNat
          t.gen.toNat t.next.toNat t.chip.toNat n := by
  simp only [blockHead, pack, List.foldl, Nat.shiftLeft_eq, selfWord_eq, headWord]
  omega

theorem padTo_payload {payload : List Byte} (h : payload.length ≤ 496) :
    padTo payload payloadMax = payload ++ zeros (496 - payload.length) := by
  rw [padTo, payloadMax, List.take_of_length_le]
  simp only [zeros, List.length_append, List.length_replicate]
  omega

theorem length_padTo_payload {payload : List Byte} (h : payload.length ≤ 496) : (padTo payload payloadMax).length = 496 := by
  rw [padTo_payload h]
  simp only [zeros, List.length_append, List.length_replicate]
  omega

/-- The three bits from bit 17 on. -/
theorem lowBits {w e f l : Nat} (he : e ≤ 1) (hf : f ≤ 1) (h : w / 131072 % 8 = e + 2 * f + 4 * l) :
    w / 131072 % 2 = e ∧ w / 262144 % 2 = f ∧ w / 524288 % 2 = l := by
  omega

/-- The payload's length needs 9 of its 16 bits. -/
theorem count_low {w n : Nat} (h : w / 1208925819614629174706176 % 65536 = n) (hn : n ≤ 496) :
    w / 1208925819614629174706176 % 512 = n := by
  omega

section
variable {s : State} {t : TxStream} {kind : BitVec 4} {first last : Bool} {payload bs : List Byte}
  (hlen : payload.length ≤ 496) (hbs : bs = blockBytes512 (blockHead s t kind first last payload.length) payload)
include hlen hbs

/-- The bytes of a block: its header, its CRC and its payload. -/
theorem block_parts : ∃ h c p : List Byte, bs = h ++ (c ++ p) ∧ h.length = 12 ∧ c.length = 4 ∧ p.length = 496
    ∧ leNat h = blockHead s t kind first last payload.length ∧ leNat c = crc32c (h ++ p)
    ∧ p = payload ++ zeros (496 - payload.length) := by
  have hhead : blockHead s t kind first last payload.length < 79228162514264337593543950336 := by
    have heng := b2n_le t.engine
    have hfirst := b2n_le first
    have hlast := b2n_le last
    rw [blockHead_eq]
    exact headWord_lt s.fuse.chipId.isLt (b2n_le _) (by omega) kind.isLt t.gen.isLt t.next.isLt t.chip.isLt (by omega)
  refine ⟨_, _, _, hbs.trans (List.append_assoc ..), length_leBytes .., length_leBytes .., length_padTo_payload hlen, ?_, ?_,
    padTo_payload hlen⟩
  · exact (leNat_leBytes ..).trans (Nat.mod_eq_of_lt hhead)
  · exact (leNat_leBytes ..).trans (Nat.mod_eq_of_lt (crc32c_lt _))

theorem block_readsBack :
    bs.length = 512
    ∧ readBlock bs = ⟨s.fuse.chipId, s.fuse.engineId, first, last, kind, t.gen, t.next, payload⟩
    ∧ rb (leAt bs 0 12) 0 17 = t.engine ∧ rf (leAt bs 0 12) 8 15 0 = t.chip.toNat
    ∧ (1 ≤ kind.toNat → kind.toNat ≤ 7 → blockGood bs = true) := by
  obtain ⟨h, c, p, hparts, hh, hc, hp, hhead, hcrc, hpay⟩ := block_parts hlen hbs
  have heng := b2n_le t.engine
  have hfirst := b2n_le first
  have hlast := b2n_le last
  obtain ⟨fchip, fself, flow, fkind, fgen, fseq, fdst, fcount⟩ := headWord_fields (crc := 0) s.fuse.chipId.isLt (b2n_le _)
    (low := b2n t.engine + 2 * b2n first + 4 * b2n last) (by omega) kind.isLt t.gen.isLt t.next.isLt t.chip.isLt
    (l := payload.length) (by omega) (by rw [Nat.zero_mul, Nat.add_zero, ← blockHead_eq])
  obtain ⟨fe, ff, fl⟩ := lowBits heng hfirst flow
  have hat : leAt bs 0 12 = blockHead s t kind first last payload.length := by
    rw [leAt, slice, List.drop_zero, hparts, List.take_left' hh, hhead]
  have hat12 : leAt bs 12 4 = crc32c (h ++ p) := by
    rw [leAt, slice, hparts, List.drop_left' hh, List.take_left' hc, hcrc]
  have hrest : bs.drop 16 = p := by
    rw [hparts, ← List.append_assoc]
    exact List.drop_left' (by rw [List.length_append, hh, hc])
  have hread : readBlock bs = ⟨s.fuse.chipId, s.fuse.engineId, first, last, kind, t.gen, t.next, payload⟩ := by
    simp only [readBlock, hat, rf, rb, fld, bitAt, Nat.shiftRight_eq_div_pow, slice, hrest, Blk.mk.injEq]
    refine ⟨BitVec.eq_of_toNat_eq ((BitVec.toNat_ofNat ..).trans fchip), (congrArg (· == 1) fself).trans (b2n_beq_one _),
      (congrArg (· == 1) ff).trans (b2n_beq_one _), (congrArg (· == 1) fl).trans (b2n_beq_one _),
      BitVec.eq_of_toNat_eq ((BitVec.toNat_ofNat ..).trans ((Nat.mod_mod _ _).trans fkind)),
      BitVec.eq_of_toNat_eq ((BitVec.toNat_ofNat ..).trans ((Nat.mod_mod _ _).trans fgen)),
      BitVec.eq_of_toNat_eq ((BitVec.toNat_ofNat ..).trans ((Nat.mod_mod _ _).trans fseq)), ?_⟩
    rw [hpay]
    exact List.take_left' (count_low fcount hlen).symm
  refine ⟨by rw [hparts]; simp only [List.length_append, hh, hc, hp], hread, ?_, ?_, fun h1 h7 => ?_⟩
  · rw [hat, rb, bitAt, Nat.shiftRight_eq_div_pow]
    exact (congrArg (· == 1) fe).trans (b2n_beq_one _)
  · rw [hat, rf, fld, Nat.shiftRight_eq_div_pow]
    exact fdst
  · rw [blockGood, hread, hat12, hrest, hparts, List.take_left' hh]
    simp [h1, h7]

end

/-- Settles O54: every field stands in bits of its own, and the CRC in the four bytes after them. -/
theorem blocksAndFramesReadBack : Obligations.BlocksAndFramesReadBack := by
  refine ⟨fun s t kind first last payload bs hlen hbs => block_readsBack hlen hbs,
    fun s port chip engine gen kind seq credits hk hc => ?_⟩
  have hbody := frameBody_lt s engine gen seq hk hc
  refine ⟨withCrc (frameBody s kind engine gen seq credits), withCrc_lt hbody, ?_, frameGood_withCrc hbody,
    readFrame_withCrc s engine gen seq hk hc⟩
  rw [sendFrame, sendTransfer, Nat.shiftLeft_eq]
  rfl

end Sys2Proof.Proofs
end

section
/-!
PROOFS. What stands still in LOCKED (16 R363, R364).
-/
namespace Sys2Proof.Proofs

open Sys2Proof Sys2Proof.Machine

/-! ## The relation -/

/-- The units' part of the state is as it was, but for responses taken and REFUSE frames sent. -/
structure Halted (s t : State) : Prop where
  eng : t.eng = s.eng := by rfl
  ctxs : t.ctxs = s.ctxs := by rfl
  tiles : t.tiles = s.tiles := by rfl
  queues : t.queues = s.queues := by rfl
  banks : t.banks = s.banks := by rfl
  seqs : t.seqs = s.seqs := by rfl
  owner : t.owner = s.owner := by rfl
  dir : t.dir = s.dir := by rfl
  hotq : t.hotq = s.hotq := by rfl
  gather : t.gather = s.gather := by rfl
  dma : t.dma = s.dma := by rfl
  peers : t.peers = s.peers := by rfl
  tx : t.tx = s.tx := by rfl
  rx : t.rx = s.rx := by rfl
  sched : t.sched = s.sched := by rfl
  st : t.st = { s.st with stepFrom := t.st.stepFrom } := by rfl
  memWait : t.memWait = s.memWait := by rfl
  frames : t.frames = s.frames := by rfl
  rowHolds : t.rowHolds = s.rowHolds := by rfl
  serving : t.serving = s.serving := by rfl
  got : t.got = s.got := by rfl
  memOut : ∀ r ∈ t.memOut, r ∈ s.memOut := by exact fun _ h => h
  hostOut : ∀ h ∈ t.hostOut, ∃ k ∈ s.hostOut, h.id = k.id ∧ h.addr = k.addr ∧ h.len = k.len ∧ h.write = k.write
    ∧ h.owner = k.owner := by exact fun h hh => ⟨h, hh, rfl, rfl, rfl, rfl, rfl⟩
  outbox : t.outbox = s.outbox ∨ ∃ (port : Fin 8) (chip : BitVec 16) (frame : Nat),
    t.outbox = s.outbox ++ [.transfer port chip false true true (leBytes 64 frame)]
      ∧ (readFrame (BitVec.ofNat 128 frame)).kind = 4 := by exact .inl rfl

theorem Halted.refl (s : State) : Halted s s := {}

/-- The answer's next state, when there is one, stands still. -/
def HaltedRes (s : State) (r : Res) : Prop := ∀ t, r = .next t → Halted s t

theorem haltedRes_self (s : State) : HaltedRes s (.next s) := by
  rintro t ⟨⟩
  exact .refl s

/-- The queue of commands is put back. -/
theorem haltedRes_finish {s t : State} (h : Halted s t) : HaltedRes s (finish s t) := by
  rintro u ⟨⟩
  exact { h with }

theorem haltedRes_guarded {s : State} {b : Bool} {f : State → State} (h : b = true → Halted s (f s)) :
    HaltedRes s (guarded s b f) := by
  refine haltedRes_finish ?_
  split
  · rename_i hb
    exact h hb
  · exact .refl s

/-! ## The rows that change something -/

theorem setupError_halted (s : State) : Halted s (setupError s) := {}

section
variable {s : State} (hl : s.eng = .locked)
include hl

theorem live_of_locked : s.live = false := by simp [State.live, hl]

theorem crit_of_locked {code : Nat} {p : CritPath} : crit code p s = .next s := by simp [crit, handled, hl]

theorem haltedRes_crit (code : Nat) (p : CritPath) : HaltedRes s (crit code p s) := by
  rw [crit_of_locked hl]
  exact haltedRes_self s

theorem writeReg_halted (o w : Nat) (en : BitVec 4) : Halted s (writeReg s o w en) := by
  unfold writeReg
  simp only [live_of_locked hl, Bool.false_and, Bool.false_eq_true, if_false]
  split <;> exact setupError_halted s

omit hl in
theorem readReg_halted (o : Nat) : Halted s (readReg s o) := by
  unfold readReg
  split
  · rename_i r _
    split
    · cases r <;> exact {}
    · exact setupError_halted s
  · exact setupError_halted s

theorem violation_halted (src : Fin 4) : Halted s (violation s src) := by
  simp only [violation, hl, beq_self_eq_true, if_true, ite_self]
  rw [if_neg (by decide)]
  exact {}

theorem testOor_halted {u : State} (hu : Halted s u) (b : Bool) : Halted s (testOor u b) := by
  rw [testOor, hu.eng, hl]
  exact hu

omit hl in
theorem publishRecord_halted (r : SensorRec) : Halted s (publishRecord s r) := {}

omit hl in
/-- A provisioning write acts on the key slots alone. -/
theorem provision_eq (u : State) (w : ProvWrite) : ∃ ks, provision u w = { u with slots := ks } := by
  cases w <;> exact ⟨_, rfl⟩

omit hl in
theorem foldl_provision_eq (ws : List ProvWrite) (u : State) : ∃ ks, ws.foldl provision u = { u with slots := ks } := by
  induction ws generalizing u with
  | nil => exact ⟨u.slots, rfl⟩
  | cons w ws ih =>
    obtain ⟨ks, hks⟩ := provision_eq u w
    obtain ⟨ks', hks'⟩ := ih { u with slots := ks }
    exact ⟨ks', by rw [List.foldl_cons, hks, hks']⟩

omit hl in
theorem provisionAll_eq (u : State) : ∃ ks, provisionAll u = { u with slots := ks, provWait := [] } := by
  obtain ⟨ks, hks⟩ := foldl_provision_eq u.provWait { u with provWait := [] }
  exact ⟨ks, hks⟩

omit hl in
theorem execKeyStoreEraseDone_halted : HaltedRes s (execKeyStoreEraseDone s) := by
  refine haltedRes_guarded fun _ => ?_
  dsimp only
  split
  · exact {}
  · obtain ⟨ks, hks⟩ := provisionAll_eq (zeroSlots { s with sec := { s.sec with erasing := false } })
    rw [hks]
    exact {}

omit hl in
theorem provisionOne_halted (w : ProvWrite) : HaltedRes s (provisionOne w s) := by
  refine haltedRes_guarded fun _ => ?_
  split
  · exact {}
  · obtain ⟨ks, hks⟩ := provision_eq s w
    rw [hks]
    exact {}

theorem execTimebaseStep_halted (n : BitVec 64) : HaltedRes s (execTimebaseStep n s) := by
  have hoff : (s.eng == .off) = false := by rw [hl]; rfl
  have hlocked : (s.eng == .locked) = true := by rw [hl]; rfl
  have hpass : passTo s n = { s with tick := n } := by
    have hlive : ({ s with tick := n } : State).live = false := live_of_locked hl
    exact if_pos (congrArg not hlive)
  refine haltedRes_finish ?_
  rw [hoff, hlocked, hpass, if_neg Bool.false_ne_true]
  split
  · exact {}
  · exact {}

theorem receiveBlock_halted (port : Fin 8) (block : List Byte) : Halted s (settle (receiveBlock s port block)) := by
  have hup : s.up = false := up_of_stopped (live_of_locked hl)
  suffices h : Halted s (receiveBlock s port block) by
    rw [settle_stopped (live_of_locked (h.eng.trans hl))]
    exact h
  unfold receiveBlock
  simp only [hup, Bool.false_eq_true, if_false]
  split
  · exact {}
  · split
    · rename_i hfirst
      have hk : (4 : Nat) < 16 := by decide
      have hc : (0 : Nat) < 65536 := by decide
      refine { outbox := .inr ⟨port, (readBlock block).chip, withCrc (frameBody (teleEng s 6 1) 4 (readBlock block).engine
        (readBlock block).gen (readBlock block).seq 0), ?_, ?_⟩ }
      · rw [sendFrame, sendTransfer, Nat.shiftLeft_eq]
        rfl
      · rw [readFrame_withCrc _ _ _ _ hk hc]
    · exact {}

/-! ## Responses -/

omit hl in
theorem taken_halted {tag : BitVec 12} : Halted s { s with memOut := s.memOut.filter fun q => q.tag != tag } :=
  { memOut := fun _ h => List.mem_of_mem_filter h }

theorem answered_locked {o : MemOwner} {f : State → State} : answered s o f = s := by
  rw [answered, live_of_locked hl, hl]
  rfl

theorem execMemReadResponse_halted (tag : BitVec 12) (data : List Byte) : HaltedRes s (execMemReadResponse tag data s) := by
  unfold execMemReadResponse
  split
  · split
    · exact haltedRes_self s
    · rename_i r s1 hreq
      obtain ⟨-, -, rfl⟩ := takeReq_eq_some hreq
      refine haltedRes_guarded fun _ => ?_
      rw [answered_locked (s := { s with memOut := s.memOut.filter fun q => q.tag != tag }) hl]
      exact taken_halted
  · rintro t ⟨⟩

theorem execMemWriteResponse_halted (tag : BitVec 12) : HaltedRes s (execMemWriteResponse tag s) := by
  unfold execMemWriteResponse
  split
  · exact haltedRes_self s
  · rename_i r s1 hreq
    obtain ⟨-, -, rfl⟩ := takeReq_eq_some hreq
    refine haltedRes_guarded fun _ => ?_
    rw [answered_locked (s := { s with memOut := s.memOut.filter fun q => q.tag != tag }) hl]
    exact taken_halted

theorem execMemErrorResponse_halted (tag : BitVec 12) : HaltedRes s (execMemErrorResponse tag s) := by
  unfold execMemErrorResponse
  split
  · exact haltedRes_self s
  · rename_i r s1 hreq
    obtain ⟨-, -, rfl⟩ := takeReq_eq_some hreq
    have hlocked : (s.eng == .locked) = true := by rw [hl]; rfl
    refine haltedRes_guarded fun _ => ?_
    dsimp only
    rw [hlocked, if_pos rfl]
    split
    · exact { taken_halted (s := s) (tag := tag) with }
    · exact taken_halted

omit hl in
/-- A host access is ended. -/
theorem hostEnded_halted (h : HostReq) : Halted s { s with hostOut := s.hostOut.filter fun k => k.id != h.id } :=
  { hostOut := fun k hk => ⟨k, List.mem_of_mem_filter hk, rfl, rfl, rfl, rfl, rfl⟩ }

omit hl in
/-- A write that lands leaves the accesses that are out but for the bytes of one. -/
theorem landHost_halted {u : State} (hu : Halted s u) (h : HostReq) : Halted s (landHost u h) := by
  refine { hu with hostOut := fun k hk => ?_ }
  obtain ⟨j, hj, rfl⟩ := List.mem_map.1 hk
  obtain ⟨i, hi, hsame⟩ := hu.hostOut j hj
  refine ⟨i, hi, ?_⟩
  split
  · exact hsame
  · exact hsame

theorem hostAnswered_locked {o : HostOwner} {f : State → State} : hostAnswered s o f = s := by
  rw [hostAnswered, live_of_locked hl, hl]
  rfl

theorem hostReturned_halted (h : HostReq) (o : HostOutcome) : Halted s (hostReturned s h o) := by
  have hend := hostEnded_halted (s := s) h
  have hkeep {u : State} (hu : Halted s u) (k : HostOwner) (f : State → State) : Halted s (hostAnswered u k f) := by
    rw [hostAnswered_locked (hu.eng.trans hl)]
    exact hu
  unfold hostReturned
  dsimp only
  split
  · refine hkeep ?_ ..
    split
    · exact landHost_halted hend h
    · exact hend
  · refine hkeep ?_ ..
    split
    · exact { hend with }
    · exact hend

end

/-! ## Every row -/

theorem exec_halted {i : Instr} (he : endsLocked i = false) {s : State} (hl : s.eng = .locked) (hw : i.wf = true) :
    HaltedRes s (exec i s) := by
  cases hn : needsLive i with
  | true =>
    rw [exec_stopped hn hw (live_of_locked hl)]
    exact haltedRes_self s
  | false =>
    have hc : (needsLive i || endsLocked i) = false := by rw [hn, he]; rfl
    have hwrite (o w : Nat) (en : BitVec 4) : HaltedRes s (finish s (writeReg s o w en)) :=
      haltedRes_finish (writeReg_halted hl o w en)
    cases i
    case ctxCreate | ctxDestroy | ctxClass | ctxMode | ctxWindows | ctxRegulate | disabledMap | selftestReq | fwLoad
        | keyLoad | keyErase | alarmPolicy =>
      exact haltedRes_crit hl _ _
    case keyStoreEraseDone => exact execKeyStoreEraseDone_halted
    case ctxEnable | ctxDisable | ctxReset | clearAcct | ringConfigWrite | ctxGroupWrite | schedQuantumWrite | tdcClear
        | clearEng | clearCtx | tableSnapshot | spillPeerCfgWrite | corePortRestore | dmaChannelEnable
        | dmaChannelDisable | dmaAbort | registerWrite => exact hwrite _ _ _
    case latchedPairRead o => exact haltedRes_finish (readReg_halted _)
    case basolBlockReceive port block =>
      change HaltedRes s (execBasolBlockReceive port block s)
      unfold execBasolBlockReceive
      rw [if_pos hw]
      exact haltedRes_guarded fun _ => receiveBlock_halted hl port block
    case linkStatusReport port r =>
      simp only [exec, execLinkStatusReport]
      refine haltedRes_guarded fun _ => ?_
      simp only [up_of_stopped (live_of_locked hl), Bool.false_eq_true, if_false]
      exact {}
    case memReadResponse tag data => exact execMemReadResponse_halted hl tag data
    case memWriteResponse tag => exact execMemWriteResponse_halted hl tag
    case memErrorResponse tag => exact execMemErrorResponse_halted hl tag
    case hostBridgeResponse id o =>
      change HaltedRes s (execHostBridgeResponse id o s)
      unfold execHostBridgeResponse
      rw [if_pos hw]
      split
      · exact haltedRes_self s
      · exact haltedRes_guarded fun _ => hostReturned_halted hl _ o
    case beatWindowEnd | instructionStoreError | selftestComplete | selftestKeyStoreStepEnd =>
      simp only [exec, execBeatWindowEnd, execInstructionStoreError, execSelftestComplete, execSelftestKeyStoreStepEnd]
      refine haltedRes_guarded fun hb => ?_
      simp [hl] at hb
    case currentGrant | fillerLimitExpire | resetRelease =>
      simp only [exec, execCurrentGrant, execFillerLimitExpire, execResetRelease]
      refine haltedRes_guarded fun _ => ?_
      exact {}
    case rampStep draw =>
      change HaltedRes s (execRampStep draw s)
      unfold execRampStep
      split
      · exact haltedRes_self s
      · exact haltedRes_guarded fun _ => {}
    case sensorRecord r =>
      change HaltedRes s (execSensorRecord r s)
      rw [execSensorRecord, hl, if_neg (by decide)]
      exact haltedRes_finish (testOor_halted hl (publishRecord_halted r) _)
    case sensorStale =>
      simp only [exec, execSensorStale]
      refine haltedRes_guarded fun _ => testOor_halted hl ?_ _
      exact {}
    case timebaseStep n => exact execTimebaseStep_halted hl n
    case tamperInput n =>
      change HaltedRes s (execTamperInput n s)
      unfold execTamperInput
      rw [if_pos hw]
      exact haltedRes_guarded fun _ => violation_halted hl 2
    case handshakeFault => exact haltedRes_finish (violation_halted hl 3)
    case provisionSlotWrite slot key perm floor => exact provisionOne_halted _
    case provisionSlotZero slot => exact provisionOne_halted _
    all_goals cases hc

/-- Settles O8: in LOCKED the rows that a unit's work makes change nothing, and of the others only the ports answer. -/
theorem lockedStandsStill : Obligations.LockedStandsStill := by
  intro c s t hl he h
  have hs := exec_halted he hl (wf_of_exec_next h) t h
  exact ⟨hs.eng.trans hl, hs.ctxs, hs.tiles, hs.queues, hs.banks, hs.seqs, hs.owner, hs.dir, hs.hotq, hs.gather, hs.dma,
    hs.peers, hs.tx, hs.rx, hs.sched, hs.st, hs.memWait, hs.frames, hs.rowHolds, hs.serving, hs.got, hs.memOut, hs.hostOut,
    hs.outbox⟩

end Sys2Proof.Proofs
end

section
/-!
PROOFS. What a request at the memory port moves: the port, chip memory and the memory regulators (15 R337, R338, 12 R287).
-/
namespace Sys2Proof.Proofs

open Sys2Proof Sys2Proof.Machine

/-- Nothing but the memory port, chip memory and the contexts' memory regulators changes. -/
def PortMoves (s t : State) : Prop :=
  (∀ d : CtxId, ∃ r, t.ctx d = { s.ctx d with regMem := r })
  ∧ t = { s with chip := t.chip, memWait := t.memWait, memOut := t.memOut, nextTag := t.nextTag, dmaLast := t.dmaLast
                 moverLast := t.moverLast, ctxs := t.ctxs }

theorem PortMoves.refl (s : State) : PortMoves s s := ⟨fun d => ⟨(s.ctx d).regMem, rfl⟩, rfl⟩

theorem PortMoves.trans {s t u : State} (h : PortMoves s t) (k : PortMoves t u) : PortMoves s u := by
  obtain ⟨hctx, ht⟩ := h
  obtain ⟨kctx, ku⟩ := k
  refine ⟨fun d => ?_, ?_⟩
  · obtain ⟨r, hr⟩ := hctx d
    obtain ⟨q, hq⟩ := kctx d
    exact ⟨q, by rw [hq, hr]⟩
  · rw [ht] at ku
    exact ku

theorem memCharge_portMoves (s : State) (c : CtxId) (n : Nat) : PortMoves s (memCharge s c n) := by
  refine ⟨fun d => ?_, rfl⟩
  rw [memCharge, modCtx_ctx]
  split
  · exact ⟨_, rfl⟩
  · exact ⟨(s.ctx d).regMem, rfl⟩

theorem issueReq_portMoves (s : State) (r : MemReq) : PortMoves s (issueReq s r) := by
  unfold issueReq
  cases r.charge with
  | none => exact ⟨fun d => ⟨(s.ctx d).regMem, rfl⟩, rfl⟩
  | some c =>
    obtain ⟨hctx, -⟩ := memCharge_portMoves s c (64 * slotsOf r.addr r.len)
    exact ⟨hctx, rfl⟩

theorem pumpMem_portMoves (n : Nat) (s : State) : PortMoves s (pumpMem n s) := by
  induction n generalizing s with
  | zero => exact .refl s
  | succ n ih =>
    unfold pumpMem
    split
    · exact .refl s
    · rename_i i r _
      have htake : PortMoves s { s with memWait := s.memWait.eraseIdx i } := ⟨fun d => ⟨(s.ctx d).regMem, rfl⟩, rfl⟩
      exact (htake.trans (issueReq_portMoves _ r)).trans (ih _)

theorem request_portMoves (s : State) (rs : List MemReq) : PortMoves s (request s rs) := by
  have hwait : PortMoves s { s with memWait := s.memWait ++ rs } := ⟨fun d => ⟨(s.ctx d).regMem, rfl⟩, rfl⟩
  exact hwait.trans (pumpMem_portMoves _ _)

theorem writeMem_portMoves (s : State) (o : MemOwner) (a : Nat) (data : List Byte) (rank : Nat) (charge : Option CtxId) :
    PortMoves s (writeMem s o a data rank charge) := request_portMoves s _

/-- What a request leaves of a context. -/
theorem PortMoves.ctx {s t : State} (h : PortMoves s t) (d : CtxId) :
    { t.ctx d with regMem := (s.ctx d).regMem } = s.ctx d := by
  obtain ⟨r, hr⟩ := h.1 d
  rw [hr]

theorem PortMoves.state {s t : State} (h : PortMoves s t) (d : CtxId) : (t.ctx d).state = (s.ctx d).state := by
  obtain ⟨r, hr⟩ := h.1 d
  rw [hr]

/-! ## The save record is written -/

theorem saveIf_ctx (left : Bool) (s : State) (c d : CtxId) : ((saveIf left s c).ctx d).state = (s.ctx d).state := by
  unfold saveIf
  split
  · unfold writeSave
    refine ((writeMem_portMoves ..).state d).trans ?_
    rw [modCtx_ctx]
    split <;> rfl
  · rfl

theorem saveIf_faultStatus (left : Bool) (s : State) (c d : CtxId) :
    ((saveIf left s c).ctx d).faultStatus = (s.ctx d).faultStatus := by
  unfold saveIf
  split
  · unfold writeSave
    obtain ⟨r, hr⟩ := (writeMem_portMoves (modCtx s c fun x => { x with
      saves := x.saves + 1, saveValid := (inProgress x).isSome, resumed := false }) (.saveWrite c _) _ _ 2 none).1 d
    refine (congrArg Ctx.faultStatus hr).trans ?_
    dsimp only
    rw [modCtx_ctx]
    split <;> rfl
  · rfl

/-- A fault of a context that is neither FREE nor FAULTED. -/
theorem faultCtx_faulted {s : State} {c : CtxId} (st : Nat) (only : Option (BitVec 32)) (hfree : (s.ctx c).state ≠ .free)
    (hfault : (s.ctx c).state ≠ .faulted) :
    ((faultCtx s c st only).ctx c).state = .faulted ∧ ((faultCtx s c st only).ctx c).faultStatus = BitVec.ofNat 8 st := by
  have hno : ((s.ctx c).state == .free || (s.ctx c).state == .faulted) = false := by simp [hfree, hfault]
  unfold faultCtx
  dsimp only
  rw [hno, if_neg Bool.false_ne_true]
  refine ⟨?_, ?_⟩
  · rw [saveIf_ctx, modCtx_ctx_self]
  · rw [saveIf_faultStatus, modCtx_ctx_self]

end Sys2Proof.Proofs
end

section
/-!
PROOFS. Descriptors at the front of the ring: those that join a unit, and those whose effect is their own (09, 10, 13).
-/
namespace Sys2Proof.Proofs

open Sys2Proof Sys2Proof.Machine

/-- What a context keeps when its front descriptor is dealt. -/
theorem dealTo_ctx_self (s : State) (c : CtxId) (u : UnitId) (j : Job) :
    (dealTo s c u j).ctx c = { s.ctx c with walker := (s.ctx c).walker.drop 1, dealt := (s.ctx c).dealt ++ [(u, j)] } :=
  modCtx_ctx_self ..

section
variable {j : Job}

theorem unitOf_table (h : j.op = 0x30 ∨ j.op = 0x31 ∨ j.op = 0x60 ∨ j.op = 0x61) : unitOf j = .table := by
  obtain h | h | h | h := h <;> simp [unitOf, h]

theorem unitOf_tilePath (h : j.op = 0x01 ∨ j.op = 0x02 ∨ j.op = 0x03) : unitOf j = .tilePath := by
  obtain h | h | h := h <;> simp [unitOf, h]

theorem unitOf_hotSet (h : j.op = 0x40 ∨ j.op = 0x41) : unitOf j = .hotSet := by
  obtain h | h := h <;> simp [unitOf, h]

theorem unitOf_walker (h : j.op = 0x50 ∨ j.op = 0x51) : unitOf j = .walker := by
  obtain h | h := h <;> simp [unitOf, h]

theorem unitOf_stepBuilder (h : j.op = 0x32) : unitOf j = .stepBuilder := by simp [unitOf, h]

end

/-! ## The tile path and the hot set -/

/-- Settles O10: each row deals the descriptor to its unit; a TILE_ROUTE after a loss faults its context. -/
theorem tilePathAndHotSetDescriptors : Obligations.TilePathAndHotSetDescriptors := by
  refine ⟨fun s c j => ⟨fun h hlost => ?_, fun h => ?_, fun h => ?_⟩, fun s c j h hlost hfree hfault => ?_,
    fun s c j => ⟨fun h => ?_, fun h hop => ?_, fun h hop => ?_, fun h hop => ?_⟩⟩
  · change execTileRoute c s = _
    rw [execTileRoute, dealing_front h rfl, unitOf_tilePath (.inl (op_of_atFront h))]
    simp [dealTo_ctx_self, hlost]
  · change execTileCombine c s = _
    rw [execTileCombine, dealing_front h rfl, unitOf_tilePath (.inr (.inl (op_of_atFront h)))]
  · change execTileReverse c s = _
    rw [execTileReverse, dealing_front h rfl, unitOf_tilePath (.inr (.inr (op_of_atFront h)))]
  · change ∃ t, execTileRoute c s = _ ∧ _
    refine ⟨faultCtx (modCtx (joinTp c (dealTo s c .tilePath j) j) c fun x => { x with groupLost := false }) c stPeerLost
      (some j.c), ?_, ?_⟩
    · rw [execTileRoute, dealing_front h rfl, unitOf_tilePath (.inl (op_of_atFront h))]
      simp [dealTo_ctx_self, hlost]
    · have hstate : ((modCtx (joinTp c (dealTo s c .tilePath j) j) c fun x => { x with groupLost := false }).ctx c).state
          = (s.ctx c).state := by simp [joinTp, dealTo_ctx_self]
      exact faultCtx_faulted stPeerLost (some j.c) (by rwa [hstate]) (by rwa [hstate])
  · change execModelLoad c s = _
    rw [execModelLoad, dealing_front h rfl, unitOf_hotSet (.inl (op_of_atFront h))]
  · change execModelUnpin c s = _
    rw [execModelUnpin, dealing_front h (by simp [hop]), unitOf_hotSet (.inr (op_of_atFront h))]
  · change execModelPin c s = _
    rw [execModelPin, dealing_front h (by simpa using hop), unitOf_hotSet (.inr (op_of_atFront h))]
  · change execModelForget c s = _
    rw [execModelForget, dealing_front h (by simp [hop]), unitOf_hotSet (.inr (op_of_atFront h))]

/-! ## Movers and DMA -/

theorem exec_moverDescriptor {i : Instr} {c : CtxId} {op : Nat}
    (h : (i, op) ∈ [(Instr.xformCopy c, 0x10), (.gather c, 0x11), (.scatterAcc c, 0x12), (.transpose c, 0x13),
      (.expand c, 0x14)]) (s : State) : exec i s = moverDescriptor op c s := by
  simp only [List.mem_cons, Prod.mk.injEq, List.not_mem_nil, or_false] at h
  obtain ⟨rfl, rfl⟩ | ⟨rfl, rfl⟩ | ⟨rfl, rfl⟩ | ⟨rfl, rfl⟩ | ⟨rfl, rfl⟩ := h <;> rfl

/-- Settles O11: the checks of fetch pass the descriptor or end it, and it counts either way. -/
theorem moverDescriptors : Obligations.MoverDescriptors := by
  intro s c j i op hi
  refine ⟨fun hf hck => ?_, fun st hf hck => ?_⟩
  · rw [exec_moverDescriptor hi, moverDescriptor, dealChecked_none hf rfl hck]
  · rw [exec_moverDescriptor hi, moverDescriptor, dealChecked_some hf rfl hck]

/-- Settles O12: a good descriptor is taken by its channel, and one that a check ends leaves with its record. -/
theorem dmaDescriptors : Obligations.DmaDescriptors := by
  intro s c j i op hi hop
  refine ⟨fun hf hck hon => ?_, fun st hf hck => ?_⟩
  · have hchan : ((dealTo s c (.dma (dmCh j)) j).chan (dmCh j)).state ≠ .off := by simpa using hon
    rw [exec_dma_dealt hi hop hf hck, dealDma]
    simp only [beq_iff_eq, hchan, if_false]
  · obtain ⟨p, hp, hexec⟩ := exec_dmaDescriptor hi s
    subst hop
    rw [hexec, dmaDescriptor, dealChecked_some hf hp hck]

/-! ## Sequences -/

theorem exec_seqJoin {s : State} {c : CtxId} {j : Job} (h : AtFront s c 0x30 j) :
    exec (.seqJoin c) s = becomes s (
      if joinBad j then completeErr (dealTo s c .table j) c .table j stBad
      else if sqUser j % 64 != 0 then completeErr (dealTo s c .table j) c .table j stMisalign
      else if (lookup (sqIndex j) s.seqs).isSome || s.seqs.any fun e => e.2.ctx == c && e.2.uid == sqUid j then
        completeErr (dealTo s c .table j) c .table j stRange
      else
        modCtx { dealTo s c .table j with seqs := insertKey (sqIndex j) (joinEntry c (s.ctx c) j) s.seqs } c fun x =>
          { markBoundary x j.c with joinSeq := x.joinSeq + 1 }) := by
  change execSeqJoin c s = _
  rw [execSeqJoin, dealing_front h rfl, unitOf_table (.inl (op_of_atFront h))]
  have hseqs : (dealTo s c .table j).seqs = s.seqs := rfl
  have hentry : joinEntry c ((dealTo s c .table j).ctx c) j = joinEntry c (s.ctx c) j := by
    rw [dealTo_ctx_self]
    rfl
  simp only [hseqs, hentry]

theorem exec_seqLeave {s : State} {c : CtxId} {j : Job} (h : AtFront s c 0x31 j) :
    exec (.seqLeave c) s = becomes s (
      match (lookup (sqIndex j) s.seqs).filter fun q => q.ctx == c && q.uid == sqUid j && q.state != .leaving with
      | none => completeErr (dealTo s c .table j) c .table j stRange
      | some q =>
        if q.state == .pending then
          match q.joinC.bind (dealtJob ((dealTo s c .table j).ctx c)) with
          | some d =>
            complete { completeErr (dealTo s c .table j) c .table d.2 stAborted with seqs := eraseKey (sqIndex j) s.seqs } c
              .table j stOk (s.ctx c).step.toNat 0 0
          | none =>
            complete { dealTo s c .table j with seqs := eraseKey (sqIndex j) s.seqs } c .table j stOk (s.ctx c).step.toNat 0 0
        else
          modCtx { dealTo s c .table j with
            seqs := insertKey (sqIndex j) { q with state := .leaving, leaveC := some j.c } s.seqs } c fun x =>
            markBoundary x j.c) := by
  change execSeqLeave c s = _
  rw [execSeqLeave, dealing_front h rfl, unitOf_table (.inr (.inl (op_of_atFront h)))]
  have hseqs : (dealTo s c .table j).seqs = s.seqs := rfl
  simp only [hseqs]
  cases (lookup (sqIndex j) s.seqs).filter fun q => q.ctx == c && q.uid == sqUid j && q.state != .leaving with
  | none => rfl
  | some q =>
    dsimp only
    split
    · cases q.joinC.bind (dealtJob ((dealTo s c .table j).ctx c)) with
      | none => simp [dealTo_ctx_self, hseqs]
      | some d => simp [completeErr, complete, closeRec, dealTo_ctx_self, hseqs]
    · rfl

/-- Settles O14: the checks of R231 in their order, and the four cases of R233. -/
theorem sequencesChanged : Obligations.SequencesChanged := by
  refine ⟨fun s c j h => ?_, fun s c j h => ?_⟩
  · rw [exec_seqJoin h]
    refine ⟨fun hbad huser hfree huid => ⟨?_, rfl, rfl⟩, fun hbad => ?_, fun hbad huser => ?_, fun hbad huser htaken => ?_⟩
    · simp [hbad, huser, hfree, huid, becomes, finish]
    · simp [hbad, becomes, finish, stBad]
    · simp [hbad, huser, becomes, finish, stMisalign]
    · have htaken : ((lookup (sqIndex j) s.seqs).isSome || s.seqs.any fun e => e.2.ctx == c && e.2.uid == sqUid j) = true := by
        simpa only [Bool.or_eq_true] using htaken
      simp only [hbad, huser, htaken, becomes, finish, stRange, Bool.false_eq_true, if_false, if_true, bne_self_eq_false]
  · rw [exec_seqLeave h]
    have hnamed (q : Seq) (hq : lookup (sqIndex j) s.seqs = some q) (hctx : q.ctx = c) (huid : q.uid = sqUid j)
        (hstate : q.state ≠ .leaving) :
        ((lookup (sqIndex j) s.seqs).filter fun q => q.ctx == c && q.uid == sqUid j && q.state != .leaving) = some q := by
      simp [hq, Option.filter, hctx, huid, hstate]
    refine ⟨fun q hq hctx huid hstate => ?_, fun q d hq hctx huid hstate hjoin => ?_, fun q hq hctx huid hstate hjoin => ?_,
      fun hnone => ?_⟩
    · rw [hnamed q hq hctx huid (by simp [hstate])]
      simp [hstate, becomes, finish]
    · rw [hnamed q hq hctx huid (by simp [hstate])]
      simp [hstate, hjoin, becomes, finish, stAborted, stOk]
    · rw [hnamed q hq hctx huid (by simp [hstate])]
      simp [hstate, hjoin, becomes, finish, stOk]
    · simp only [hnone, becomes, finish, stRange]

end Sys2Proof.Proofs
end

section
/-!
PROOFS. STEP_BUILD, tensors and the waits (09 R204, R206, 10 R234 to R239, 13 R309, R310).
-/
namespace Sys2Proof.Proofs

open Sys2Proof Sys2Proof.Machine

/-! ## STEP_BUILD -/

theorem foldl_portMoves {α : Type} {f : State → α → State} (h : ∀ u x, PortMoves u (f u x)) (xs : List α) (s : State) :
    PortMoves s (xs.foldl f s) := by
  induction xs generalizing s with
  | nil => exact .refl s
  | cons x xs ih => exact (h s x).trans (ih (f s x))

@[simp] theorem teleCtx_step (s : State) (c d : CtxId) (i k : Nat) : ((teleCtx s c i k).ctx d).step = (s.ctx d).step := by
  rw [teleCtx, modCtx_ctx]
  split <;> rfl

@[simp] theorem teleCtx_hold (s : State) (c d : CtxId) (i k : Nat) : ((teleCtx s c i k).ctx d).hold = (s.ctx d).hold := by
  rw [teleCtx, modCtx_ctx]
  split <;> rfl

theorem PortMoves.step {s t : State} (h : PortMoves s t) (d : CtxId) : (t.ctx d).step = (s.ctx d).step := by
  obtain ⟨r, hr⟩ := h.1 d
  rw [hr]

theorem PortMoves.hold {s t : State} (h : PortMoves s t) (d : CtxId) : (t.ctx d).hold = (s.ctx d).hold := by
  obtain ⟨r, hr⟩ := h.1 d
  rw [hr]

theorem PortMoves.seqs {s t : State} (h : PortMoves s t) : t.seqs = s.seqs := by rw [h.2]

/-- The boundary's own changes, its writes aside. -/
theorem runBoundary_writes (s : State) (c : CtxId) (j : Job) :
    ∃ u, PortMoves u (runBoundary s c j) ∧ (u.ctx c).step = (s.ctx c).step + 1 ∧ (u.ctx c).hold = some .step
      ∧ u.seqs = (boundary s c j).seqs := by
  refine ⟨_, (foldl_portMoves (fun _ _ => writeMem_portMoves ..) _ _).trans (writeMem_portMoves ..), ?_, ?_, ?_⟩
  · simp
  · simp
  · rfl

/-- Settles O15: the row is the boundary, and after it the builder's first step. -/
theorem stepBuilt : Obligations.StepBuilt := by
  intro s c j h hbound
  have hexec : exec (.stepBuild c) s = becomes s (match stepBad (dealTo s c .stepBuilder j) c j with
      | some st => completeErr (dealTo s c .stepBuilder j) c .stepBuilder j st
      | none => advanceStep (runBoundary (dealTo s c .stepBuilder j) c j) c) := by
    change execStepBuild c s = _
    rw [execStepBuild, dealing_front h hbound, unitOf_stepBuilder (op_of_atFront h)] <;> rfl
  refine ⟨fun hgood => ?_, fun st hbad => ?_⟩
  · obtain ⟨u, hport, hstep, hhold, hseqs⟩ := runBoundary_writes (dealTo s c .stepBuilder j) c j
    refine ⟨by rw [hexec, hgood], ?_, (hport.hold c).trans hhold, hport.seqs.trans hseqs⟩
    rw [hport.step, hstep, dealTo_ctx_self]
  · rw [hexec, hbad]

/-! ## Tensors -/

/-- What the table unit reads. -/
theorem tableReading_eq (s : State) (c : CtxId) (a n : Nat) (k : State → State) (hfree : memBusy s (· == .table c) = false) :
    tableReading s c a n k
      = if (missingReqs s (.table c) 7 (some c) [(a, n)]).isEmpty then k s
        else request s (missingReqs s (.table c) 7 (some c) [(a, n)]) := by
  simp only [tableReading, reading, hfree, Bool.false_eq_true, if_false]

theorem createStep_misaligned {s : State} {c : CtxId} {j : Job} (h : tdRecord j % 64 ≠ 0) :
    createStep s c j = completeErr (dropRead s (.table c)) c .table j 0x10 := by
  simp [createStep, h, endCreate, completeErr, stMisalign]

theorem createStep_aligned {s : State} {c : CtxId} {j : Job} (h : tdRecord j % 64 = 0) :
    createStep s c j
      = tableReading s c (tdRecord j) 128 fun s => createTensor s c j (leNat (gotRead s (.table c) (tdRecord j) 128)) := by
  simp [createStep, h]

/-- A record of a tensor that is not distributed, past every check. -/
theorem createTensor_local {s : State} {c : CtxId} {j : Job} {n : Nat} (hbad : recordBad n = false)
    (hmis : recordMisaligned (tensorOf n) = false) (hdist : (tensorOf n).dist = false)
    (hfree : lookup (tdIndex j) (s.ctx c).tensors = none)
    (hin : inWin (s.ctx c).windows[(Fin.ofNat 4 (tensorOf n).win : Fin 4)] (tensorOf n).base (footLen (tensorOf n)) = true)
    (hwin : ((s.ctx c).windows[(Fin.ofNat 4 (tensorOf n).win : Fin 4)]).base.toNat
      < ((s.ctx c).windows[(Fin.ofNat 4 (tensorOf n).win : Fin 4)]).limit.toNat) :
    createTensor s c j n = complete (dropRead (addTensor s c (tdIndex j) (tensorOf n) []) (.table c)) c .table j 0
      (b2n (selfOverlaps (tensorOf n))) (footLen (tensorOf n)) 0 := by
  simp only [createTensor, hbad, hmis, hdist, hfree, Option.isSome_none, Bool.false_or, decide_eq_true_eq, Nat.not_le.2 hwin,
    hin, endCreate, stOk, Bool.false_eq_true, if_false, Bool.not_false, if_true]

/-- Settles O16: TDESC_CREATE is the table unit's work, step by step. -/
theorem tensorsChanged : Obligations.TensorsChanged := by
  refine ⟨fun s c j h => ?_, fun s c j _ => ⟨createStep_misaligned, fun halign hfree hmiss => ?_,
    fun n halign hfree hmiss hn hbad hmis hdist hnone hin hwin => ?_⟩,
    fun s c j => ⟨fun t h ht => ?_, fun h hnone => ?_, fun hlive hfreeable => ?_⟩⟩
  · change execTdescCreate c s = _
    rw [execTdescCreate, dealing_front h rfl, unitOf_table (.inr (.inr (.inl (op_of_atFront h))))]
  · rw [createStep_aligned halign, tableReading_eq _ _ _ _ _ hfree, if_neg]
    simpa [List.isEmpty_iff] using hmiss
  · rw [createStep_aligned halign, tableReading_eq _ _ _ _ _ hfree, hmiss, List.isEmpty_nil, if_pos rfl, hn,
      createTensor_local hbad hmis hdist hnone hin hwin]
  · change execTdescDestroy c s = _
    rw [execTdescDestroy, dealing_front h rfl, unitOf_table (.inr (.inr (.inr (op_of_atFront h))))]
    have ht' : tensorAt ((dealTo s c .table j).ctx c) (tdIndex j) j.c = some t := by
      rw [dealTo_ctx_self]
      exact ht
    rw [ht']
  · change execTdescDestroy c s = _
    rw [execTdescDestroy, dealing_front h rfl, unitOf_table (.inr (.inr (.inr (op_of_atFront h))))]
    have hnone' : tensorAt ((dealTo s c .table j).ctx c) (tdIndex j) j.c = none := by
      rw [dealTo_ctx_self]
      exact hnone
    rw [hnone']
    rfl
  · change execTdescFree c s = _
    simp only [execTdescFree, hfreeable]
    rw [working_true hlive rfl]
    rfl

/-! ## FENCE and EPOCH_WAIT -/

theorem exec_fence {s : State} {c : CtxId} {j : Job} (h : AtFront s c 0x50 j) :
    exec (.fence c) s = becomes s (if fenceBad j then completeErr (dealTo s c .walker j) c .walker j stBad
      else modCtx (dealTo s c .walker j) c fun x => { x with hold := some .fence }) := by
  change execFence c s = _
  rw [execFence, dealing_front h rfl, unitOf_walker (.inl (op_of_atFront h))]

theorem exec_epochWaitOwner {s : State} {c : CtxId} {j : Job} (h : AtFront s c 0x51 j) (hsrc : ewSource j = 0) :
    exec (.epochWaitOwner c) s = becomes s (
      if !owValid (ownerRaw s (ewEntry j)) then completeErr (dealTo s c .walker j) c .walker j stRange
      else if owOwn (ownerRaw s (ewEntry j)) then holdEpoch (dealTo s c .walker j) c
      else if destLost s (owChip (ownerRaw s (ewEntry j))) (owEngine (ownerRaw s (ewEntry j))) then
        completeErr (dealTo s c .walker j) c .walker j stPeerLost
      else askEpoch (holdEpoch (dealTo s c .walker j) c) c j (ewTag (s.ctx c) c)) := by
  change execEpochWaitOwner c s = _
  have htag : ewTag ((dealTo s c .walker j).ctx c) c = ewTag (s.ctx c) c := by
    rw [dealTo_ctx_self]
    rfl
  rw [execEpochWaitOwner, dealing_front h (by simp [hsrc]), unitOf_walker (.inr (op_of_atFront h))]
  simp only [hsrc, htag]
  rfl

theorem exec_epochWaitWord {s : State} {c : CtxId} {j : Job} (h : AtFront s c 0x51 j) (hsrc : ewSource j = 1) :
    exec (.epochWaitWord c) s = becomes s (
      match worst [(ewWord j % 64 != 0, stMisalign), (!inWindows (s.ctx c) (ewWord j) 8, stRange)] with
      | some st => completeErr (dealTo s c .walker j) c .walker j st
      | none => readWord (dealTo s c .walker j) c j) := by
  change execEpochWaitWord c s = _
  have hin : inWindows ((dealTo s c .walker j).ctx c) (ewWord j) 8 = inWindows (s.ctx c) (ewWord j) 8 := by
    rw [dealTo_ctx_self]
    rfl
  rw [execEpochWaitWord, dealing_front h (by simp [hsrc]), unitOf_walker (.inr (op_of_atFront h))]
  simp only [hin] <;> rfl

/-- The lower status of the word's two checks. -/
theorem worst_word (a b : Bool) :
    worst [(a, stMisalign), (b, stRange)] = if a then some stMisalign else if b then some stRange else none := by
  cases a <;> cases b <;> rfl

theorem ownWait_owner {s : State} {c : CtxId} {j : Job} {tag : BitVec 16} {due : Option (BitVec 64)}
    (hj : holder (s.ctx c) 0x51 = some j) (hhold : (s.ctx c).hold = some (.epochOwner tag due))
    (hown : owOwn (ownerRaw s (ewEntry j)) = true) :
    ownWait s c = if reachedEpoch (owEpoch (ownerRaw s (ewEntry j))) (ewEpoch j) then
      endWait s c j stOk (owEpoch (ownerRaw s (ewEntry j))) else s := by
  simp only [ownWait, hj, hhold, hown, Bool.true_and]

theorem waitAnswer_owner {s : State} {c : CtxId} {j : Job} {tag chip : BitVec 16} {engine : Bool} {bs : List Byte}
    (hj : holder (s.ctx c) 0x51 = some j) (hhold : (s.ctx c).hold = some (.epochOwner tag none))
    (hown : owOwn (ownerRaw s (ewEntry j)) = false) (hchip : owChip (ownerRaw s (ewEntry j)) = chip)
    (heng : owEngine (ownerRaw s (ewEntry j)) = engine) :
    waitAnswer s c chip engine bs = if tag.toNat == rdTag bs then answerWait s c j tag bs else s := by
  simp only [waitAnswer, waitsFor, hj, hhold, hown, hchip, heng, Bool.not_false, beq_self_eq_true, Bool.and_self, if_true]

theorem wordArrived_word {s : State} {c : CtxId} {j : Job} {b : Bool} {last : BitVec 64} {w : Nat}
    (hj : holder (s.ctx c) 0x51 = some j) (hhold : (s.ctx c).hold = some (.epochWord b last)) :
    wordArrived s c w = if subMod 64 w (ewTarget j) < 2 ^ 63 then endWait s c j stOk w
      else modCtx s c fun x => { x with hold := some (.epochWord false last) } := by
  simp only [wordArrived, hj, hhold]

/-- Settles O17: each wait is dealt by its row's checks and ends at what it waits for. -/
theorem waitsHoldTheRing : Obligations.WaitsHoldTheRing := by
  refine ⟨fun s c j => ⟨fun h hbad => ?_, fun h hbad => ?_, fun hlive hhold hj hscope => ?_⟩,
    fun s c j => ⟨fun h hsrc hvalid hown => ?_, fun h hsrc hvalid hown hlost => ?_, fun h hsrc hvalid hown hlost => ?_,
      fun h hsrc hvalid => ?_, fun h hsrc halign hin => ?_, fun h hsrc halign => ?_, fun h hsrc halign hin => ?_,
      fun last hlive hhold hj hdue => ?_⟩,
    fun s c j hj => ⟨fun tag due hhold hown => ⟨fun hr => ?_, fun hr => ?_⟩,
      fun tag chip engine bs hhold hown hchip heng => ⟨fun htag hst => ?_, fun htag => ?_⟩,
      fun b last w hhold => ⟨fun hlt => ?_, fun hge => ?_⟩⟩⟩
  · rw [exec_fence h, hbad, if_neg Bool.false_ne_true]
  · rw [exec_fence h, hbad, if_pos rfl]
    rfl
  · change execFenceRelease c s = _
    simp only [execFenceRelease, hhold, hj]
    rw [working_true hlive (by simp [hscope])]
    rfl
  · rw [exec_epochWaitOwner h hsrc]
    simp only [hvalid, hown, Bool.not_true, Bool.false_eq_true, if_false, if_true]
    rfl
  · rw [exec_epochWaitOwner h hsrc]
    simp only [hvalid, hown, hlost, Bool.not_true, Bool.false_eq_true, if_false]
    rfl
  · rw [exec_epochWaitOwner h hsrc]
    simp only [hvalid, hown, hlost, Bool.not_true, Bool.false_eq_true, if_false, if_true]
    rfl
  · rw [exec_epochWaitOwner h hsrc]
    simp only [hvalid, Bool.not_false, if_true]
    rfl
  · rw [exec_epochWaitWord h hsrc, worst_word]
    simp only [halign, hin, bne_self_eq_false, Bool.not_true, Bool.false_eq_true, if_false]
    rfl
  · rw [exec_epochWaitWord h hsrc, worst_word]
    simp only [bne_iff_ne, ne_eq, halign, not_false_eq_true, if_true]
    rfl
  · rw [exec_epochWaitWord h hsrc, worst_word]
    simp only [halign, hin, bne_self_eq_false, Bool.not_false, Bool.false_eq_true, if_false, if_true]
    rfl
  · change execEpochWaitPoll c s = _
    simp only [execEpochWaitPoll, hhold, hj]
    rw [working_true hlive (by simp [hdue])]
    rfl
  · rw [ownWait_owner hj hhold hown, if_pos hr]
    rfl
  · rw [ownWait_owner hj hhold hown, hr, if_neg Bool.false_ne_true]
  · rw [waitAnswer_owner hj hhold hown hchip heng, htag, if_pos (beq_self_eq_true _), answerWait, hst]
    rfl
  · rw [waitAnswer_owner hj hhold hown hchip heng, if_neg (by simpa using fun h => htag h.symm)]
  · rw [wordArrived_word hj hhold, if_pos hlt]
    rfl
  · rw [wordArrived_word hj hhold, if_neg (Nat.not_lt.2 hge)]

end Sys2Proof.Proofs
end

section
/-!
PROOFS. The edges of a context's state (12 R275): a FREE context that still owns a mover's run is FAULTED by the command that
creates it.
-/
namespace Sys2Proof.Proofs

open Sys2Proof Sys2Proof.Machine

/-! ## A state in which CTX_CREATE faults the context it makes -/

/-- A key for the tag of the envelope. -/
def slotKey : BitVec 256 := 7

/-- A CTX_CREATE of context 1 in IDLE: one window, its save area outside, regulators of 1 µs. -/
def createBody : List Byte :=
  leBytes 128 (pack [(0, 0, 1), (0x18, 0, 0x10000), (0x50, 0, 1), (0x58, 0, 1000), (0x60, 0, 1)])

/-- Its envelope without the tag: slot 0, counter 1, the body at 0x1000. -/
def createHead : Nat := pack [(0, 8, 1), (4, 0, 128), (8, 0, 1), (0x10, 0, 0x1000)]

/-- Its envelope. -/
def createEnv : Nat := createHead + (cmac slotKey (tagged createHead createBody)) <<< 256

/-- A tensor of 3 rows of 64 elements of a byte, with or without strict. -/
def rowsTensor (strict : Bool) : TDesc := ⟨0, 2, false, strict, false, 0, 0, 0x2000, [63, 3], [256], 0, 0, 0, false, none⟩

/-- A GATHER in dimension 1 from tensor 0 to tensor 1. -/
def gatherRaw : BitVec 512 := BitVec.ofNat 512 (pack [(0, 0, 0x11), (8, 8, 1), (0x20, 0, 1)])

/-- Its run, its list read: the first index lies outside the source. -/
def gatherRun : MoverRun := ⟨1, 0, gatherRaw, 0, true, [7], [], [], 0, 0, 0, [], [], 0, none, [], none⟩

/-- The engine in READY with the envelope of the set-up path handled, its body read, and the gather run of context 1, which is
FREE and holds its tensors. -/
def creating1 : State :=
  let s := modCtx State.reset 1 fun x => { x with tensors := [(0, rowsTensor true), (1, rowsTensor false)] }
  { s with
    eng := .up
    slots := s.slots.set 0 ⟨true, slotKey, 0x3F, 0, 0⟩
    fw := { s.fw with valid := true }
    got := [(.crit, 0x1000, createBody)]
    sec := { s.sec with presented := some (BitVec.ofNat 448 createEnv), reading := some .setup }
    gather := s.gather.set 0 { s.gather[0] with queue := [(1, 0, gatherRaw)], run := some gatherRun } }

/-- The state of context 1 in a next state. -/
def nextState1 (r : Res) : Option CtxState :=
  match r with
  | .next t => some (t.ctx 1).state
  | _ => none

theorem creating1_free : (creating1.ctx 1).state = .free := by decide +kernel

theorem creating1_faults : nextState1 (exec (.ctxCreate .setup) creating1) = some .faulted := by decide +kernel

/-- Refutes O38: FREE to FAULTED is no edge, but CTX_CREATE leaves a context's tensors and its mover's run, and what follows of
the command faults the new context at a strict access. -/
theorem not_contextTransitions : ¬ Obligations.ContextTransitions := by
  intro h
  have hfault := creating1_faults
  have hfree := creating1_free
  cases hexec : exec (.ctxCreate .setup) creating1 with
  | next t =>
    rw [hexec] at hfault
    have ht : (t.ctx 1).state = .faulted := Option.some.inj hfault
    have hedge := h _ _ _ 1 hexec (by rw [ht, hfree]; decide)
    rw [ht, hfree] at hedge
    exact hedge
  | fault _ => rw [hexec] at hfault; cases hfault
  | refused _ => rw [hexec] at hfault; cases hfault

end Sys2Proof.Proofs
end

section
/-!
PROOFS. Two statements that leave out a condition of the model: what CLEAR_ACCT's word also does to a FREE context (19 R396),
and what a tile waits for before it is staged (notes/assumptions/27.md).
-/
namespace Sys2Proof.Proofs

open Sys2Proof Sys2Proof.Machine

/-! ## CLEAR_ACCT with enable set -/

/-- READY, context 0 FREE with its rank outside its group. -/
def badRank : State := modCtx { State.reset with eng := .up } 0 fun x => { x with grpRank := 1 }

/-- grp_err of context 0 in a next state. -/
def nextGrpErr (r : Res) : Option Bool :=
  match r with
  | .next t => some (t.ctx 0).grpErr
  | _ => none

/-- Refutes O28: a word with bits 0 and 2 that is written to a FREE context clears its accounting and, its rank outside its
group, sets grp_err too. -/
theorem not_contextControl : ¬ Obligations.ContextControl := by
  intro h
  obtain ⟨-, -, -, hclear, -⟩ := h badRank 0 1 (by decide +kernel)
  have heq := hclear (by decide +kernel) (by decide +kernel) (.inr (.inl (by decide +kernel)))
  have hset : nextGrpErr (exec (.clearAcct 0 1) badRank) = some true := by decide +kernel
  have hkept : nextGrpErr (writes badRank (modCtx badRank 0 fun x => { x with
      acct := Vector.replicate 8 0, acctWrap := 0 })) = some false := by decide +kernel
  rw [heq, hkept] at hset
  cases hset

/-! ## A tile whose context's abandoned tile is still being undone -/

/-- A TILE_ROUTE whose checks have passed, with one token. -/
def oneTile : TpJob := ⟨1, BitVec.ofNat 512 1, 0, 1, 1, true, 0, 0, 0, 0, 0, 0, 0, 0, false, false, []⟩

/-- READY, context 0 in RUNNING with that descriptor, a write that undoes an abandoned commit outstanding. -/
def undoing : State :=
  modCtx { State.reset with eng := .up, memOut := [⟨0, .undo 0, true, 0, 1, [0], [], [], 2, none⟩] } 0 fun x =>
    { x with state := .running, resumed := true, tp := [oneTile], dealt := [(.tilePath, ⟨1, 1, false⟩)]
             tensors := [(0, rowsTensor false)] }

/-- The tile-path jobs of context 0 in a next state. -/
def nextJobs (r : Res) : Option Nat :=
  match r with
  | .next t => some (t.ctx 0).tp.length
  | _ => none

/-- Refutes O40: with a half free and no earlier epoch, the row waits all the same while a write that undoes an abandoned commit
of the context is out, where staging the next tile would end its descriptor with RANGE. -/
theorem not_tilesStaged : ¬ Obligations.TilesStaged := by
  intro h
  obtain ⟨hstage, -, -⟩ := h undoing 0 oneTile (by decide +kernel) (by decide +kernel)
  have hnone : (undoing.ctx 0).lastEpoch = none := by decide +kernel
  have heq := hstage (by decide +kernel) (by simp [hnone])
  have hwaits : nextJobs (exec .tileStageBegin undoing) = some 1 := by decide +kernel
  have hends : nextJobs (becomes undoing (stageNext undoing 0 oneTile)) = some 0 := by decide +kernel
  rw [heq, hends] at hwaits
  cases hwaits

end Sys2Proof.Proofs
end

section
/-!
PROOFS. What drains, faults and the entry to SAFE leave alone: the key slots, the instruction store and the self-test's
results.
-/
namespace Sys2Proof.Proofs

open Sys2Proof Sys2Proof.Machine

/-- The key slots, the instruction store and the self-test's results are as they were. -/
def Spares (s t : State) : Prop := t.slots = s.slots ∧ t.fw = s.fw ∧ t.st = s.st

theorem Spares.refl (s : State) : Spares s s := ⟨rfl, rfl, rfl⟩

theorem Spares.trans {s t u : State} (h : Spares s t) (k : Spares t u) : Spares s u :=
  ⟨k.1.trans h.1, k.2.1.trans h.2.1, k.2.2.trans h.2.2⟩

theorem spares_foldl {α : Type} {f : State → α → State} (h : ∀ u x, Spares u (f u x)) (xs : List α) (s : State) :
    Spares s (xs.foldl f s) := by
  induction xs generalizing s with
  | nil => exact .refl s
  | cons x xs ih => exact (h s x).trans (ih (f s x))

theorem spares_ite {s a b : State} {p : Prop} [Decidable p] (ha : Spares s a) (hb : Spares s b) :
    Spares s (if p then a else b) := by
  split
  · exact ha
  · exact hb

theorem PortMoves.spares {s t : State} (h : PortMoves s t) : Spares s t := by
  rw [h.2]
  exact ⟨rfl, rfl, rfl⟩

/-! ## The units' operations -/

theorem modCtx_spares (s : State) (c : CtxId) (f : Ctx → Ctx) : Spares s (modCtx s c f) := ⟨rfl, rfl, rfl⟩

theorem countFree_spares (c : CtxId) (s : State) (j : Job) : Spares s (countFree c s j) := by
  unfold countFree tdcEvent
  dsimp only
  split <;> exact ⟨rfl, rfl, rfl⟩

theorem sendMsg_spares (s : State) (chip : BitVec 16) (engine : Bool) (m : TxMsg) : Spares s (sendMsg s chip engine m) := by
  unfold sendMsg
  split
  · exact .refl s
  · split
    · exact ⟨rfl, rfl, rfl⟩
    · split <;> exact ⟨rfl, rfl, rfl⟩

theorem undoRecords_spares (s : State) (t : Tile) : Spares s (undoRecords s t) := by
  have hdrop : Spares s (dropWaiting s t.ctx t.epoch) := ⟨rfl, rfl, rfl⟩
  exact hdrop.trans (spares_foldl (fun _ _ => (writeMem_portMoves ..).spares) _ _)

theorem modPeer_spares (s : State) (chip : BitVec 16) (engine : Bool) (f : Peer → Peer) :
    Spares s (modPeer s chip engine f) := by
  unfold modPeer
  split <;> exact ⟨rfl, rfl, rfl⟩

theorem dropOutstanding_spares (s : State) (t : Tile) : Spares s (dropOutstanding s t) := by
  unfold dropOutstanding
  refine spares_foldl (fun u x => ?_) _ _
  split
  exact spares_ite (.refl u) (modPeer_spares ..)

theorem missTicks_spares (s : State) (t : Tile) : Spares s (missTicks s t) := spares_ite ⟨rfl, rfl, rfl⟩ (.refl s)

/-- The packets, messages and resources of an abandoned tile go. -/
def tileGone (s : State) (t : Tile) : State :=
  let s1 := abortPackets s (isPktOf t.ctx t.epoch)
  { s1 with
    tx := s1.tx.map fun x => { x with queue := x.queue.filter fun m => !isSporeOf t.ctx t.epoch m.owner }
    txWait := s1.txWait.filter fun w => !isSporeOf t.ctx t.epoch w.2.2.owner
    tiles := s1.tiles.map fun x =>
      if x.ctx == t.ctx && x.epoch == t.epoch then { x with dead := true, writers := [], later := [] } else x }

theorem abandonTile_eq (s : State) (t : Tile) :
    abandonTile s t = acctAdd (dropOutstanding (tileGone (undoRecords (missTicks s t) t) t) t) t.ctx 4 1 := rfl

theorem abandonTile_spares (s : State) (t : Tile) : Spares s (abandonTile s t) := by
  have hgone (u : State) : Spares u (tileGone u t) := ⟨rfl, rfl, rfl⟩
  rw [abandonTile_eq]
  exact (missTicks_spares s t).trans ((undoRecords_spares _ t).trans ((hgone _).trans ((dropOutstanding_spares _ t).trans
    ⟨rfl, rfl, rfl⟩)))

theorem abandonFor_spares (s : State) (c : CtxId) (pre drain : Bool) : Spares s (abandonFor s c pre drain) := by
  have hkill : Spares s (killReads s (· == .prep c)) := ⟨rfl, rfl, rfl⟩
  have htiles (ts : List Tile) (u : State) : Spares u (ts.foldl abandonTile u) := spares_foldl abandonTile_spares ts u
  exact ((hkill.trans (htiles _ _)).trans (modCtx_spares ..)).trans (spares_foldl (fun _ _ => sendMsg_spares ..) _ _)

theorem dmaEnd_spares (s : State) (ch : ChanId) (d : DmaSet) (st v0 v1 : Nat) : Spares s (dmaEnd s ch d st v0 v1) := by
  unfold dmaEnd
  split <;> exact ⟨rfl, rfl, rfl⟩

theorem stopDma_spares (s : State) (c : CtxId) : Spares s (stopDma s c) := by
  refine spares_foldl (fun u ch => ?_) _ _
  have hshadow : Spares u (if dmaHas u.dma[ch].shadow u.dma[ch].shadowValid c then
      dmaEnd { u with dma := vmod u.dma ch fun x => { x with shadowValid := false } } ch u.dma[ch].shadow stAborted
        u.dma[ch].shadow.len.toNat 0
      else u) := by
    refine spares_ite ?_ (.refl u)
    exact Spares.trans (t := { u with dma := vmod u.dma ch fun x => { x with shadowValid := false } }) ⟨rfl, rfl, rfl⟩
      (dmaEnd_spares ..)
  exact spares_ite (hshadow.trans ⟨rfl, rfl, rfl⟩) hshadow

theorem abortJob_spares (st : Nat) (c : CtxId) (s : State) (uj : UnitId × Job) : Spares s (abortJob st c s uj) := by
  unfold abortJob completeTp
  split
  · dsimp only
    split <;> exact ⟨rfl, rfl, rfl⟩
  · exact ⟨rfl, rfl, rfl⟩
  · exact ⟨rfl, rfl, rfl⟩

theorem drainSteps_spares (s : State) (c : CtxId) (only : Option (BitVec 32)) (st : Nat) :
    Spares s (drainSteps s c only st) := by
  have hwalk : Spares s ((s.ctx c).walker.foldl (countFree c) s) := spares_foldl (fun u x => countFree_spares c u x) _ _
  have hstop (u : State) : Spares u (stopDma (stopMovers (killReads u (MemOwner.jobOf c)) c) c) :=
    Spares.trans (t := stopMovers (killReads u (MemOwner.jobOf c)) c) ⟨rfl, rfl, rfl⟩ (stopDma_spares _ c)
  have hjobs (f : UnitId × Job → Nat) (js : List (UnitId × Job)) (u : State) :
      Spares u (js.foldl (fun s uj => abortJob (f uj) c s uj) u) := spares_foldl (fun u uj => abortJob_spares (f uj) c u uj) js u
  unfold drainSteps Spares
  dsimp only [modCtx]
  exact ((hwalk.trans (abandonFor_spares _ c false true)).trans (hstop _)).trans ((modCtx_spares _ c _).trans (hjobs _ _ _))

theorem saveIf_spares (left : Bool) (s : State) (c : CtxId) : Spares s (saveIf left s c) := by
  refine spares_ite ?_ (.refl s)
  exact (modCtx_spares ..).trans (writeMem_portMoves ..).spares

theorem faultCtx_spares (s : State) (c : CtxId) (st : Nat) (only : Option (BitVec 32)) : Spares s (faultCtx s c st only) :=
  spares_ite (.refl s) (((drainSteps_spares s c only st).trans (modCtx_spares ..)).trans (saveIf_spares ..))

theorem drainCtx_spares (s : State) (c : CtxId) : Spares s (drainCtx s c) :=
  ((drainSteps_spares s c none stAborted).trans (modCtx_spares ..)).trans (saveIf_spares ..)

/-! ## The entry to SAFE -/

theorem freePlaces_spares (s : State) (chip : BitVec 16) (engine : Bool) (n : Nat) : Spares s (freePlaces s chip engine n) := by
  unfold freePlaces
  split
  · exact .refl s
  · split <;> exact ⟨rfl, rfl, rfl⟩

theorem dropSpores_spares (s : State) (p : Packet → Bool) : Spares s (dropSpores s p) :=
  Spares.trans (t := abortPackets { s with sporeWriters := s.sporeWriters.filter fun w => !(w.2.spore && p w.2) }
    fun k => k.spore && p k) ⟨rfl, rfl, rfl⟩ (spares_foldl (fun _ _ => freePlaces_spares ..) _ _)

theorem dropWait_spares (s : State) (c : CtxId) : Spares s (dropWait s c) := by
  unfold dropWait
  split
  · split <;> exact ⟨rfl, rfl, rfl⟩
  · exact .refl s

theorem dropRest_spares (s : State) : Spares s (dropRemote (dropPlaces s)) := ⟨rfl, rfl, rfl⟩

theorem dropStreams_spares (s : State) : Spares s (dropStreams s) := by
  have hgen (ts : List TxStream) (u : State) : Spares u (ts.foldl nextGen u) :=
    spares_foldl (f := nextGen) (fun _ _ => ⟨rfl, rfl, rfl⟩) ts u
  have hspores (u : State) : Spares u (dropRemote (dropPlaces (dropSpores u fun k => k.state != .feeding))) :=
    (dropSpores_spares u _).trans (dropRest_spares _)
  have hgroups (u : State) : Spares u ((fins 16).foldl (fun s c => dropGroup (dropWait s c) c) u) :=
    spares_foldl (fun u c => (dropWait_spares u c).trans (modCtx_spares ..)) _ u
  have hcleared (u : State) (l) : Spares u
      { u with txWait := [], rx := [], rxPast := [], rxWait := [], readPend := l, serving := [] } := ⟨rfl, rfl, rfl⟩
  have hkill (p : MemOwner → Bool) : Spares s (killReads s p) := ⟨rfl, rfl, rfl⟩
  unfold dropStreams
  dsimp only
  refine Spares.trans ?_ (hgroups _)
  refine Spares.trans ?_ (hspores _)
  refine Spares.trans ?_ (hgen _ _)
  exact (hkill _).trans (hcleared _ _)

theorem completeCrit_spares (s : State) (p : CritPath) (st v0 v1 v2 : Nat) : Spares s (completeCrit s p st v0 v1 v2) := by
  unfold completeCrit
  split
  · exact ⟨rfl, rfl, rfl⟩
  · split <;> exact ⟨rfl, rfl, rfl⟩

theorem endCrit_spares (s : State) (p : CritPath) (st v0 v1 v2 : Nat) : Spares s (endCrit s p st v0 v1 v2) :=
  Spares.trans (t := freeUnit s) ⟨rfl, rfl, rfl⟩ (completeCrit_spares ..)

theorem applyMode_spares (s : State) (c : CtxId) : Spares s (applyMode s c) := by
  unfold applyMode
  split
  · exact .refl s
  · refine Spares.trans ?_ (spares_foldl (fun _ _ => completeCrit_spares ..) _ _)
    exact spares_ite ⟨rfl, rfl, rfl⟩ ⟨rfl, rfl, rfl⟩

theorem critSafe_spares (s : State) : Spares s (critSafe s) := by
  refine Spares.trans (t := { s with sec := { s.sec with order := s.sec.order.filter (· == .setup) } }) ⟨rfl, rfl, rfl⟩
    (spares_foldl (fun u p => ?_) _ _)
  cases p with
  | setup => exact .refl u
  | ring c => exact completeCrit_spares ..

theorem answerSafe_spares (s : State) (c : CtxId) : Spares s (answerSafe s c) :=
  (modCtx_spares s c _).trans (spares_foldl
    (f := fun s j => completeErr (countFree c s j) c (unitOf j) j (endingSt stSafe j))
    (fun u j => (countFree_spares c u j).trans ⟨rfl, rfl, rfl⟩) _ _)

theorem foldl_hostIssue_spares {α : Type} (o : HostOwner) (a : α → Nat) (bs : α → List Byte) (xs : List α) (s : State) :
    Spares s (xs.foldl (fun s x => hostIssue s o true (a x) 64 (bs x)) s) :=
  spares_foldl (f := fun s x => hostIssue s o true (a x) 64 (bs x)) (fun _ _ => ⟨rfl, rfl, rfl⟩) xs s

/-- The diagnosis record is written to the host: of the self-test's results only its own fields change. -/
theorem writeDiag_keeps (s : State) :
    (writeDiag s).slots = s.slots ∧ (writeDiag s).fw = s.fw ∧ (writeDiag s).st.safeCause = s.st.safeCause := by
  unfold writeDiag
  split
  · exact ⟨rfl, rfl, rfl⟩
  · obtain ⟨hslots, hfw, hst⟩ := foldl_hostIssue_spares (.diag (s.st.diagNo + 1)) (fun i => s.st.diag.toNat + 64 * i)
      (fun i => slice (diagBytes s) (64 * i) 64) (tabulate 4 id)
      { s with st := { s.st with diagNo := s.st.diagNo + 1, diagPending := s.st.diagPending ++ [(s.st.diagNo + 1, 4)] } }
    have hcause := congrArg SelfTest.safeCause hst
    exact ⟨hslots, hfw, hcause⟩

/-- What is done on the entry to SAFE before the diagnosis record. -/
def safeEntered (s : State) (cause : Nat) : State :=
  (fins 16).foldl answerSafe (critSafe (dropStreams ((fins 16).foldl applyMode
    ((fins 16).foldl (fun s c => if atWork (s.ctx c) then faultCtx s c stSafe none else s) (safeBegun s cause)))))

theorem enterSafe_eq (s : State) (cause : Nat) : enterSafe s cause = writeDiag (safeEntered s cause) := by
  rw [enterSafe, safeEntered, safeBegun]

theorem safeEntered_spares (s : State) (cause : Nat) : Spares (safeBegun s cause) (safeEntered s cause) :=
  (spares_foldl (fun u c => spares_ite (faultCtx_spares u c stSafe none) (.refl u)) _ _).trans
    ((spares_foldl applyMode_spares _ _).trans
      ((dropStreams_spares _).trans ((critSafe_spares _).trans (spares_foldl answerSafe_spares _ _))))

/-- The entry to SAFE: its cause is held, and the key slots and the instruction store are as they were. -/
theorem enterSafe_keeps (s : State) (cause : Nat) :
    (enterSafe s cause).slots = s.slots ∧ (enterSafe s cause).fw = s.fw
      ∧ (enterSafe s cause).st.safeCause = BitVec.ofNat 8 cause := by
  obtain ⟨hslots, hfw, hst⟩ := safeEntered_spares s cause
  obtain ⟨dslots, dfw, dst⟩ := writeDiag_keeps (safeEntered s cause)
  rw [enterSafe_eq, dslots, dfw, dst, hslots, hfw, hst]
  exact ⟨rfl, rfl, rfl⟩

end Sys2Proof.Proofs
end

section
/-!
PROOFS. Authenticated commands that pass every check, and the key store (16 R356 to R364, 17 R370 to R374).
-/
namespace Sys2Proof.Proofs

open Sys2Proof Sys2Proof.Machine

/-! ## Accepted envelopes -/

/-- An envelope that passes every check answers with its command. -/
theorem exec_accepted {s : State} {i : Instr} {code e : Nat} {p : CritPath} {body : List Byte}
    (hi : envelopeRow i = some (code, p)) (h : Accepts s p code e body) :
    exec i s = answers s (command (admitted s e) p e body) := by
  obtain ⟨hh, hj⟩ := h
  simp only [exec_envelope hi hh, runEnvelope, hj, admitted]

/-- With its fields good too it has the effect of its code. -/
theorem exec_executes {s : State} {i : Instr} {code e : Nat} {p : CritPath} {body : List Byte}
    (hi : envelopeRow i = some (code, p)) (h : Accepts s p code e body) (hf : fieldsOk (admitted s e) e body = true) :
    exec i s = answers s (execute (admitted s e) p e (leNat (body.take 128)) body) := by
  have hnone : fieldError (admitted s e) e body = none := Option.isNone_iff_eq_none.1 hf
  rw [exec_accepted hi h, command, hnone]

/-- Settles O18: an accepted context command executes by its code. -/
theorem contextCommands : Obligations.ContextCommands := by
  intro s p e body i code effect hi h hf heffect
  have hcmd : envCmd e = code := h.1.2
  rw [exec_executes hi h hf]
  simp only [List.mem_cons, Prod.mk.injEq, List.not_mem_nil, or_false] at heffect
  obtain ⟨rfl, rfl⟩ | ⟨rfl, rfl⟩ | ⟨rfl, rfl⟩ | ⟨rfl, rfl⟩ | ⟨rfl, rfl⟩ | ⟨rfl, rfl⟩ := heffect <;>
    simp only [execute, hcmd]

/-- A wrap that does not open is RANGE, whatever stands in the reserved fields. -/
theorem fieldError_noKey {s : State} {e : Nat} {body : List Byte} (hcmd : envCmd e = 0x20)
    (hnone : wrappedKey s e body = none) : fieldError s e body = some 0x11 := by
  have hbody : bodyError s e body = some 0x11 := by
    simp only [bodyError, hcmd, hnone]
    rfl
  simp only [fieldError, hcmd, hbody]
  cases !reservedZero (leNat (body.take 128)) (bodyFields 0x20) <;> rfl

/-- Settles O19: the commands on the engine execute by their code; KEY_LOAD's unwrapped key is its field. -/
theorem engineCommands : Obligations.EngineCommands := by
  intro s p e body b hb
  subst hb
  refine ⟨fun h hf => ?_, fun h hf => ?_, fun key h hf hkey => ?_, fun h hkey => ?_, fun h hf => ?_, fun h hf => ?_⟩
  · rw [exec_executes rfl h hf]
    simp only [execute, h.1.2]
  · rw [exec_executes rfl h hf]
    simp only [execute, h.1.2]
  · rw [exec_executes rfl h hf]
    simp only [execute, h.1.2, keyLoad, hkey]
  · rw [exec_accepted rfl h, command, fieldError_noKey h.1.2 hkey]
  · rw [exec_executes rfl h hf]
    simp only [execute, h.1.2]
  · rw [exec_executes rfl h hf]
    simp only [execute, h.1.2]

/-! ## FW_LOAD -/

/-- An accepted envelope's command is allowed in the engine's state. -/
theorem critAllowed_of_accepts {s : State} {p : CritPath} {code e : Nat} {body : List Byte} (h : Accepts s p code e body) :
    critAllowed s code = true := by
  obtain ⟨⟨-, hcmd⟩, hj⟩ := h
  unfold judge at hj
  split at hj
  · cases hj
  · unfold lateCheck at hj
    split at hj
    · cases hj
    · split at hj
      · cases hj
      · split at hj
        · cases hj
        · rename_i hgrant
          rw [← hcmd]
          unfold grantCheck at hgrant
          split at hgrant
          · cases hgrant
          · split at hgrant
            · cases hgrant
            · rename_i hallow
              simpa using hallow

theorem live_of_accepts_fwLoad {s : State} {p : CritPath} {e : Nat} {body : List Byte} (h : Accepts s p 0x12 e body) :
    s.live = true := by
  have hallow := critAllowed_of_accepts h
  simp [critAllowed, isQuiet] at hallow
  exact hallow.1.1

/-- A FW_LOAD that fails in a live engine leaves it in SAFE with cause 3, the check noted, the slots as they were. -/
theorem refuseLate_fw {s : State} {p : CritPath} {e : Nat} (n st : Nat) (hcmd : envCmd e = 0x12) :
    (refuseLate s p e n st).eng = (if s.live then .safe else s.eng) ∧ (refuseLate s p e n st).fw = { s.fw with check := n }
      ∧ (refuseLate s p e n st).slots = s.slots ∧ (s.live = true → (refuseLate s p e n st).st.safeCause = 3) := by
  have hcheck : setCheck s e n = { s with fw := { s.fw with check := n } } := by simp [setCheck, hcmd]
  obtain ⟨hslots, hfw, -⟩ := endCrit_spares (setCheck s e n) p stSafe 0 0 0
  have heng : (endCrit (setCheck s e n) p stSafe 0 0 0).eng = s.eng := ((setCheck_works s e n).trans (endCrit_works ..)).1.1
  have hlive := live_congr heng
  rw [hcheck] at hslots hfw
  unfold refuseLate
  simp only [hcmd, beq_self_eq_true, if_true]
  rw [hlive]
  cases hl : s.live with
  | true =>
    obtain ⟨eslots, efw, ecause⟩ := enterSafe_keeps (endCrit (setCheck s e n) p stSafe 0 0 0) 3
    simp only [if_true]
    refine ⟨enterSafe_eng .., ?_, ?_, fun _ => ecause⟩
    · rw [efw, hcheck, hfw]
    · rw [eslots, hcheck, hslots]
  | false =>
    simp only [Bool.false_eq_true, if_false]
    refine ⟨heng, ?_, ?_, fun h => nomatch h⟩
    · rw [hcheck, hfw]
    · rw [hcheck, hslots]

/-- A FW_LOAD's envelope has dropped the image before it acts. -/
theorem admitted_fw {s : State} {e : Nat} (hcmd : envCmd e = 0x12) :
    (admitted s e).fw = { s.fw with valid := false, version := 0, image := [] } := by
  simp [admitted, dropImage, acceptEnv, hcmd]

/-- Settles O20: the image is checked after the envelope, and a bad one is a FW_LOAD that fails. -/
theorem firmwareLoad : Obligations.FirmwareLoad := by
  intro s p e body h
  have hcmd : envCmd e = 0x12 := h.1.2
  have hok : fieldsOk (admitted s e) e body = true := by simp [fieldsOk, fieldError, hcmd]
  have hlive : (admitted s e).live = true := by
    have hw : Works s (admitted s e) := (dropImage_works s e).trans (acceptEnv_works ..)
    rw [live_congr hw.1.1]
    exact live_of_accepts_fwLoad h
  have hexec : exec (.fwLoad p) s = answers s (fwLoad (admitted s e) p e body) := by
    rw [exec_executes rfl h hok]
    simp only [execute, hcmd]
  refine ⟨fun himg => ?_, fun n himg => ?_⟩
  · rw [hexec, fwLoad, himg]
  · obtain ⟨heng, hfw, -, hcause⟩ := refuseLate_fw (s := admitted s e) (p := p) n stSafe hcmd
    refine ⟨_, by rw [hexec, fwLoad, himg], ?_, hcause hlive, ?_, ?_⟩
    · rw [heng, hlive, if_pos rfl]
    · rw [hfw, admitted_fw hcmd]
    · rw [hfw]

/-! ## A replayed envelope -/

/-- With a good tag and a counter not above its slot's an envelope is refused at check 7 as a violation. -/
theorem runEnvelope_stale {s : State} {p : CritPath} {e : Nat} (hearly : earlyCheck s p e = none)
    (htag : tagOk s e (bodyGot s e) = true) (hctr : envCounter e ≤ s.slots[envSlot e].counter.toNat) :
    runEnvelope s p e = refuseViolation (dropImage s e) p e 7 stStale 1 := by
  simp only [runEnvelope, judge, hearly, lateCheck, htag, hctr, Bool.not_true, Bool.false_eq_true, if_false, if_true]

/-- Under LOG a violation is counted, and nothing else. -/
theorem violation_log {s : State} {src : Fin 4} (hon : s.eng ≠ .off) (hpol : s.sec.policy = 0) :
    violation s src = countViolation s src := by
  have hoff : (s.eng == .off) = false := by simpa using hon
  simp [violation, hoff, countViolation, hpol]

/-- In LOCKED a violation is counted, and nothing else. -/
theorem violation_inLocked {s : State} {src : Fin 4} (hl : s.eng = .locked) :
    violation s src = countViolation s src := by
  have hoff : (s.eng == .off) = false := by simp [hl]
  have hlocked : (s.eng == .locked) = true := by simp [hl]
  simp only [violation, hoff, hlocked, Bool.false_eq_true, if_false, if_true, ite_self]

/-- What a violation that locks the engine leaves. -/
structure LockedBy (s t : State) (src : Fin 4) : Prop where
  eng : t.eng = .locked
  tiles : t.tiles = s.tiles
  memOut : t.memOut = s.memOut
  ctxs : t.ctxs = s.ctxs
  policy : t.sec.policy = s.sec.policy
  slots : t.slots = (provisionAll s).slots
  provWait : t.provWait = []
  chip : t.chip = s.chip
  host : t.host = s.host
  quiesce : t.quiesce = s.quiesce
  dm : t.dm = s.dm
  pins : t.pins = s.pins
  fw : t.fw = s.fw
  outbox : t.outbox = s.outbox
  accepted : t.sec.accepted = s.sec.accepted
  vcount : t.sec.vcount[src] = satInc s.sec.vcount[src]
  alarm : t.sec.alarm = true
  erasing : t.sec.erasing = (s.sec.erasing || s.sec.policy == 2)

/-- Provisioning writes act on the slots alone, whatever else the state is. -/
theorem foldl_provision_slots (ws : List ProvWrite) {u v : State} (h : u.slots = v.slots) :
    (ws.foldl provision u).slots = (ws.foldl provision v).slots := by
  induction ws generalizing u v with
  | nil => exact h
  | cons w ws ih =>
    refine ih ?_
    cases w <;> simp only [provision, h]

theorem violation_locks {s : State} {src : Fin 4} (hon : s.eng ≠ .off) (hl : s.eng ≠ .locked) (hpol : s.sec.policy ≠ 0) :
    LockedBy s (violation s src) src := by
  have hoff : (s.eng == .off) = false := by simpa using hon
  have hlocked : (s.eng == .locked) = false := by simpa using hl
  have hlog : (s.sec.policy == 0) = false := by simpa using hpol
  obtain ⟨ks, hks⟩ := provisionAll_eq (enterLocked (countViolation s src))
  have hslots : ks = (provisionAll s).slots := by
    have hsame : (provisionAll (enterLocked (countViolation s src))).slots = (provisionAll s).slots :=
      foldl_provision_slots s.provWait rfl
    rw [← hsame, hks]
  have hcount : (vmod s.sec.vcount src satInc)[src] = satInc s.sec.vcount[src] := by simp [vmod]
  simp only [violation, hoff, hlog, hlocked, Bool.false_eq_true, if_false]
  rw [hks, hslots]
  cases herase : s.sec.policy == 2 with
  | true =>
    rw [if_pos rfl]
    exact ⟨rfl, rfl, rfl, rfl, rfl, rfl, rfl, rfl, rfl, rfl, rfl, rfl, rfl, rfl, rfl, hcount, rfl, by rw [herase, Bool.or_true]⟩
  | false =>
    rw [if_neg Bool.false_ne_true]
    exact ⟨rfl, rfl, rfl, rfl, rfl, rfl, rfl, rfl, rfl, rfl, rfl, rfl, rfl, rfl, rfl, hcount, rfl, by
      rw [herase, Bool.or_false]; rfl⟩

/-- What the drop of the image leaves of a stale envelope's state. -/
theorem lockedBy_dropImage {s t : State} {e : Nat} (h : LockedBy (dropImage s e) t 1) :
    (envCmd e ≠ 0x12 → t.fw = s.fw) ∧ LockedBy s { t with fw := s.fw } 1 := by
  by_cases hcmd : envCmd e = 0x12
  · have hdrop : dropImage s e = { s with fw := { s.fw with valid := false, version := 0, image := [] } } := by
      simp [dropImage, hcmd]
    rw [hdrop] at h
    have hslots : (provisionAll { s with fw := { s.fw with valid := false, version := 0, image := [] } }).slots
        = (provisionAll s).slots := foldl_provision_slots s.provWait rfl
    exact ⟨fun hne => absurd hcmd hne, { h with fw := rfl, slots := h.slots.trans hslots }⟩
  · have hdrop : dropImage s e = s := by simp [dropImage, hcmd]
    rw [hdrop] at h
    exact ⟨fun _ => h.fw, { h with fw := rfl }⟩

/-- Settles O21: the envelope is a violation, which LOG counts and the other policies answer by LOCKED. -/
theorem staleEnvelopeExecutesNothing : Obligations.StaleEnvelopeExecutesNothing := by
  intro s p e i code hi hh hearly htag hctr
  obtain ⟨hon, hlock, -, -⟩ := handled_eq_some hh.1
  have hcmd : envCmd e = code := hh.2
  have hoff : s.eng ≠ .off := by simpa [State.on] using hon
  have hexec := exec_envelope hi hh
  rw [runEnvelope_stale hearly htag hctr] at hexec
  have hsec : (dropImage s e).sec = s.sec := dropImage_policy s e
  have heng : (dropImage s e).eng = s.eng := (dropImage_works s e).1.1
  have hlog (hpol : s.sec.policy = 0) :
      refuseViolation (dropImage s e) p e 7 stStale 1 = refuseLate (countViolation (dropImage s e) 1) p e 7 stStale := by
    have hviol : violation (dropImage s e) 1 = countViolation (dropImage s e) 1 :=
      violation_log (by rwa [heng]) (by rwa [hsec])
    have hnot : ((countViolation (dropImage s e) 1).eng == .locked) = false := by
      have : (countViolation (dropImage s e) 1).eng = s.eng := heng
      rw [this]
      simpa using hlock
    simp only [refuseViolation, hviol, hnot, Bool.false_eq_true, if_false]
  refine ⟨fun hpol hne => ?_, fun hpol hfw => ?_, fun hpol => ?_⟩
  · have hdrop : dropImage s e = s := by simp [dropImage, hcmd, hne]
    rw [hexec, hlog hpol, hdrop, refuseLate, hcmd, if_neg (by simpa using hne)]
    rfl
  · rw [hfw] at hcmd
    obtain ⟨ht, tfw, tslots, -⟩ := refuseLate_fw (s := countViolation (dropImage s e) 1) (p := p) 7 stStale hcmd
    have hlive : (countViolation (dropImage s e) 1).live = s.live := live_congr heng
    refine ⟨_, by rw [hexec, hlog hpol], ?_, ?_, ?_⟩
    · rw [ht, hlive]
      exact congrArg (ite _ _) heng
    · rw [tfw]
      simp [countViolation, dropImage, hcmd]
    · rw [tslots]
      simp [countViolation, dropImage, hcmd]
  · have hby := violation_locks (src := 1) (by rwa [heng]) (by rwa [heng]) (by rwa [hsec] : (dropImage s e).sec.policy ≠ 0)
    obtain ⟨hfw, hs⟩ := lockedBy_dropImage hby
    have hrun : refuseViolation (dropImage s e) p e 7 stStale 1 = violation (dropImage s e) 1 := by
      simp [refuseViolation, hby.eng]
    have hsettle : settleOn (violation (dropImage s e) 1) = violation (dropImage s e) 1 := by
      simp [settleOn, State.live, hby.eng]
    rw [hexec, hrun, answers, hsettle]
    exact ⟨_, rfl, hs.eng, hs.tiles, hs.memOut, hs.ctxs, hs.policy, hs.slots, hs.provWait, hs.chip, hs.host, hs.quiesce,
      hs.dm, hs.pins, fun hne => hfw (by rwa [hcmd]), hs.accepted, hs.vcount⟩

/-! ## Tamper, handshake and provisioning -/

theorem exec_violates {s : State} {i : Instr} {src : Fin 4}
    (h : (∃ n, 4 ≤ n ∧ i = .tamperInput n ∧ src = 2) ∨ (i = .handshakeFault ∧ src = 3)) :
    exec i s = finish s (violation s src) := by
  obtain ⟨n, hn, rfl, rfl⟩ | ⟨rfl, rfl⟩ := h
  · have hwf : Instr.wf (.tamperInput n) = true := by
      simp only [Instr.wf, bne_iff_ne]
      omega
    change execTamperInput n s = _
    rw [execTamperInput, if_pos hwf, guarded_true (by simpa using hn)]
  · rfl

/-- Settles O23: each is a violation at its source. -/
theorem violationsAct : Obligations.ViolationsAct := by
  intro s i src hi hon
  rw [exec_violates hi]
  refine ⟨fun h => ?_, fun hpol hlock => ?_, fun n h1 h4 => ?_⟩
  · obtain hpol | hlock := h
    · rw [violation_log hon hpol]
    · rw [violation_inLocked hlock]
  · have hby := violation_locks (src := src) hon hlock hpol
    exact ⟨_, rfl, hby.eng, hby.vcount, hby.alarm, hby.erasing, hby.ctxs, hby.chip, hby.outbox, hby.memOut⟩
  · have hwf : Instr.wf (.tamperInput n) = true := by
      simp only [Instr.wf, bne_iff_ne]
      omega
    change execTamperInput n s = _
    rw [execTamperInput, if_pos hwf, guarded_false (by simpa using h4)]

theorem provisionOne_free {s : State} {w : ProvWrite} (hon : s.eng ≠ .off) (h : provHeld s = false) :
    provisionOne w s = finish s (provision s w) := by
  rw [provisionOne, guarded_true (by simpa [State.on] using hon), h, if_neg Bool.false_ne_true]

theorem provisionOne_held {s : State} {w : ProvWrite} (hon : s.eng ≠ .off) (h : provHeld s = true) :
    provisionOne w s = .next { s with provWait := s.provWait ++ [w] } := by
  rw [provisionOne, guarded_true (by simpa [State.on] using hon), h, if_pos rfl]
  rfl

/-- Settles O24: a write acts or waits by `provHeld`; with none waiting the erase's end is the slots' alone. -/
theorem keyStoreWrites : Obligations.KeyStoreWrites := by
  intro s slot key perm floor
  refine ⟨fun hon h => provisionOne_free hon h, fun hon h => provisionOne_free hon h, fun hon h => provisionOne_held hon h,
    fun hon h => provisionOne_held hon h, fun herase hnone => ?_⟩
  change execKeyStoreEraseDone s = _
  rw [execKeyStoreEraseDone, guarded_true herase]
  simp [provisionAll, zeroSlots, hnone, finish]

end Sys2Proof.Proofs
end

section
/-!
PROOFS. The set-up port (15 R335, 16 R358, 19): reads, writes that act, and the commands that are such writes.
-/
namespace Sys2Proof.Proofs

open Sys2Proof Sys2Proof.Machine

/-! ## Reads -/

/-- What `insertKey` puts at a key is found there. -/
theorem lookup_insertKey {α : Type} (k : Nat) (x : α) (l : List (Nat × α)) : lookup k (insertKey k x l) = some x := by
  induction l with
  | nil => simp [insertKey, lookup]
  | cons c l ih =>
    obtain ⟨j, y⟩ := c
    rw [insertKey]
    split
    · simp [lookup]
    · split
      · simp [lookup]
      · next hne =>
        have hj : ¬ j = k := fun h => hne (by simp [h])
        simp [lookup, hj, ih]

/-- A pair shows no key: the counter of a slot alone of its content. -/
theorem pairValue_slots {s : State} {ks : Vector KeySlot 8} (h : ∀ i : Fin 8, (ks[i]).counter = (s.slots[i]).counter)
    (p : Pair) : pairValue { s with slots := ks } p = pairValue s p := by
  cases p with
  | slotCtr n => exact congrArg BitVec.toNat (h n)
  | sliceCount i c => cases c <;> rfl
  | _ => rfl

/-- What two slots that differ in their keys alone share. -/
theorem slot_shown {a b : KeySlot} (h : ({ a with key := 0 } : KeySlot) = { b with key := 0 }) :
    a.valid = b.valid ∧ a.perm = b.perm ∧ a.counter = b.counter ∧ a.kcv = b.kcv := by
  obtain ⟨av, ak, ap, ac, akcv⟩ := a
  obtain ⟨bv, bk, bp, bc, bkcv⟩ := b
  simpa using h

/-- A register shows of a slot what is there beside its key. -/
theorem regValue_slots {s : State} {ks : Vector KeySlot 8}
    (h : ∀ i : Fin 8, ({ ks[i] with key := 0 } : KeySlot) = { s.slots[i] with key := 0 }) (o : Nat) (r : SetupReg) :
    regValue { s with slots := ks } o r = regValue s o r := by
  cases r with
  | lo p => exact congrArg (· % 2 ^ 32) (pairValue_slots (fun i => (slot_shown (h i)).2.2.1) p)
  | slotStat n =>
    obtain ⟨hvalid, hperm, hctr, -⟩ := slot_shown (h n)
    simp only [regValue, slotStatWord, hvalid, hperm, hctr]
  | slotKcv n =>
    obtain ⟨hvalid, -, -, hkcv⟩ := slot_shown (h n)
    simp only [regValue, hvalid, hkcv]
  | secVcount i => match i with | 0 | 1 => rfl
  | ctx c r => cases r <;> rfl
  | _ => rfl

/-- Settles O25: the value read, and what a read latches, are those of the state without its keys. -/
theorem keysAreNeverRead : Obligations.KeysAreNeverRead := by
  rintro s t o ⟨ks, rfl, hks⟩
  refine ⟨_, _, rfl, rfl, ?_⟩
  have hpair := pairValue_slots (s := s) fun i => (slot_shown (hks i)).2.2.1
  show (readReg s o.toNat).setup = (readReg { s with slots := ks } o.toNat).setup
    ∧ (readReg s o.toNat).latches = (readReg { s with slots := ks } o.toNat).latches
  unfold readReg
  cases regAt o.toNat with
  | none => exact ⟨rfl, rfl⟩
  | some r =>
    have hon : State.on { s with slots := ks } = s.on := rfl
    simp only [hon, regValue_slots hks]
    cases s.on with
    | false => exact ⟨rfl, rfl⟩
    | true => cases r <;> simp only [readEffect, hpair, if_true, and_self]

/-- A read of a defined register while the engine is not in OFF. -/
theorem readReg_defined {s : State} {o : Nat} {r : SetupReg} (hon : s.on = true) (hr : regAt o = some r) :
    readReg s o = { readEffect s o r with setup := ⟨BitVec.ofNat 32 (regValue s o r), false⟩ } := by
  simp only [readReg, hr, hon, if_true]

/-- The state that a read of the LO of a pair leaves. -/
def latched (s : State) (o : Nat) (p : Pair) : State :=
  { s with setup := ⟨BitVec.ofNat 32 (pairValue s p % 2 ^ 32), false⟩
           latches := insertKey (o + 4) (BitVec.ofNat 32 (pairValue s p >>> 32)) s.latches }

theorem exec_read_lo {s : State} {o : BitVec 20} {p : Pair} (hon : s.on = true) (hr : regAt o.toNat = some (.lo p)) :
    exec (.latchedPairRead o) s = .next (latched s o.toNat p) := by
  change finish s (readReg s o.toNat) = _
  rw [readReg_defined hon hr]
  rfl

/-- The HI of a pair, read after its LO, shows what was latched then. -/
theorem exec_read_hi {s : State} {o o' : BitVec 20} {p : Pair} (hon : s.on = true) (hr : regAt o'.toNat = some (.hi p))
    (ho : o'.toNat = o.toNat + 4) : ∃ u, exec (.latchedPairRead o') (latched s o.toNat p) = .next u
      ∧ u.setup.data = BitVec.ofNat 32 (pairValue s p / 2 ^ 32 % 2 ^ 32
          + if p == .tdc then b2n s.tdc.saturated * 2 ^ 31 else 0) := by
  have hread : readReg (latched s o.toNat p) o'.toNat = _ := readReg_defined hon hr
  refine ⟨_, rfl, ?_⟩
  show (readReg (latched s o.toNat p) o'.toNat).setup.data = _
  have hl : lookup o'.toNat (latched s o.toNat p).latches = some (BitVec.ofNat 32 (pairValue s p >>> 32)) := by
    rw [ho]
    exact lookup_insertKey ..
  have htdc : (latched s o.toNat p).tdc = s.tdc := rfl
  simp only [hread, regValue, hl, htdc, Option.map_some, Option.getD_some, BitVec.toNat_ofNat, Nat.shiftRight_eq_div_pow,
    Nat.shiftLeft_eq]
  split <;> simp

theorem ofNat_add_mod (a b : Nat) : BitVec.ofNat 32 (a % 2 ^ 32 + b) = BitVec.ofNat 32 (a + b) :=
  BitVec.eq_of_toNat_eq (by simp)

theorem ofNat_mod (a : Nat) : BitVec.ofNat 32 (a % 2 ^ 32) = BitVec.ofNat 32 a := ofNat_add_mod a 0

/-- Settles O27: a defined register reads as its value; the LO latches for the HI four bytes above it. -/
theorem registerReads : Obligations.RegisterReads := by
  refine fun s o => ⟨fun r hon hr => ⟨_, rfl, ?_⟩, fun p o' hon hlo hhi ho hp => ?_, fun o' hon hlo hhi ho => ?_,
    fun herr => ⟨_, rfl, ?_⟩⟩
  · show (readReg s o.toNat).setup = _
    rw [readReg_defined hon hr]
  · obtain ⟨u, hu, hdata⟩ := exec_read_hi hon hhi ho
    refine ⟨_, u, exec_read_lo hon hlo, ofNat_mod _, hu, hdata.trans ?_⟩
    rw [if_neg (by simpa using hp)]
    exact ofNat_mod _
  · obtain ⟨u, hu, hdata⟩ := exec_read_hi hon hhi ho
    refine ⟨_, u, exec_read_lo hon hlo, ofNat_mod _, hu, hdata.trans ?_⟩
    rw [if_pos (by rfl)]
    exact ofNat_add_mod ..
  · show (readReg s o.toNat).setup = _ ∧ (readReg s o.toNat).latches = _
    have hread : readReg s o.toNat = setupError s := by
      unfold readReg
      obtain hoff | hnone := herr
      · split
        · rw [if_neg (by simp [hoff])]
        · rfl
      · rw [hnone]
    rw [hread]
    exact ⟨rfl, rfl⟩

/-! ## Writes -/

/-- A whole write of a defined register while the engine works has its effect. -/
theorem wholeWrite_defined {s : State} {o : Nat} {r : SetupReg} (hl : s.live = true) (hr : regAt o = some r) (w : Nat) :
    wholeWrite s o w = writes s (writeEffect s r w) := by
  simp [wholeWrite, writeReg, hr, hl, writes]

theorem writeReg_refused {s : State} {o w : Nat} {en : BitVec 4} (h : s.live = false ∨ en ≠ 15 ∨ regAt o = none) :
    writeReg s o w en = setupError s := by
  unfold writeReg
  split
  · next r hr =>
    obtain hl | hen | hnone := h
    · rw [hl]
      rfl
    · rw [if_neg (by simp only [Bool.and_eq_true, beq_iff_eq, hen, and_false, not_false_eq_true])]
    · cases hr.symm.trans hnone
  · rfl

/-- Settles O26: a whole write of a defined register acts while the engine works; any other is an error. -/
theorem registerWrites : Obligations.RegisterWrites := by
  refine fun s o w en => ⟨fun r hl hr => wholeWrite_defined hl hr w.toNat, fun h => ?_⟩
  change finish s (writeReg s o.toNat w.toNat en) = _
  rw [writeReg_refused h]
  rfl

/-- The register of a context page that a ring register is. -/
def ringPage : RingReg → CtxReg
  | .sqBaseLo => .sqBaseLo | .sqBaseHi => .sqBaseHi | .cqBaseLo => .cqBaseLo | .cqBaseHi => .cqBaseHi
  | .dbLo => .dbLo | .dbHi => .dbHi | .ringSize => .ringSize | .poll => .poll

theorem regAt_ring (c : CtxId) (r : RingReg) : regAt (ctxOff c (ringOff r)) = some (.ctx c (ringPage r)) := by
  cases r <;> revert c <;> decide

theorem regAt_grp (c : CtxId) : regAt (ctxOff c (grpOff .grp)) = some (.ctx c .grp) := by
  revert c; decide

theorem regAt_grpPeer (c : CtxId) (l : Fin 16) : regAt (ctxOff c (grpOff (.peer l))) = some (.ctx c (.grpPeer l)) := by
  revert c l; decide

theorem regAt_peerCfg (n : Fin 32) : regAt (0x40100 + 0x10 * n.val) = some (.peerCfg n) := by
  revert n; decide

theorem regAt_coreFail (m : Fin 3) : regAt (0x1A4 + 4 * m.val) = some (.coreFail m) := by
  revert m; decide

/-- A ring register's write in a live engine is that of its register in the context's page. -/
theorem exec_ringConfigWrite {s : State} (hl : s.live = true) (c : CtxId) (r : RingReg) (w : Reg) :
    exec (.ringConfigWrite c r w) s = writes s (writeCtxReg s c (ringPage r) w.toNat) :=
  wholeWrite_defined hl (regAt_ring c r) w.toNat

theorem exec_ctxGroupWrite_grp {s : State} (hl : s.live = true) (c : CtxId) (w : Reg) :
    exec (.ctxGroupWrite c .grp w) s = writes s (writeCtxReg s c .grp w.toNat) :=
  wholeWrite_defined hl (regAt_grp c) w.toNat

theorem exec_ctxGroupWrite_peer {s : State} (hl : s.live = true) (c : CtxId) (l : Fin 16) (w : Reg) :
    exec (.ctxGroupWrite c (.peer l) w) s = writes s (writeCtxReg s c (.grpPeer l) w.toNat) :=
  wholeWrite_defined hl (regAt_grpPeer c l) w.toNat

theorem ringWrite_quiet {s : State} {c : CtxId} (h : quietCtx (s.ctx c) = true) (f : Ctx → Ctx) :
    ringWrite s c f = modCtx s c f := modCtx_congr (if_pos h)

theorem ringWrite_busy {s : State} {c : CtxId} (h : quietCtx (s.ctx c) = false) (f : Ctx → Ctx) :
    ringWrite s c f = modCtx s c fun x => { x with cfgErr := true } := modCtx_congr (if_neg (by simp [h]))

theorem groupWrite_taken {s : State} {c : CtxId} {ok : Bool} (h : quietCtx (s.ctx c) = true) (hok : ok = true)
    (f : Ctx → Ctx) : groupWrite s c ok f = modCtx s c f := modCtx_congr (if_pos (by simp [h, hok]))

theorem groupWrite_refused {s : State} {c : CtxId} {ok : Bool} (h : quietCtx (s.ctx c) = false ∨ ok = false)
    (f : Ctx → Ctx) : groupWrite s c ok f = modCtx s c fun x => { x with grpErr := true } :=
  modCtx_congr (if_neg (by obtain h | h := h <;> simp [h]))

/-- Settles O29: each write is a write of its register, taken or refused by what the context is. -/
theorem ringAndGroupRegisters : Obligations.RingAndGroupRegisters := by
  intro s c w hl
  simp only [exec_ringConfigWrite hl, exec_ctxGroupWrite_grp hl, exec_ctxGroupWrite_peer hl]
  refine ⟨fun hq => ?_, fun l hself => ?_, fun r hq hr => ?_, fun r hq => ?_, rfl⟩
  · have hring := ringWrite_quiet hq
    refine ⟨congrArg _ (hring _), congrArg _ (hring _), congrArg _ (hring _), congrArg _ (hring _), congrArg _ (hring _),
      congrArg _ (hring _), congrArg _ (hring _), congrArg _ (groupWrite_taken hq rfl _), fun l hself => ?_⟩
    exact congrArg _ (groupWrite_taken hq (by simp [hself]) _)
  · exact congrArg _ (groupWrite_refused (.inr (by simp [hself])) _)
  · have hring := ringWrite_busy hq
    cases r with
    | poll => exact absurd rfl hr
    | sqBaseLo | sqBaseHi | cqBaseLo | cqBaseHi | dbLo | dbHi | ringSize => exact congrArg _ (hring _)
  · have hgroup := fun ok f => groupWrite_refused (ok := ok) (.inl hq) f
    cases r with
    | grp => exact (exec_ctxGroupWrite_grp hl c w).trans (congrArg _ (hgroup _ _))
    | peer l => exact (exec_ctxGroupWrite_peer hl c l w).trans (congrArg _ (hgroup _ _))

/-- The word of CLEAR_CTX clears the counters of its context alone. -/
theorem teleWrite_clearCtx (s : State) (c : CtxId) : teleWrite s (2 + c.val <<< 4) = zeroTeleCtx s c := by
  have h0 : bitAt (2 + c.val <<< 4) 0 = false := by revert c; decide
  have h1 : bitAt (2 + c.val <<< 4) 1 = true := by revert c; decide
  have hc : Fin.ofNat 16 (fld (2 + c.val <<< 4) 7 4) = c := by revert c; decide
  simp only [teleWrite, h0, h1, hc, Bool.false_eq_true, if_false, if_true]

/-- Settles O30: each row is a whole write of its register. -/
theorem clearsAndSettings : Obligations.ClearsAndSettings := by
  intro s c w n m hl
  have hpeer : exec (.spillPeerCfgWrite n w) s = writes s (peerCfg s n w.toNat) :=
    wholeWrite_defined hl (regAt_peerCfg n) w.toNat
  have htdc : regAt 0x3104 = some .tdcCtl := by decide
  have htel : regAt 0x4400 = some .telCtl := by decide
  have hquantum : regAt 0x180 = some .schedCtl := by decide
  have htbl : regAt 0x50000 = some .tblSel := by decide
  refine ⟨wholeWrite_defined hl htdc 1, wholeWrite_defined hl htel 1, ?_, wholeWrite_defined hl hquantum w.toNat,
    wholeWrite_defined hl htbl w.toNat, fun hbad => ?_, fun _ => hpeer, ?_⟩
  · exact (wholeWrite_defined hl htel _).trans (congrArg (writes s) (teleWrite_clearCtx s c))
  · rw [hpeer, peerCfg, if_pos hbad]
  · exact wholeWrite_defined hl (regAt_coreFail m) w.toNat

/-! ## DMA channels -/

theorem exec_dmaAbort {s : State} {ch : ChanId} (hl : s.live = true) (w : Reg) :
    exec (.dmaAbort ch w) s = writes s (writeDmaCtl s ch (withBit w 1 true)) :=
  wholeWrite_dmaCtl hl ch _

theorem bitAt_withBit_one (w : Reg) : bitAt (withBit w 1 true) 1 = true := by
  have h : Nat.testBit 2 1 = true := by decide
  simp [bitAt_eq_testBit, withBit, bvSetBit, h]

/-- A channel that is asked to abort. -/
def markAbort (k : DmaChan) : DmaChan := if k.activeValid then { k with aborting := true } else k

theorem dmaAbort_eq (s : State) (ch : ChanId) : dmaAbort s ch = modDma s ch markAbort := rfl

/-- A completion that a DMA channel makes leaves the channels but for its status. -/
@[simp] theorem chan_dmaEnd (s : State) (ch : ChanId) (d : DmaSet) (st v0 v1 : Nat) :
    (dmaEnd s ch d st v0 v1).chan ch
      = { s.chan ch with lastStatus := BitVec.ofNat 8 st, lastCtx := d.ctx } := by
  unfold dmaEnd
  split
  · simp [State.chan, vmod]
  · simp [State.chan, vmod]

/-- A channel that is disabled while it is busy drains, its shadow set empty and its active descriptor to be aborted. -/
theorem chanDisable_busy {s : State} {ch : ChanId} (h : (s.chan ch).state = .busy) :
    ((chanDisable s ch).chan ch).state = .draining ∧ ((chanDisable s ch).chan ch).shadowValid = false
      ∧ ((chanDisable s ch).chan ch).aborting = ((s.chan ch).activeValid || (s.chan ch).aborting)
      ∧ ((chanDisable s ch).chan ch).active = (s.chan ch).active := by
  have hchan : (chanDisable s ch).chan ch
      = markAbort { s.chan ch with
          enable := false, state := .draining, shadowValid := false
          lastStatus := if (s.chan ch).shadowValid then BitVec.ofNat 8 stAborted else (s.chan ch).lastStatus
          lastCtx := if (s.chan ch).shadowValid then (s.chan ch).shadow.ctx else (s.chan ch).lastCtx } := by
    unfold chanDisable
    simp only [h, dmaAbort_eq, chan_modDma_self]
    cases (s.chan ch).shadowValid <;> simp
  rw [hchan]
  cases hv : (s.chan ch).activeValid <;> simp [markAbort, hv]

theorem exec_dmaBurstIssue {s : State} {ch : ChanId} (hl : s.live = true) (hleft : burstLeft (s.chan ch) = true)
    (hlim : limiterHeld s (s.chan ch) = false) (hfree : channelFree s ch = true) :
    exec (.dmaBurstIssue ch) s = becomes s (match firstOnChip (s.chan ch).active (s.chan ch).nextBurst with
      | none => issueBurst s ch
      | some a =>
        if !memOpen s (Fin.ofNat 16 (s.chan ch).active.ctx.toNat) then
          modCtx s (Fin.ofNat 16 (s.chan ch).active.ctx.toNat) fun x =>
            { x with regMem := { regNow x.regMem s.now with held := true } }
        else if chanRoom s a then issueBurst s ch else s) := by
  change execDmaBurstIssue ch s = _
  rw [execDmaBurstIssue]
  exact working_true hl (by simp only [hleft, hlim, hfree, Bool.not_false, Bool.and_true])

/-- A burst of a fill reads nothing. -/
theorem issueBurst_fill {s : State} {ch : ChanId} (h : (s.chan ch).active.op = 1) :
    (issueBurst s ch).chip = s.chip ∧ ((issueBurst s ch).chan ch).nextBurst = (s.chan ch).nextBurst + 1 := by
  simp [issueBurst, readBurst, h]

/-- Settles O32: an abort marks the active descriptor; a burst issues where its first request can. -/
theorem dmaAbortAndBurst : Obligations.DmaAbortAndBurst := by
  refine fun s ch w => ⟨fun hl hon hst => ?_, fun hl hab hbusy => ?_, fun hl hleft hlim hfree hroom => ⟨?_, issueBurst_fill⟩,
    fun a hl hleft hlim hfree ha => ⟨fun hmem => ?_, fun hmem hroom => ?_⟩, fun h => ?_⟩
  · have h0 : bitAt (withBit w 1 true) 0 = true := (bitAt_withBit_of_ne true zero_ne_one).trans hon
    rw [exec_dmaAbort hl, writeDmaCtl, bitAt_withBit_one, h0, fld_withBit_of_lt true 15 (by decide), if_pos rfl,
      if_pos rfl, dmaAbort_eq, modDma_modDma, modDma_modDma]
    refine congrArg (writes s) (modDma_congr ?_)
    obtain hst | hst := hst <;> simp only [markAbort, hst]
    all_goals cases (s.chan ch).activeValid <;> simp [chanEnable]
  · refine ⟨_, exec_dmaChannelDisable hl hab, ?_⟩
    have hends := chanDisable_busy (s := modDma s ch (setShare w)) (ch := ch) (by simpa [setShare] using hbusy)
    rwa [chan_modDma_self] at hends
  · rw [exec_dmaBurstIssue hl hleft hlim hfree]
    cases hfirst : firstOnChip (s.chan ch).active (s.chan ch).nextBurst with
    | none => rfl
    | some a => simp only [hroom a hfirst, Bool.not_true, Bool.false_eq_true, if_false, if_true]
  · simp only [exec_dmaBurstIssue hl hleft hlim hfree, ha, hmem, Bool.not_false, if_true]
  · simp only [exec_dmaBurstIssue hl hleft hlim hfree, ha, hmem, hroom, Bool.not_true, Bool.false_eq_true, if_false]
  · change execDmaBurstIssue ch s = _
    rw [execDmaBurstIssue, working_false (by obtain h | h | h := h <;> simp [h]), finish_self]

end Sys2Proof.Proofs
end

section
/-!
PROOFS. The host rings: doorbells read, descriptors fetched and arriving (13 R292 to R300, R317).
-/
namespace Sys2Proof.Proofs

open Sys2Proof Sys2Proof.Machine

/-! ## The doorbell -/

/-- A polled context after the read of its doorbell: no word is a bus error. -/
def readDoorbell (word : Option (BitVec 64)) (x : Ctx) : Ctx :=
  match word with
  | none => { x with dbReading := false, fetchFailed := false, hostErr := true, pollNow := nextPoll x false }
  | some w =>
    if doorbellOk x (w.extractLsb' 0 32) (w.extractLsb' 32 32) then
      { x with
        dbReading := false, fetchFailed := false, tail := w.extractLsb' 0 32, head := w.extractLsb' 32 32
        pollNow := nextPoll x (w.extractLsb' 0 32 != x.tail || w.extractLsb' 32 32 != x.head) }
    else rejectDoorbell x

/-- The doorbell's read ends for a context that is polled. -/
theorem exec_doorbellReadDone_polled {s : State} {c : CtxId} (word : Option (BitVec 64)) (hl : s.live = true)
    (hr : (s.ctx c).dbReading = true) (hp : polled (s.ctx c) = true) :
    exec (.doorbellReadDone c word) s = becomes s (retryRecord (modCtx s c (readDoorbell word)) c) := by
  change execDoorbellReadDone c word s = _
  rw [execDoorbellReadDone, working_true hl hr, hp]
  refine congrArg (fun t => becomes s (retryRecord t c)) (modCtx_congr ?_)
  cases word with
  | none => rfl
  | some w => rfl

/-- Settles O33: the poll is due, or the word that was read is valid, or there was none. -/
theorem doorbellRead : Obligations.DoorbellRead := by
  refine ⟨fun s c hl hp hr hdue => ?_, fun s c hl hr hp => ⟨fun tail head hok => ?_, ?_⟩⟩
  · change execDoorbellPoll c s = _
    rw [execDoorbellPoll, working_true hl]
    cases hlast : (s.ctx c).lastPoll with
    | none => simp [hp, hr]
    | some t => simpa [hp, hr] using hdue t hlast
  · have htail : (head ++ tail).extractLsb' 0 32 = tail := BitVec.extractLsb'_append_eq_right
    have hhead : (head ++ tail).extractLsb' 32 32 = head := BitVec.extractLsb'_append_eq_left
    rw [exec_doorbellReadDone_polled _ hl hr hp]
    refine congrArg (fun t => becomes s (retryRecord t c)) (modCtx_congr ?_)
    simp only [readDoorbell, htail, hhead, hok, if_true, nextPoll]
    by_cases hsame : tail = (s.ctx c).tail ∧ head = (s.ctx c).head
    · simp [hsame]
    · rw [if_neg hsame, if_pos]
      simpa [bne_iff_ne, ← not_and_or] using hsame
  · exact exec_doorbellReadDone_polled none hl hr hp

/-! ## Descriptors -/

theorem fetchCount_le (x : Ctx) : fetchCount x ≤ 8 := Nat.min_le_left ..

/-- A descriptor that arrives in a live engine that is not in SAFE joins the ring walker. -/
theorem arrive_up {s : State} (hs : s.eng = .up) (c : CtxId) (headers : Bool) (raw : BitVec 512) :
    (arrive c headers s raw).eng = .up
    ∧ (arrive c headers s raw).ctx c = { s.ctx c with
        fetched := (s.ctx c).fetched + 1
        walker := (s.ctx c).walker ++
          [⟨(s.ctx c).fetched, if headers then (raw.setWidth 64).setWidth 512 else raw, false⟩] } := by
  simp [arrive, hs]

/-- Descriptors that arrive join the walker in their order, and F advances by their number. -/
theorem arrive_all_up (c : CtxId) (headers : Bool) (ds : List (BitVec 512)) : ∀ s : State, s.eng = .up →
    ((ds.foldl (arrive c headers) s).ctx c).fetching = (s.ctx c).fetching
    ∧ ((ds.foldl (arrive c headers) s).ctx c).fetched = (s.ctx c).fetched + BitVec.ofNat 32 ds.length
    ∧ ((ds.foldl (arrive c headers) s).ctx c).walker.map (·.raw) = (s.ctx c).walker.map (·.raw)
        ++ ds.map (fun d => if headers then (d.setWidth 64).setWidth 512 else d)
    ∧ ((ds.foldl (arrive c headers) s).ctx c).recs = (s.ctx c).recs := by
  induction ds with
  | nil => exact fun s _ => ⟨rfl, by simp, by simp, rfl⟩
  | cons d ds ih =>
    intro s hs
    obtain ⟨heng, hctx⟩ := arrive_up hs c headers d
    obtain ⟨hfetching, hfetched, hwalker, hrecs⟩ := ih _ heng
    rw [List.foldl_cons, hfetching, hfetched, hwalker, hrecs, hctx]
    refine ⟨rfl, ?_, by simp, rfl⟩
    rw [List.length_cons, Nat.add_comm ds.length 1, BitVec.ofNat_add]
    exact BitVec.add_assoc ..

/-- A descriptor that arrives in SAFE is answered with SAFE_STATE. -/
theorem arrive_safe {s : State} (hs : s.eng = .safe) (c : CtxId) (headers : Bool) (raw : BitVec 512) :
    (arrive c headers s raw).eng = .safe
    ∧ ((arrive c headers s raw).ctx c).walker = (s.ctx c).walker
    ∧ ∃ r : Rec, r.status = 0x60 ∧ ((arrive c headers s raw).ctx c).recs = (s.ctx c).recs ++ [r] := by
  simp [arrive, hs, completeErr, complete, closeRec, recOf, stSafe]

/-- In SAFE every descriptor that arrives has its record, and none reaches the ring walker. -/
theorem arrive_all_safe (c : CtxId) (headers : Bool) (ds : List (BitVec 512)) : ∀ s : State, s.eng = .safe →
    ((ds.foldl (arrive c headers) s).ctx c).walker = (s.ctx c).walker
    ∧ ((ds.foldl (arrive c headers) s).ctx c).recs.length = (s.ctx c).recs.length + ds.length
    ∧ ∀ r ∈ ((ds.foldl (arrive c headers) s).ctx c).recs, r ∈ (s.ctx c).recs ∨ r.status = 0x60 := by
  induction ds with
  | nil => exact fun s _ => ⟨rfl, rfl, fun r hr => .inl hr⟩
  | cons d ds ih =>
    intro s hs
    obtain ⟨heng, hw, q, hq, hr⟩ := arrive_safe hs c headers d
    obtain ⟨hwalker, hlen, hrecs⟩ := ih _ heng
    rw [hr] at hlen hrecs
    refine ⟨hwalker.trans hw, ?_, fun r hmem => ?_⟩
    · simpa [Nat.add_comm, Nat.add_left_comm, Nat.add_assoc] using hlen
    · obtain hmem | hsafe := hrecs r hmem
      · obtain hold | hnew := List.mem_append.1 hmem
        · exact .inl hold
        · exact .inr ((List.mem_singleton.1 hnew) ▸ hq)
      · exact .inr hsafe

theorem arrival_wf {c : CtxId} {ds : List (BitVec 512)} (h1 : 1 ≤ ds.length) (h8 : ds.length ≤ 8) :
    Instr.wf (.descriptorArrival c (some ds)) = true := by
  simp [Instr.wf, h1, h8]

/-- The descriptors of the read that is out arrive in a live engine. -/
theorem exec_descriptorArrival {s : State} {c : CtxId} {ds : List (BitVec 512)} {f : FetchRead} (hl : s.live = true)
    (h1 : 1 ≤ ds.length) (h8 : ds.length ≤ 8) (hf : (s.ctx c).fetching = some f) (hn : f.count = ds.length) :
    exec (.descriptorArrival c (some ds)) s
      = becomes s (ds.foldl (arrive c f.headers) (modCtx s c fun x => { x with fetching := none })) := by
  change execDescriptorArrival c (some ds) s = _
  rw [execDescriptorArrival, if_pos (arrival_wf h1 h8)]
  simp only [hf]
  exact working_true hl (by simp [hn])

/-- Settles O35: the read of the context whose turn it is, its descriptors as they arrive, and the bus error. -/
theorem descriptorsFetched : Obligations.DescriptorsFetched := by
  refine fun s c => ⟨fun hl hturn => ?_, fun ds f hs h1 h8 hf hn => ?_, fun ds f hs h1 h8 hf hn => ?_, fun hl hf => ?_⟩
  · change ∃ t, execDescriptorFetch c s = _ ∧ _
    refine ⟨_, working_true hl (by simp [hturn]), ?_, ?_, fetchCount_le _⟩
    · exact (congrArg Ctx.fetching (modCtx_ctx_self s c fun x => { x with fetching := some (nextRead s x) })).trans rfl
    · exact (congrArg Ctx.fetched (modCtx_ctx_self s c fun x => { x with fetching := some (nextRead s x) })).trans rfl
  · refine ⟨_, exec_descriptorArrival (by simp [State.live, hs]) h1 h8 hf hn, ?_⟩
    simpa using arrive_all_up c f.headers ds (modCtx s c fun x => { x with fetching := none }) hs
  · refine ⟨_, exec_descriptorArrival (by simp [State.live, hs]) h1 h8 hf hn, ?_⟩
    simpa using arrive_all_safe c f.headers ds (modCtx s c fun x => { x with fetching := none }) hs
  · change execDescriptorArrival c none s = _
    have hwf : Instr.wf (.descriptorArrival c none) = true := rfl
    rw [execDescriptorArrival, if_pos hwf]
    exact working_true hl hf

end Sys2Proof.Proofs
end

section
/-!
PROOFS. Writes of zeros to chip memory where nothing waits for its port (15 R337, R338), as the reset of a context makes them.
-/
namespace Sys2Proof.Proofs

open Sys2Proof Sys2Proof.Machine

/-! ## Pieces of a short range -/

/-- A range of at most 64 bytes is one request, or two where it crosses 4 KiB. -/
theorem reqPieces_short {n : Nat} (a fuel : Nat) (h0 : 0 < n) (h64 : n ≤ 64) :
    reqPieces (fuel + 2) a n = if a % 4096 + n ≤ 4096 then [(a, n)]
      else [(a, 4096 - a % 4096), (a + (4096 - a % 4096), n - (4096 - a % 4096))] := by
  have hn : (n == 0) = false := by simpa using Nat.ne_of_gt h0
  have hnil (b : Nat) : ∀ f, reqPieces f b 0 = [] := fun f => by cases f <;> rfl
  have hlt := Nat.mod_lt a (show 0 < 4096 by decide)
  have h64' := Nat.mod_lt a (show 0 < 64 by decide)
  by_cases hfit : a % 4096 + n ≤ 4096
  · have hk : min n (min (4096 - a % 4096) (2048 - a % 64)) = n := by omega
    rw [if_pos hfit, reqPieces, hn]
    simp [hk, hnil]
  · have hk : min n (min (4096 - a % 4096) (2048 - a % 64)) = 4096 - a % 4096 := by omega
    have hrest : (n - (4096 - a % 4096) == 0) = false := by
      simp only [beq_eq_false_iff_ne]
      omega
    have hnext := Nat.mod_lt (a + (4096 - a % 4096)) (show 0 < 64 by decide)
    have hk' : min (n - (4096 - a % 4096))
        (min (4096 - (a + (4096 - a % 4096)) % 4096) (2048 - (a + (4096 - a % 4096)) % 64)) = n - (4096 - a % 4096) := by
      omega
    rw [if_neg hfit, reqPieces, hn]
    simp only [hk, Bool.false_eq_true, if_false]
    rw [reqPieces, hrest]
    simp [hk', hnil]

/-! ## Requests that nothing holds -/

/-- A write of zeros, that no regulator holds and no channel issues. -/
structure Zeroing (r : MemReq) : Prop where
  write : r.write = true
  charge : r.charge = none
  chan : r.owner.dmaChan = none
  zero : ∀ i, r.data.getD i 0 = 0

theorem mem_indexed {α : Type} {l : List α} {i : Nat} {x : α} (h : (i, x) ∈ indexed l) : l[i]? = some x := by
  obtain ⟨k, hk, hget⟩ := List.mem_iff_getElem.1 h
  simp only [indexed, List.getElem_zip, List.getElem_range, Prod.mk.injEq] at hget
  obtain ⟨rfl, rfl⟩ := hget
  exact List.getElem?_eq_getElem _

theorem foldl_choose_mem {α : Type} (p : α → α → Bool) (l : List α) : ∀ x : α,
    l.foldl (fun best y => if p y best then y else best) x ∈ x :: l := by
  induction l with
  | nil => exact fun x => List.mem_singleton.2 rfl
  | cons y l ih =>
    intro x
    rw [List.foldl_cons]
    split
    · exact List.mem_cons_of_mem _ (ih y)
    · obtain h | h := List.mem_cons.1 (ih x)
      · rw [h]
        exact List.mem_cons_self ..
      · exact List.mem_cons_of_mem _ (List.mem_cons_of_mem _ h)

theorem firstMin_mem {α : Type} {p : α → α → Bool} {l : List α} {x : α} (h : firstMin p l = some x) : x ∈ l := by
  cases l with
  | nil => cases h
  | cons y l => exact (Option.some.inj h) ▸ foldl_choose_mem p l y

theorem firstMin_eq_none {α : Type} {p : α → α → Bool} {l : List α} (h : firstMin p l = none) : l = [] := by
  cases l with
  | nil => rfl
  | cons y l => cases h

/-- Where every request that waits is a write of zeros and the port has room, one of them is served next. -/
theorem nextReq_zeroing {s : State} (hz : ∀ r ∈ s.memWait, Zeroing r) (hroom : s.memOut.length < 256)
    (hne : s.memWait ≠ []) : ∃ i r, nextReq s = some (i, r) ∧ s.memWait[i]? = some r := by
  have hall : ((indexed s.memWait).filter fun p => reqReady s p.2 && chanFront s p) = indexed s.memWait := by
    refine List.filter_eq_self.2 fun p hp => ?_
    have hr := hz p.2 (List.mem_of_getElem? (mem_indexed hp))
    have hchan : chanRoom s p.2.addr = true :=
      decide_eq_true (Nat.lt_of_le_of_lt (List.length_filter_le ..) hroom)
    simp [reqReady, chanFront, hr.charge, hr.chan, hchan]
  cases hn : nextReq s with
  | none =>
    unfold nextReq at hn
    rw [hall] at hn
    have hlen := congrArg List.length (firstMin_eq_none hn)
    rw [indexed, List.length_zip, List.length_range, Nat.min_self] at hlen
    exact absurd (List.length_eq_zero_iff.1 hlen) hne
  | some p =>
    unfold nextReq at hn
    rw [hall] at hn
    exact ⟨p.1, p.2, rfl, mem_indexed (firstMin_mem hn)⟩

/-- A write of zeros issued. -/
theorem issueReq_zeroing {s : State} {r : MemReq} (hr : Zeroing r) :
    (issueReq s r).ctxs = s.ctxs ∧ (issueReq s r).memWait = s.memWait
    ∧ (issueReq s r).memOut.length = s.memOut.length + 1
    ∧ ∀ x, memByte (issueReq s r).chip x = if r.addr ≤ x ∧ x < r.addr + r.data.length then 0 else memByte s.chip x := by
  refine ⟨?_, ?_, ?_, fun x => ?_⟩
  · simp [issueReq, hr.charge]
  · simp [issueReq, hr.charge]
  · simp [issueReq, hr.charge, hr.write]
  · simp only [issueReq, hr.charge, hr.write, if_true, servedBy, memByte_memWrite, hr.zero]

/-- Some request of a list covers an address. -/
def Covered (rs : List MemReq) (x : Nat) : Prop := ∃ r ∈ rs, r.addr ≤ x ∧ x < r.addr + r.data.length

theorem covered_eraseIdx {rs : List MemReq} {i : Nat} {r : MemReq} (h : rs[i]? = some r) (x : Nat) :
    Covered rs x ↔ (r.addr ≤ x ∧ x < r.addr + r.data.length) ∨ Covered (rs.eraseIdx i) x := by
  obtain ⟨hi, hget⟩ := List.getElem?_eq_some_iff.1 h
  have hperm : rs.Perm (r :: rs.eraseIdx i) := by
    rw [← hget]
    exact (List.getElem_cons_eraseIdx_perm hi).symm
  simp only [Covered, hperm.mem_iff, List.mem_cons, or_and_right, exists_or, exists_eq_left]

/-- Writes of zeros that wait, with room at the port, all issue. -/
theorem pumpMem_zeroing (n : Nat) : ∀ s : State, s.memWait.length ≤ n → s.memOut.length + s.memWait.length ≤ 256 →
    (∀ r ∈ s.memWait, Zeroing r) →
    (pumpMem n s).ctxs = s.ctxs ∧ (pumpMem n s).memWait = []
    ∧ (pumpMem n s).memOut.length = s.memOut.length + s.memWait.length
    ∧ ∀ x, (Covered s.memWait x → memByte (pumpMem n s).chip x = 0)
      ∧ (¬ Covered s.memWait x → memByte (pumpMem n s).chip x = memByte s.chip x) := by
  induction n with
  | zero =>
    intro s hn _ _
    have hnil : s.memWait = [] := List.length_eq_zero_iff.1 (Nat.le_zero.1 hn)
    simp [pumpMem, hnil, Covered]
  | succ n ih =>
    intro s hn hroom hz
    by_cases hnil : s.memWait = []
    · have hnone : nextReq s = none := by simp [nextReq, hnil, indexed, firstMin]
      simp [pumpMem, hnone, hnil, Covered]
    · have hpos := List.length_pos_iff.2 hnil
      obtain ⟨i, r, hnext, hget⟩ := nextReq_zeroing hz (by omega) hnil
      obtain ⟨hi, -⟩ := List.getElem?_eq_some_iff.1 hget
      have hlen := List.length_eraseIdx_of_lt hi
      obtain ⟨hctxs, hwait, hout, hbyte⟩ :=
        issueReq_zeroing (s := { s with memWait := s.memWait.eraseIdx i }) (hz r (List.mem_of_getElem? hget))
      simp only [pumpMem, hnext]
      obtain ⟨kctxs, kwait, kout, kbyte⟩ := ih (issueReq { s with memWait := s.memWait.eraseIdx i } r)
        (by rw [hwait, hlen]; omega) (by rw [hwait, hout, hlen]; simp only; omega)
        (by rw [hwait]; exact fun q hq => hz q (List.mem_of_mem_eraseIdx hq))
      refine ⟨kctxs.trans hctxs, kwait, ?_, fun x => ?_⟩
      · rw [kout, hout, hwait, hlen]
        simp only
        omega
      · obtain ⟨kzero, kkeep⟩ := kbyte x
        rw [hwait] at kzero kkeep
        rw [covered_eraseIdx hget x]
        by_cases hrest : Covered (s.memWait.eraseIdx i) x
        · exact ⟨fun _ => kzero hrest, fun h => absurd (.inr hrest) h⟩
        · rw [kkeep hrest, hbyte]
          exact ⟨fun h => if_pos (h.resolve_right hrest), fun h => if_neg fun hr => h (.inl hr)⟩

/-- The save record's write makes no write of a channel. -/
theorem writeReqs_zeroing {o : MemOwner} (ho : o.dmaChan = none) (a k rank : Nat) :
    ∀ r ∈ writeReqs o a (List.replicate k 0) rank none, Zeroing r := by
  intro r hr
  obtain ⟨p, -, rfl⟩ := List.mem_map.1 hr
  refine ⟨rfl, rfl, ho, fun i => ?_⟩
  simp [slice, List.drop_replicate, List.take_replicate]

/-- A write of one byte is one request of it. -/
theorem writeReqs_byte (o : MemOwner) (a rank : Nat) :
    writeReqs o a [0] rank none = [⟨0, o, true, a, 1, [0], [], [], rank, none⟩] := by
  have hk : min 1 (min (4096 - a % 4096) (2048 - a % 64)) = 1 := by
    have hlt := Nat.mod_lt a (show 0 < 4096 by decide)
    have hlt' := Nat.mod_lt a (show 0 < 64 by decide)
    omega
  simp [writeReqs, reqPieces, hk, slice]

/-- A write of zeros to a port where nothing waits. -/
theorem writeMem_zeros {s : State} {o : MemOwner} (ho : o.dmaChan = none) (a k rank : Nat) (hw : s.memWait = [])
    (hroom : s.memOut.length + (writeReqs o a (List.replicate k 0) rank none).length ≤ 256) :
    (writeMem s o a (List.replicate k 0) rank none).ctxs = s.ctxs
    ∧ (writeMem s o a (List.replicate k 0) rank none).memWait = []
    ∧ (writeMem s o a (List.replicate k 0) rank none).memOut.length
      = s.memOut.length + (writeReqs o a (List.replicate k 0) rank none).length
    ∧ ∀ x, (Covered (writeReqs o a (List.replicate k 0) rank none) x →
          memByte (writeMem s o a (List.replicate k 0) rank none).chip x = 0)
      ∧ (¬ Covered (writeReqs o a (List.replicate k 0) rank none) x →
          memByte (writeMem s o a (List.replicate k 0) rank none).chip x = memByte s.chip x) := by
  have h := pumpMem_zeroing (writeReqs o a (List.replicate k 0) rank none).length
    { s with memWait := writeReqs o a (List.replicate k 0) rank none } (Nat.le_refl _) hroom
    (writeReqs_zeroing ho a k rank)
  simpa only [writeMem, request, hw, List.nil_append] using h

/-- What the requests of a short write of zeros cover, and how many they are. -/
theorem writeReqs_short {k : Nat} (o : MemOwner) (a rank : Nat) (h0 : 1 < k) (h64 : k ≤ 64) :
    (writeReqs o a (List.replicate k 0) rank none).length ≤ 2
    ∧ ∀ x, Covered (writeReqs o a (List.replicate k 0) rank none) x ↔ a ≤ x ∧ x < a + k := by
  obtain ⟨f, rfl⟩ : ∃ f, k = f + 2 := ⟨k - 2, by omega⟩
  have hlt := Nat.mod_lt a (show 0 < 4096 by decide)
  simp only [writeReqs, List.length_replicate, reqPieces_short a f (Nat.succ_pos _) h64]
  split
  · simp [Covered, slice]
  · refine ⟨by simp, fun x => ?_⟩
    simp only [Covered, slice, List.map_cons, List.map_nil, List.mem_cons, List.not_mem_nil, or_false, or_and_right,
      exists_or, exists_eq_left, List.length_take, List.length_drop, List.length_replicate]
    omega

end Sys2Proof.Proofs
end

section
/-!
PROOFS. Drains that end and resets that clear a context (12 R283 to R286, 13 R293).
-/
namespace Sys2Proof.Proofs

open Sys2Proof Sys2Proof.Machine

/-! ## Work on one context that leaves the memory port -/

/-- The memory port and chip memory stay, and so does every other context; of the context itself its save address and
whether it drains. -/
structure OnCtx (c : CtxId) (s t : State) : Prop where
  memWait : t.memWait = s.memWait
  memOut : t.memOut = s.memOut
  chip : t.chip = s.chip
  others : ∀ d, d ≠ c → t.ctx d = s.ctx d
  save : (t.ctx c).save = (s.ctx c).save
  drainBusy : (t.ctx c).drainBusy = (s.ctx c).drainBusy

section
variable {c : CtxId}

theorem OnCtx.refl (s : State) : OnCtx c s s := ⟨rfl, rfl, rfl, fun _ _ => rfl, rfl, rfl⟩

theorem OnCtx.trans {s t u : State} (h : OnCtx c s t) (k : OnCtx c t u) : OnCtx c s u :=
  ⟨k.memWait.trans h.memWait, k.memOut.trans h.memOut, k.chip.trans h.chip,
    fun d hd => (k.others d hd).trans (h.others d hd), k.save.trans h.save, k.drainBusy.trans h.drainBusy⟩

theorem OnCtx.foldl {α : Type} {f : State → α → State} (hf : ∀ u x, OnCtx c u (f u x)) (l : List α) :
    ∀ s, OnCtx c s (l.foldl f s) := by
  induction l with
  | nil => exact fun s => .refl s
  | cons x l ih => exact fun s => (hf s x).trans (ih (f s x))

theorem OnCtx.modCtx {s : State} {f : Ctx → Ctx} (hsave : (f (s.ctx c)).save = (s.ctx c).save)
    (hdrain : (f (s.ctx c)).drainBusy = (s.ctx c).drainBusy) : OnCtx c s (modCtx s c f) :=
  ⟨rfl, rfl, rfl, fun _ hd => modCtx_ctx_ne s f hd, (congrArg _ (modCtx_ctx_self ..)).trans hsave,
    (congrArg _ (modCtx_ctx_self ..)).trans hdrain⟩

theorem hostIssue_onCtx (s : State) (o : HostOwner) (w : Bool) (a n : Nat) (data : List Byte) :
    OnCtx c s (hostIssue s o w a n data) := ⟨rfl, rfl, rfl, fun _ _ => rfl, rfl, rfl⟩

theorem complete_onCtx (s : State) (u : UnitId) (j : Job) (st v0 v1 v2 : Nat) :
    OnCtx c s (complete s c u j st v0 v1 v2) := .modCtx rfl rfl

theorem abortBoundary_onCtx (s : State) : OnCtx c s (abortBoundary s c) := by
  refine OnCtx.foldl (fun u d => ?_) _ s
  split
  · exact complete_onCtx ..
  · exact .refl u

theorem flushRecs_onCtx (s : State) : OnCtx c s (flushRecs s c) := by
  refine OnCtx.trans ?_ (.modCtx rfl rfl)
  refine OnCtx.trans (t := { s with hostOut := s.hostOut.map fun h =>
    if h.owner == (.record c) then { h with owner := .lastRecord c } else h }) ?_
    (.foldl (fun u x => hostIssue_onCtx ..) _ _)
  exact ⟨rfl, rfl, rfl, fun _ _ => rfl, rfl, rfl⟩

end

/-! ## The save record -/

theorem clearSave_portMoves (s : State) (c : CtxId) : PortMoves s (clearSave s c) :=
  (writeMem_portMoves ..).trans (writeMem_portMoves ..)

/-- With nothing waiting for the memory port the fields that name a descriptor in progress are zero at once. -/
theorem clearSave_zeros {s : State} {c : CtxId} (hw : s.memWait = []) (hroom : s.memOut.length < 250) :
    (clearSave s c).ctxs = s.ctxs
    ∧ ∀ a, memByte (clearSave s c).chip a =
        if a = (s.ctx c).save.toNat + 0x12 ∨ ((s.ctx c).save.toNat + 0x18 ≤ a ∧ a < (s.ctx c).save.toNat + 0x2C) then 0
        else memByte s.chip a := by
  obtain ⟨o, ho⟩ : ∃ o, o = MemOwner.saveWrite c (s.ctx c).saves := ⟨_, rfl⟩
  have hchan : o.dmaChan = none := by rw [ho]; rfl
  have hbyte := writeReqs_byte o ((s.ctx c).save.toNat + 0x12) 2
  obtain ⟨hctxs, hwait, hout, hfirst⟩ := writeMem_zeros hchan ((s.ctx c).save.toNat + 0x12) 1 2 hw
    (by rw [List.replicate_one, hbyte, List.length_singleton]; omega)
  simp only [List.replicate_one, hbyte, List.length_singleton] at hctxs hwait hout hfirst
  obtain ⟨hlen, hcov⟩ := writeReqs_short (k := 20) o ((s.ctx c).save.toNat + 0x18) 2 (by decide) (by decide)
  obtain ⟨kctxs, -, -, hsecond⟩ := writeMem_zeros (k := 20) hchan ((s.ctx c).save.toNat + 0x18) 2 hwait (by omega)
  have hsave : clearSave s c = writeMem (writeMem s o ((s.ctx c).save.toNat + 0x12) [0] 2 none) o
      ((s.ctx c).save.toNat + 0x18) (List.replicate 20 0) 2 none := by rw [ho]; rfl
  rw [hsave]
  refine ⟨kctxs.trans hctxs, fun a => ?_⟩
  obtain ⟨kzero, kkeep⟩ := hsecond a
  obtain ⟨hzero, hkeep⟩ := hfirst a
  have hcovByte : Covered [(⟨0, o, true, (s.ctx c).save.toNat + 0x12, 1, [0], [], [], 2, none⟩ : MemReq)] a
      ↔ a = (s.ctx c).save.toNat + 0x12 := by
    simp only [Covered, List.mem_singleton, exists_eq_left, List.length_singleton]
    omega
  rw [hcov a] at kzero kkeep
  rw [hcovByte] at hzero hkeep
  by_cases hrest : (s.ctx c).save.toNat + 0x18 ≤ a ∧ a < (s.ctx c).save.toNat + 0x2C
  · rw [if_pos (.inr hrest), kzero hrest]
  · rw [kkeep hrest]
    by_cases hbyte : a = (s.ctx c).save.toNat + 0x12
    · rw [if_pos (.inl hbyte), hzero hbyte]
    · rw [if_neg (fun h => h.elim hbyte hrest), hkeep hbyte]

/-! ## A reset -/

/-- The tables and the context's own fields go. -/
def clearTables (s : State) (c : CtxId) : State :=
  modCtx { s with
    seqs := s.seqs.filter fun e => e.2.ctx != c
    owner := s.owner.filter fun e => e.2.ctx != c } c fun x => { x with
      state := .idle, enabled := false, enablePending := false, resetPending := false, faultStatus := 0
      tensors := [], fetched := 0, written := 0, tail := 0, head := 0, dbReading := false, fetching := none
      walker := [], dealt := x.dealt.filter fun d => !d.2.boundary, tp := [], saveValid := false, leaving := none }

theorem resetCtx_eq (s : State) (c : CtxId) :
    resetCtx s c = clearTables (clearSave (flushRecs (abortBoundary s c) c) c) c := by
  rw [resetCtx, clearTables]

theorem clearTables_others (s : State) {c d : CtxId} (hd : d ≠ c) : (clearTables s c).ctx d = s.ctx d :=
  modCtx_ctx_ne _ _ hd

theorem clearTables_self (s : State) (c : CtxId) :
    ((clearTables s c).ctx c).state = .idle ∧ ((clearTables s c).ctx c).enabled = false
    ∧ ((clearTables s c).ctx c).fetched = 0 ∧ ((clearTables s c).ctx c).written = 0
    ∧ ((clearTables s c).ctx c).tail = 0 ∧ ((clearTables s c).ctx c).head = 0
    ∧ ((clearTables s c).ctx c).tensors = [] ∧ ((clearTables s c).ctx c).drainBusy = (s.ctx c).drainBusy := by
  simp [clearTables, State.ctx, modCtx, vmod]

/-- No entry of the context is left in a table. -/
theorem clearTables_tables (s : State) (c : CtxId) :
    (∀ e ∈ (clearTables s c).seqs, e.2.ctx ≠ c) ∧ (∀ e ∈ (clearTables s c).owner, e.2.ctx ≠ c) :=
  ⟨fun _ he => bne_iff_ne.1 (List.mem_filter.1 he).2, fun _ he => bne_iff_ne.1 (List.mem_filter.1 he).2⟩

theorem clearTables_chip (s : State) (c : CtxId) : (clearTables s c).chip = s.chip := rfl

/-- The records and the descriptors that wait for the boundary go before the save record's fields. -/
theorem flushed_onCtx (s : State) (c : CtxId) : OnCtx c s (flushRecs (abortBoundary s c) c) :=
  (abortBoundary_onCtx s).trans (flushRecs_onCtx _)

theorem resetCtx_drainBusy (s : State) (c : CtxId) : ((resetCtx s c).ctx c).drainBusy = (s.ctx c).drainBusy := by
  have hon := flushed_onCtx s c
  obtain ⟨t, ht⟩ : ∃ t, t = flushRecs (abortBoundary s c) c := ⟨_, rfl⟩
  obtain ⟨-, -, -, -, -, -, -, hclear⟩ := clearTables_self (clearSave t c) c
  obtain ⟨r, hr⟩ := (clearSave_portMoves t c).1 c
  rw [← ht] at hon
  rw [resetCtx_eq, ← ht, hclear, hr]
  exact hon.drainBusy

/-- Of another context a reset leaves all but what the port charges. -/
theorem resetCtx_ctx (s : State) {c d : CtxId} (hd : d ≠ c) :
    { (resetCtx s c).ctx d with regMem := (s.ctx d).regMem } = s.ctx d := by
  rw [resetCtx_eq, clearTables_others _ hd, ← (flushed_onCtx s c).others d hd]
  exact (clearSave_portMoves _ c).ctx d

/-- A reset where nothing waits for the memory port. -/
theorem resetCtx_memory {s : State} {c : CtxId} (hw : s.memWait = []) (hroom : s.memOut.length < 250) :
    (∀ d, d ≠ c → (resetCtx s c).ctx d = s.ctx d)
    ∧ ∀ a, memByte (resetCtx s c).chip a =
        if a = (s.ctx c).save.toNat + 0x12 ∨ ((s.ctx c).save.toNat + 0x18 ≤ a ∧ a < (s.ctx c).save.toNat + 0x2C) then 0
        else memByte s.chip a := by
  have hon := flushed_onCtx s c
  rw [resetCtx_eq]
  generalize flushRecs (abortBoundary s c) c = t at hon
  obtain ⟨hctxs, hbytes⟩ := clearSave_zeros (s := t) (c := c) (hon.memWait.trans hw) (by rwa [hon.memOut])
  refine ⟨fun d hd => ?_, fun a => ?_⟩
  · rw [clearTables_others _ hd, ← hon.others d hd]
    exact congrArg (·[d]) hctxs
  · rw [clearTables_chip, hbytes, hon.save, hon.chip]

/-! ## The end of a drain -/

/-- The drain's own end, before what waits for it. -/
def undrained (x : Ctx) : Ctx :=
  { x with drainBusy := false, drainRecs := [], state := if x.state == .draining then .idle else x.state }

theorem exec_drainEnd {s : State} {c : CtxId} (hl : s.live = true) (hd : drained s c = true) :
    exec (.drainEnd c) s = becomes s (endDrain s c) := by
  change execDrainEnd c s = _
  exact working_true hl hd

theorem endDrain_reset {s : State} {c : CtxId} (h : (s.ctx c).resetPending = true) :
    endDrain s c = if (s.ctx c).destroyPending then freeCtx (resetCtx (modCtx s c undrained) c) c
      else resetCtx (modCtx s c undrained) c := if_pos h

theorem endDrain_noReset {s : State} {c : CtxId} (h : (s.ctx c).resetPending = false) :
    endDrain s c = if (s.ctx c).state == .draining && (s.ctx c).enablePending then
      modCtx (modCtx s c undrained) c enableNow else modCtx s c undrained := if_neg (by simp [h])

/-- Settles O36: what waits for a drain's end is done then, and what a reset clears. -/
theorem drainsAndResets : Obligations.DrainsAndResets := by
  refine ⟨fun s c hl hd => ?_, fun s c => ?_⟩
  · rw [exec_drainEnd hl hd]
    have hidle (hst : (s.ctx c).state = .draining) : modCtx s c undrained
        = modCtx s c fun x => { x with drainBusy := false, drainRecs := [], state := .idle } :=
      modCtx_congr (by simp [undrained, hst])
    refine ⟨fun hr hst he => ?_, fun hr hst he => ?_, fun hr hst => ?_, fun hr hdes => ?_, fun hr hdes => ?_⟩
    · rw [endDrain_noReset hr, hst, he, hidle hst]
      rfl
    · rw [endDrain_noReset hr, hst, he, hidle hst]
      rfl
    · rw [endDrain_noReset hr, hst]
      exact congrArg (becomes s) (modCtx_congr (by simp [undrained, hst]))
    · rw [endDrain_reset hr, hdes]
      refine ⟨resetCtx (modCtx s c undrained) c, rfl, ?_⟩
      have hdrain := resetCtx_drainBusy (modCtx s c undrained) c
      rw [resetCtx_eq] at hdrain ⊢
      obtain ⟨hstate, -, hfetched, -⟩ := clearTables_self
        (clearSave (flushRecs (abortBoundary (modCtx s c undrained) c) c) c) c
      exact ⟨hstate, hfetched, hdrain.trans (by simp [undrained])⟩
    · rw [endDrain_reset hr, hdes]
      refine ⟨freeCtx (resetCtx (modCtx s c undrained) c) c, rfl, ?_⟩
      rw [freeCtx, modCtx_ctx_self]
  · have hothers := @resetCtx_ctx s c
    have hmem := @resetCtx_memory s c
    rw [resetCtx_eq] at hothers hmem ⊢
    generalize clearSave (flushRecs (abortBoundary s c) c) c = t at *
    obtain ⟨hstate, hen, hfetched, hwritten, htail, hhead, htensors, -⟩ := clearTables_self t c
    obtain ⟨hseqs, howner⟩ := clearTables_tables t c
    exact ⟨hstate, hen, hfetched, hwritten, htail, hhead, htensors, hseqs, howner, fun d hd => hothers hd, hmem⟩

end Sys2Proof.Proofs
end

section
/-!
PROOFS. The scheduler: the pick, pre-emption and its limit, and mode changes (12 R277 to R282, 11 R253, R254).
-/
namespace Sys2Proof.Proofs

open Sys2Proof Sys2Proof.Machine

/-! ## The pick -/

theorem cyclicAfter_mem {last : Option CtxId} {cs : List CtxId} {c : CtxId} (h : cyclicAfter last cs = some c) : c ∈ cs := by
  unfold cyclicAfter at h
  split at h
  · exact List.mem_of_head? h
  · exact firstMin_mem h

theorem cyclicAfter_eq_none {last : Option CtxId} {cs : List CtxId} (h : cyclicAfter last cs = none) : cs = [] := by
  unfold cyclicAfter at h
  split at h
  · exact List.head?_eq_none_iff.1 h
  · exact firstMin_eq_none h

theorem mem_fins16 (d : CtxId) : d ∈ fins 16 := by revert d; decide

/-- What the scheduler picks is QUEUED, and LC where any QUEUED context is. -/
theorem pickCtx_some {s : State} {c : CtxId} (h : pickCtx s = some c) :
    (s.ctx c).state = .queued ∧ ((∃ d, (s.ctx d).state = .queued ∧ (s.ctx d).lc = true) → (s.ctx c).lc = true) := by
  unfold pickCtx at h
  dsimp only at h
  split at h
  · next hpick =>
    cases h
    obtain ⟨hq, hlc⟩ := List.mem_filter.1 (cyclicAfter_mem hpick)
    exact ⟨by simpa using (List.mem_filter.1 hq).2, fun _ => hlc⟩
  · next hnone =>
    obtain ⟨hq, -⟩ := List.mem_filter.1 (cyclicAfter_mem h)
    refine ⟨by simpa using (List.mem_filter.1 hq).2, fun ⟨d, hd, hlc⟩ => ?_⟩
    have hmem : d ∈ ((fins 16).filter fun c => (s.ctx c).state == .queued).filter fun c => (s.ctx c).lc :=
      List.mem_filter.2 ⟨List.mem_filter.2 ⟨mem_fins16 d, by simpa using hd⟩, hlc⟩
    rw [cyclicAfter_eq_none hnone] at hmem
    cases hmem

/-- A request leaves the slices. -/
theorem PortMoves.slices {s t : State} (h : PortMoves s t) : t.slices = s.slices := by rw [h.2]

theorem runCtx_self (s : State) (c : CtxId) :
    ((runCtx s c).ctx c).state = .running
    ∧ ∀ l : SliceId, (runCtx s c).slices[l].det = (s.ctx c).det ∧ (runCtx s c).slices[l].pace = (s.ctx c).pace := by
  unfold runCtx
  dsimp only
  refine ⟨?_, fun l => ?_⟩
  · rw [(request_portMoves _ _).state c]
    exact congrArg Ctx.state (modCtx_ctx_self _ c fun x => { x with state := .running, resumed := false })
  · rw [(request_portMoves _ _).slices]
    simp [loadMode, vmap, State.ctx, modCtx, vmod]

/-! ## Pre-emption -/

/-- No context's state changes. -/
structure Standing (s t : State) : Prop where
  state : ∀ d : CtxId, (t.ctx d).state = (s.ctx d).state

theorem Standing.refl (s : State) : Standing s s := ⟨fun _ => rfl⟩

theorem Standing.trans {s t u : State} (h : Standing s t) (k : Standing t u) : Standing s u :=
  ⟨fun d => (k.state d).trans (h.state d)⟩

theorem Standing.foldl {α : Type} {f : State → α → State} (hf : ∀ u x, Standing u (f u x)) (l : List α) :
    ∀ s, Standing s (l.foldl f s) := by
  induction l with
  | nil => exact fun s => .refl s
  | cons x l ih => exact fun s => (hf s x).trans (ih (f s x))

theorem Standing.modCtx (s : State) (c : CtxId) {f : Ctx → Ctx} (hf : ∀ x, (f x).state = x.state) :
    Standing s (modCtx s c f) := by
  refine ⟨fun d => ?_⟩
  rw [modCtx_ctx]
  split
  · exact hf _
  · rfl

theorem PortMoves.standing {s t : State} (h : PortMoves s t) : Standing s t := ⟨h.state⟩

/-- What keeps the contexts keeps their states. -/
theorem Standing.of_ctxs {s t : State} (h : t.ctxs = s.ctxs) : Standing s t :=
  ⟨fun d => congrArg (fun v : Vector Ctx 16 => v[d].state) h⟩

theorem missTicks_standing (s : State) (t : Tile) : Standing s (missTicks s t) := by
  unfold missTicks
  split
  · exact .modCtx _ _ fun _ => rfl
  · exact .refl s

theorem undoRecords_standing (s : State) (t : Tile) : Standing s (undoRecords s t) :=
  (Standing.of_ctxs (by rfl)).trans (.foldl (fun u p => (writeMem_portMoves ..).standing) _ (dropWaiting s t.ctx t.epoch))

theorem modPeer_standing (s : State) (chip : BitVec 16) (engine : Bool) (f : Peer → Peer) :
    Standing s (modPeer s chip engine f) := .of_ctxs (by simp)

theorem dropOutstanding_standing (s : State) (t : Tile) : Standing s (dropOutstanding s t) := by
  refine .foldl (fun u x => ?_) _ s
  dsimp only
  split
  · exact .refl u
  · exact modPeer_standing ..

theorem abortPackets_standing (s : State) (p : Packet → Bool) : Standing s (abortPackets s p) := .of_ctxs (by rfl)

theorem abandonTile_standing (s : State) (t : Tile) : Standing s (abandonTile s t) := by
  unfold abandonTile
  dsimp only
  refine Standing.trans ?_ (.modCtx _ _ fun _ => rfl)
  refine Standing.trans ?_ (dropOutstanding_standing _ t)
  have h := ((missTicks_standing s t).trans (undoRecords_standing _ t)).trans
    (abortPackets_standing _ (isPktOf t.ctx t.epoch))
  exact ⟨h.state⟩

theorem sendMsg_standing (s : State) (chip : BitVec 16) (engine : Bool) (m : TxMsg) : Standing s (sendMsg s chip engine m) := by
  unfold sendMsg
  split
  · exact .refl s
  · split
    · exact .of_ctxs (by simp)
    · split <;> exact .of_ctxs rfl

theorem abandonFor_standing (s : State) (c : CtxId) (pre drain : Bool) : Standing s (abandonFor s c pre drain) := by
  unfold abandonFor
  dsimp only
  refine Standing.trans ?_ (.foldl (fun u p => sendMsg_standing ..) _ _)
  refine Standing.trans ?_ (.modCtx _ _ fun _ => rfl)
  exact (Standing.of_ctxs (by rfl)).trans (.foldl abandonTile_standing _ (killReads s (· == .prep c)))

theorem freeBank_ctxs (s : State) (t : Tile) : (freeBank s t).ctxs = s.ctxs := by
  unfold freeBank
  split <;> rfl

theorem withdrawTile_standing (s : State) (t : Tile) : Standing s (withdrawTile s t) := by
  unfold withdrawTile
  dsimp only
  refine Standing.trans ?_ (.modCtx _ _ fun _ => rfl)
  refine Standing.trans ?_ (.modCtx _ _ fun _ => rfl)
  exact (missTicks_standing s t).trans (.of_ctxs (freeBank_ctxs _ t))

theorem preempt_self (s : State) (c : CtxId) : ((preempt s c).ctx c).state = .preempting := by
  obtain ⟨u, hu⟩ : ∃ u, u = acctAdd (modCtx { s with sched := { s.sched with
      preemptSince := s.tick, limitInForce := s.sched.limit } } c fun x => { x with state := .preempting, leaving := none }) c 2 1 :=
    ⟨_, rfl⟩
  have hstate : (u.ctx c).state = .preempting := by
    rw [hu, acctAdd, modCtx_ctx_self, modCtx_ctx_self]
  have hstand : Standing u (preempt s c) := by
    unfold preempt
    dsimp only
    rw [← hu]
    split
    · exact abandonFor_standing ..
    · exact (Standing.of_ctxs (by rfl)).trans (.foldl withdrawTile_standing _ (killReads u (· == .prep c)))
  rw [hstand.state c, hstate]

/-! ## The limit -/

/-- An abandoned tile. -/
def markDead (t x : Tile) : Tile :=
  if x.ctx == t.ctx && x.epoch == t.epoch then { x with dead := true, writers := [], later := [] } else x

theorem PortMoves.tiles {s t : State} (h : PortMoves s t) : t.tiles = s.tiles := by rw [h.2]

theorem undoRecords_tiles (s : State) (t : Tile) : (undoRecords s t).tiles = s.tiles :=
  (foldl_portMoves (fun _ _ => writeMem_portMoves ..) _ (dropWaiting s t.ctx t.epoch)).tiles

theorem abandonTile_tiles (s : State) (t : Tile) : (abandonTile s t).tiles = s.tiles.map (markDead t) := by
  have hmiss : (missTicks s t).tiles = s.tiles := by
    unfold missTicks
    split <;> rfl
  have hpeers (xs : List (Nat × BitVec 16 × Bool)) (u : State) : (xs.foldl (fun s (i, chip, eng) =>
      if resultIn s t i then s
      else modPeer s chip eng fun p => { p with outstanding := p.outstanding - 1 }) u).tiles = u.tiles := by
    induction xs generalizing u with
    | nil => rfl
    | cons x xs ih =>
      rw [List.foldl_cons, ih]
      dsimp only
      split
      · rfl
      · simp
  refine (hpeers t.spilled _).trans ?_
  exact congrArg (List.map (markDead t)) ((undoRecords_tiles _ t).trans hmiss)

theorem markDead_key (t x : Tile) : (markDead t x).ctx = x.ctx ∧ (markDead t x).epoch = x.epoch := by
  unfold markDead
  split <;> exact ⟨rfl, rfl⟩

theorem markDead_dead {t x : Tile} (h : x.dead = true ∨ (x.ctx = t.ctx ∧ x.epoch = t.epoch)) :
    (markDead t x).dead = true := by
  unfold markDead
  obtain h | ⟨hc, he⟩ := h
  · split
    · rfl
    · exact h
  · simp [hc, he]

/-- A tile whose like is abandoned is dead after all of them are. -/
theorem foldl_markDead (ts : List Tile) : ∀ x : Tile,
    (x.dead = true ∨ ∃ t ∈ ts, x.ctx = t.ctx ∧ x.epoch = t.epoch) → (ts.foldl (fun x t => markDead t x) x).dead = true := by
  induction ts with
  | nil => exact fun x h => h.elim id fun ⟨_, ht, _⟩ => (List.not_mem_nil ht).elim
  | cons t ts ih =>
    intro x h
    obtain ⟨hctx, hepoch⟩ := markDead_key t x
    refine ih (markDead t x) ?_
    rw [hctx, hepoch]
    obtain h | ⟨u, hu, hkey⟩ := h
    · exact .inl (markDead_dead (.inl h))
    · obtain rfl | hu := List.mem_cons.1 hu
      · exact .inl (markDead_dead (.inr hkey))
      · exact .inr ⟨u, hu, hkey⟩

theorem foldl_markDead_ctx (ts : List Tile) : ∀ x : Tile, (ts.foldl (fun x t => markDead t x) x).ctx = x.ctx := by
  induction ts with
  | nil => exact fun x => rfl
  | cons t ts ih => exact fun x => (ih (markDead t x)).trans (markDead_key t x).1

theorem foldl_abandonTile_tiles (ts : List Tile) : ∀ s : State,
    (ts.foldl abandonTile s).tiles = s.tiles.map fun x => ts.foldl (fun x t => markDead t x) x := by
  induction ts with
  | nil => exact fun s => (List.map_id _).symm
  | cons t ts ih =>
    intro s
    rw [List.foldl_cons, ih, abandonTile_tiles, List.map_map]
    rfl

theorem sendMsg_tiles (s : State) (chip : BitVec 16) (engine : Bool) (m : TxMsg) : (sendMsg s chip engine m).tiles = s.tiles := by
  unfold sendMsg
  split
  · rfl
  · split
    · simp
    · split <;> rfl

/-- All tiles of the context that were live are dead. -/
theorem abandonFor_dead (s : State) (c : CtxId) (pre drain : Bool) :
    ∀ t ∈ (abandonFor s c pre drain).tiles, t.ctx = c → t.dead = true := by
  have htiles : (abandonFor s c pre drain).tiles
      = s.tiles.map fun x => (tilesOf s c).foldl (fun x t => markDead t x) x := by
    unfold abandonFor
    dsimp only
    have hsent (ps : List (BitVec 16 × Bool)) (m : State → TxMsg) (u : State) :
        (ps.foldl (fun s p => sendMsg s p.1 p.2 (m s)) u).tiles = u.tiles := by
      induction ps generalizing u with
      | nil => rfl
      | cons p ps ih => rw [List.foldl_cons, ih, sendMsg_tiles]
    refine (hsent _ (fun u => ⟨3, .abandon c drain, abandonBytes u c _⟩) _).trans ?_
    exact foldl_abandonTile_tiles (tilesOf s c) (killReads s (· == .prep c))
  rw [htiles]
  intro t ht hc
  obtain ⟨x, hx, rfl⟩ := List.mem_map.1 ht
  rw [foldl_markDead_ctx] at hc
  refine foldl_markDead _ x ?_
  by_cases hdead : x.dead = true
  · exact .inl hdead
  · exact .inr ⟨x, List.mem_filter.2 ⟨hx, by simp [hc, hdead]⟩, rfl, rfl⟩

/-! ## Mode changes -/

/-- The mode of a context, and the mode that waits, stay. -/
structure SameMode (c : CtxId) (s t : State) : Prop where
  det : (t.ctx c).det = (s.ctx c).det
  pace : (t.ctx c).pace = (s.ctx c).pace
  pend : (t.ctx c).pendMode = (s.ctx c).pendMode

theorem SameMode.refl (c : CtxId) (s : State) : SameMode c s s := ⟨rfl, rfl, rfl⟩

theorem SameMode.trans {c : CtxId} {s t u : State} (h : SameMode c s t) (k : SameMode c t u) : SameMode c s u :=
  ⟨k.det.trans h.det, k.pace.trans h.pace, k.pend.trans h.pend⟩

theorem modCtx_sameMode (s : State) (c d : CtxId) {f : Ctx → Ctx} (hdet : ∀ x, (f x).det = x.det)
    (hpace : ∀ x, (f x).pace = x.pace) (hpend : ∀ x, (f x).pendMode = x.pendMode) : SameMode c s (modCtx s d f) := by
  have hctx := modCtx_ctx s d c f
  by_cases h : c = d
  · rw [if_pos h] at hctx
    exact ⟨(congrArg _ hctx).trans (hdet _), (congrArg _ hctx).trans (hpace _), (congrArg _ hctx).trans (hpend _)⟩
  · rw [if_neg h] at hctx
    exact ⟨congrArg _ hctx, congrArg _ hctx, congrArg _ hctx⟩

theorem completeCrit_sameMode (c : CtxId) (s : State) (p : CritPath) (st v0 v1 v2 : Nat) :
    SameMode c s (completeCrit s p st v0 v1 v2) := by
  unfold completeCrit
  split
  · exact ⟨rfl, rfl, rfl⟩
  · split
    · refine (modCtx_sameMode s c _ ?_ ?_ ?_).trans (modCtx_sameMode _ c _ ?_ ?_ ?_)
      all_goals exact fun _ => rfl
    · exact .refl c s

/-- The waiting mode is in force, and none waits. -/
theorem applyMode_self {s : State} {c : CtxId} {det pace : Bool} (h : (s.ctx c).pendMode = some (det, pace)) :
    ((applyMode s c).ctx c).det = det ∧ ((applyMode s c).ctx c).pace = pace ∧ ((applyMode s c).ctx c).pendMode = none := by
  obtain ⟨u, hu⟩ : ∃ u, u = modCtx s c fun x => { x with det := det, pace := pace, pendMode := none, modeWaiters := [] } :=
    ⟨_, rfl⟩
  have hmode : (u.ctx c).det = det ∧ (u.ctx c).pace = pace ∧ (u.ctx c).pendMode = none := by simp [hu]
  have hload : SameMode c u (if u.running == some c then loadMode u c else u) := by
    split
    · exact ⟨rfl, rfl, rfl⟩
    · exact .refl c u
  have hfold (ws : List (CritPath × BitVec 64 × BitVec 32)) (v : State) :
      SameMode c v (ws.foldl (fun s w => completeCrit s w.1 stOk w.2.1.toNat 0 w.2.2.toNat) v) := by
    induction ws generalizing v with
    | nil => exact .refl c v
    | cons w ws ih => exact (completeCrit_sameMode ..).trans (ih _)
  have happly : applyMode s c = (s.ctx c).modeWaiters.foldl
      (fun s w => completeCrit s w.1 stOk w.2.1.toNat 0 w.2.2.toNat)
      (if u.running == some c then loadMode u c else u) := by
    rw [applyMode, h, hu]
  have hsame := hload.trans (hfold (s.ctx c).modeWaiters _)
  rw [happly]
  obtain ⟨hdet, hpace, hpend⟩ := hmode
  exact ⟨hsame.det.trans hdet, hsame.pace.trans hpace, hsame.pend.trans hpend⟩

/-- Settles O37: the pick, the quantum, the limit and the mode change, each where its condition holds. -/
theorem schedulerPicksAndSwitches : Obligations.SchedulerPicksAndSwitches := by
  refine ⟨fun s c hup hrun hpick => ?_, fun s c hup hrun => ⟨fun hover => ⟨?_, preempt_self s c⟩, fun hlimit => ⟨?_, ?_⟩⟩,
    fun s c det pace hup hpend hnone => ⟨?_, applyMode_self hpend⟩⟩
  · obtain ⟨hstate, hmode⟩ := runCtx_self s c
    obtain ⟨hqueued, hlc⟩ := pickCtx_some hpick
    refine ⟨?_, hqueued, hstate, hmode, hlc⟩
    change execSchedPick s = _
    rw [execSchedPick, running_true hup (by rw [hrun]; rfl), hpick]
  · change execSchedQuantumExpire s = _
    rw [execSchedQuantumExpire, running_true hup rfl, quantumPreempt, hrun]
    simp only [hover, if_true]
  · change execPreemptLimitExpire s = _
    rw [execPreemptLimitExpire, hrun]
    exact running_true hup hlimit
  · exact abandonFor_dead s c true false
  · change execModeChangeApply c s = _
    exact running_true hup (by rw [hpend, hnone]; rfl)

end Sys2Proof.Proofs
end

section
/-!
PROOFS. Tokens: preparation, scoring and selection (03, 05), and the dispatch of their tiles (06).
-/
namespace Sys2Proof.Proofs

open Sys2Proof Sys2Proof.Machine

/-! ## Scoring -/

/-- A set passed: it is counted, and the first of them forms the halt logit. -/
theorem streamTok_sets (e : HotEntry) (q : Option Seq) (t : Tile) (b : Nat) (k : Tok) (y : List F32) :
    (streamTok e q t b k y).1.sets = k.sets + 1
    ∧ (k.sets = 0 → hHalt (leNat t.hdr) = true → (streamTok e q t b k y).1.halt = haltOf e (leNat t.hdr) y) := by
  unfold streamTok
  dsimp only
  split <;> exact ⟨rfl, fun hsets hhalt => by simp [hsets, hhalt]⟩

/-- Settles O41: each row under its condition is its own function of the state. -/
theorem tokensScored : Obligations.TokensScored := by
  refine fun s tile token t hup => ⟨fun k row hk hrow hdead hkind hbank hst hy => ?_,
    fun d e s1 t1 k l y w ht hd hmay hbegin hk hl hy hturn hhold => ?_, fun hfree hnext => ?_, fun hfull => ?_,
    fun e q b k y => streamTok_sets e q t b k y⟩
  · change execTokenPrenorm tile token s = _
    simp only [execTokenPrenorm, hk, hrow]
    exact running_true hup (by simp [hdead, hkind, hbank, hst, hy])
  · change execTokenScore tile token w s = _
    simp only [execTokenScore, ht, hd]
    refine (running_true hup hmay).trans (congrArg (becomes s) ?_)
    simp only [hbegin, hk, hl, hy, hturn, hhold, Bool.and_self, if_true]
  · change execWeightSetLoad s = _
    rw [execWeightSetLoad]
    refine (running_true hup hfree).trans (congrArg (becomes s) ?_)
    simp only [hnext]
  · change execWeightSetLoad s = _
    rw [execWeightSetLoad]
    exact (running_false (by simp [hfull])).trans (finish_self s).symm

/-! ## Selection -/

/-- The outcome of a token that is not held. -/
theorem outcomeOf_fresh {k : Tok} (hheld : k.held = false) (h : Nat) :
    outcomeOf h k = if k.badLogit || k.allNegInf || (hHalt h && isNan k.halt) then (.invalid, [], 0)
      else if hHalt h && ltF (hHaltThr h) k.halt then (.exited, [], 0)
      else (.routed, (freshChoices h k).1, (freshChoices h k).2) := by
  simp only [outcomeOf, hheld, Bool.false_eq_true, if_false]

/-- A token that is not routed has no choice. -/
theorem outcomeOf_choices {h : Nat} {k : Tok} (hout : (outcomeOf h k).1 ≠ .routed) : (outcomeOf h k).2.1 = [] := by
  unfold outcomeOf at hout ⊢
  split at hout
  · next hheld =>
    rw [if_pos hheld]
    split at hout
    · next hexit => rw [if_pos hexit]
    · exact absurd rfl hout
  · next hheld =>
    rw [if_neg hheld]
    split at hout
    · next hbad => rw [if_pos hbad]
    · next hbad =>
      rw [if_neg hbad]
      split at hout
      · next hexit => rw [if_pos hexit]
      · exact absurd rfl hout

theorem length_entriesOf (t k : Nat) (held : Bool) (cs : List (Nat × F32)) : (entriesOf t k held cs).length = k := by
  simp [entriesOf, tabulate]

/-- Three fields packed. -/
theorem pack_three (a b c d e f g h i : Nat) :
    pack [(a, b, c), (d, e, f), (g, h, i)] = c * 2 ^ (8 * a + b) + f * 2 ^ (8 * d + e) + i * 2 ^ (8 * g + h) := by
  simp only [pack, List.foldl, Nat.shiftLeft_eq, Nat.zero_add]

/-- An entry without a choice is not valid: its token's index and its own fill the 16 bits from bit 0, its key stands
from bit 96. -/
theorem rtValid_rtEmpty {t j : Nat} (k : Nat) (ht : t < 4096) (hj : j < 16) : rtValid (rtEmpty t j k) = false := by
  have hpack : pack [(0, 0, t), (0, 12, j), (0xC, 0, t * k + j)] = 2 ^ 96 * (t * k + j) + (t + 2 ^ 12 * j) := by
    rw [pack_three, show 8 * 0xC + 0 = 96 from rfl, show 8 * 0 + 12 = 12 from rfl, show 8 * 0 + 0 = 0 from rfl, pow_zero,
      Nat.mul_one, Nat.mul_comm (t * k + j), Nat.mul_comm j, Nat.add_comm]
  have hlow : t + 2 ^ 12 * j < 2 ^ 31 := by omega
  have hbit : (2 ^ 96 * (t * k + j) + (t + 2 ^ 12 * j)).testBit 31 = false := by
    rw [Nat.testBit_two_pow_mul_add _ (hlow.trans (by norm_num)), if_pos (by decide)]
    exact Nat.testBit_lt_two_pow hlow
  rw [rtValid, rb, rtEmpty, hpack, bitAt_eq_testBit, BitVec.toNat_ofNat, Nat.testBit_mod_two_pow, hbit, Bool.and_false]

theorem rtValid_entriesOf_nil {t n : Nat} (held : Bool) (ht : t < 4096) (hn : n ≤ 16) :
    ∀ e ∈ entriesOf t n held [], rtValid e.2 = false := by
  intro e he
  obtain ⟨j, hj, rfl⟩ := List.mem_map.1 he
  exact rtValid_rtEmpty n ht (Nat.lt_of_lt_of_le (List.mem_range.1 hj) hn)

/-- What Fill writes in the bank of its tile. -/
theorem fillMore_entries {s : State} {t : Tile} {b : Fin 2} (hb : t.bank = some b) :
    (fillMore s t).banks[b].entries =
      ((fillNext t).flatMap fun p => entriesOf p.1 t.k p.2.held p.2.choices).foldl (fun es e => insertKey e.1 e.2 es)
        s.banks[b].entries := by
  unfold fillMore
  dsimp only
  split
  · next hnone =>
    have hnil : fillNext t = [] := by simpa [hb] using hnone
    simp only [hnil, List.flatMap_nil, List.foldl_nil]
  · simp [modEntries, hb]

/-- Settles O43: the outcome of a token by its logits, and the entries that Fill writes for it. -/
theorem tokensSelected : Obligations.TokensSelected := by
  refine ⟨fun s tile token t k hup hk hdead hkind hbank hst hy hsl hsc => ?_, fun h k hheld => ⟨fun hbad => ?_, ?_, ?_⟩,
    fun h k hheld => ?_, length_entriesOf, fun s t b hb => fillMore_entries hb, fun h k t n hout ht hn => ?_⟩
  · change execTokenSelect tile token s = _
    simp only [execTokenSelect, hk]
    exact running_true hup (by simp [hdead, hkind, hbank, hst, hy, hsl, hsc])
  · rw [outcomeOf_fresh hheld, if_pos]
    obtain hbad | hinf | ⟨hhalt, hnan⟩ := hbad
    · simp [hbad]
    · simp [hinf]
    · simp [hhalt, hnan]
  · intro hbad hinf hhalt hnan hthr
    simp [outcomeOf_fresh hheld, hbad, hinf, hhalt, hnan, hthr]
  · intro hbad hinf hstays
    obtain hhalt | ⟨hnan, hthr⟩ := hstays
    · simp [outcomeOf_fresh hheld, hbad, hinf, hhalt]
    · simp [outcomeOf_fresh hheld, hbad, hinf, hnan, hthr]
  · rw [outcomeOf, if_pos hheld]
    split <;> rfl
  · rw [outcomeOf_choices hout]
    exact rtValid_entriesOf_nil k.held ht hn

/-! ## Dispatch -/

theorem updFirst_congr {α : Type} {p : α → Bool} {f g : α → α} (h : ∀ x, p x = true → f x = g x) (l : List α) :
    updFirst p f l = updFirst p g l := by
  induction l with
  | nil => rfl
  | cons x l ih =>
    by_cases hx : p x = true
    · simp only [updFirst, hx, if_true, h x hx]
    · simp only [updFirst, hx, if_false, ih, Bool.false_eq_true]

/-- Only the values at tiles of the context matter. -/
theorem modTile_congr {s : State} {c : CtxId} {e : BitVec 16} {f g : Tile → Tile} (h : ∀ x, x.ctx = c → f x = g x) :
    modTile s c e f = modTile s c e g := by
  refine congrArg (fun l => { s with tiles := l }) (updFirst_congr (fun x hx => h x ?_) s.tiles)
  simp only [Bool.and_eq_true, beq_iff_eq] at hx
  obtain ⟨⟨hctx, -⟩, -⟩ := hx
  exact hctx

/-- Settles O44: a tile is dispatched, runs or drops its course, or fetches its route context. -/
theorem tilesDispatched : Obligations.TilesDispatched := by
  refine fun s tile t hup ht hdead => ⟨fun hkind hbank hfill hbuck holder => ?_, fun xs rest hbuck hwr hfeeds hlater => ?_,
    fun i e hdir hkind hshares hres => ?_⟩
  · have hcond : (!t.dead && t.kind != .combine && t.bank.isSome && t.filled && !t.bucketed
        && (olderTiles s t).all Tile.dispatched) = true := by
      simp only [hdead, hbank, hfill, hbuck, holder, bne_iff_ne.2 hkind, Bool.not_false, Bool.and_self]
    have hexec : exec (.bucketing tile) s = becomes s
        (if (capPlan s t).quota * (coreSet s t.ctx).length < 256 then failTp s t.ctx t.c stRange
        else again (modTile s t.ctx t.epoch fun t => { t with cores := coreSet s t.ctx, bucketTick := s.tick }) t
          fun u t' => dispatchTile u t' (capPlan s t)) := by
      change execBucketing tile s = _
      simp only [execBucketing, ht]
      refine (running_true hup hcond).trans (congrArg (becomes s) ?_)
      rw [modTile_congr (g := fun t => { t with cores := coreSet s t.ctx, bucketTick := s.tick }) fun x hx => by rw [hx]]
    rw [hexec]
    exact ⟨fun hroom => congrArg (becomes s) (if_neg (Nat.not_lt.2 hroom)), fun hfew => congrArg (becomes s) (if_pos hfew)⟩
  · have hcond : (!t.dead && t.bucketed && t.writers.isEmpty && !feeds s t) = true := by
      simp [hdead, hbuck, hwr, hfeeds]
    have hexec : exec (.courseStart tile) s = becomes s (if courseLate s t (capPlan s t) then dropCourses s t
        else runCourse s t (capPlan s t) xs) := by
      change execCourseStart tile s = _
      simp only [execCourseStart, ht]
      refine (running_true hup hcond).trans (congrArg (becomes s) ?_)
      simp only [hlater]
    rw [hexec]
    exact ⟨fun hlate => congrArg (becomes s) (if_neg (by simp [hlate])), fun hlate => congrArg (becomes s) (if_pos hlate)⟩
  · change execHotsetMissFetch tile s = _
    simp only [execHotsetMissFetch, ht, hdir]
    exact running_true hup (by simp [hdead, hkind, hshares, hres])

end Sys2Proof.Proofs
end

section
/-!
PROOFS. Core work queues: packets written and selected, fed and drained (06, 15 R341 to R343).
-/
namespace Sys2Proof.Proofs

open Sys2Proof Sys2Proof.Machine

/-! ## One queue -/

theorem modQueue_self (s : State) (p : PortId) (f : CoreQ → CoreQ) : (modQueue s p f).queues[p] = f s.queues[p] := by
  simp [modQueue, vmod]

theorem modQueue_ne (s : State) {p q : PortId} (h : q ≠ p) (f : CoreQ → CoreQ) :
    (modQueue s p f).queues[q] = s.queues[q] := by
  have hval : p.val ≠ q.val := fun e => h (Fin.ext e.symm)
  simp [modQueue, vmod, hval]

/-! ## Packets are written and selected -/

/-- A packet that `find?` gives splits the queue: what meets the condition is not before it. -/
theorem find?_splits {α : Type} {p : α → Bool} {l : List α} {x : α} (h : l.find? p = some x) :
    ∃ older later, l = older ++ x :: later ∧ ∀ y ∈ older, p y = false := by
  obtain ⟨-, older, later, hl, hno⟩ := List.find?_eq_some_iff_append.1 h
  exact ⟨older, later, hl, fun y hy => by simpa using hno y hy⟩

theorem lowestSeq_some {q : CoreQ} {lc : Bool} {k : Packet} (h : lowestSeq q lc = some k) :
    k.state = .committed ∧ k.lc = lc ∧ ∃ older later, q.packets = older ++ k :: later
      ∧ ∀ x ∈ older, x.state = .committed → x.lc ≠ lc := by
  have hk := List.find?_some h
  simp only [Bool.and_eq_true, beq_iff_eq] at hk
  obtain ⟨older, later, hq, hno⟩ := find?_splits h
  refine ⟨hk.1, hk.2, older, later, hq, fun x hx hst hlc => ?_⟩
  have hfalse := hno x hx
  simp [hst, hlc] at hfalse

/-- What is selected: the oldest committed packet of its class, LC before BE. -/
theorem selected_some {q : CoreQ} {k : Packet} (h : selected q = some k) :
    k.state = .committed ∧ ((∃ x ∈ q.packets, x.state = .committed ∧ x.lc = true) → k.lc = true)
    ∧ ∃ older later, q.packets = older ++ k :: later ∧ ∀ x ∈ older, x.state = .committed → x.lc ≠ k.lc := by
  unfold selected at h
  split at h
  · next hlow =>
    cases h
    obtain ⟨hst, hlc, hsplit⟩ := lowestSeq_some hlow
    rw [hlc]
    exact ⟨hst, fun _ => rfl, hsplit⟩
  · next hnone =>
    obtain ⟨hst, hlc, hsplit⟩ := lowestSeq_some h
    refine ⟨hst, fun ⟨x, hx, hxst, hxlc⟩ => ?_, by rwa [hlc]⟩
    have hno := List.find?_eq_none.1 hnone x hx
    simp [hxst, hxlc] at hno

/-- Settles O45: what is written next, where it goes, and what is selected. -/
theorem packetsQueued : Obligations.PacketsQueued := by
  refine fun s p hup => ⟨fun t k hroom hw => ?_, fun w ws hroom hw hws => ?_, fun hfull => ?_,
    fun k => ⟨?_, fun hk => ?_, fun hk => ?_, fun q hq => ?_⟩, fun k hk hfeed => ⟨?_, selected_some hk⟩⟩
  · change execPacketWrite p s = _
    rw [execPacketWrite, running_true hup (decide_eq_true hroom), writePacket, hw]
  · change execPacketWrite p s = _
    rw [execPacketWrite, running_true hup (decide_eq_true hroom), writePacket, hw, hws]
    simp only [beq_iff_eq]
  · change execPacketWrite p s = _
    rw [execPacketWrite, running_false (by rw [decide_eq_false (Nat.not_lt.2 hfull), Bool.and_false]), finish_self]
  · rw [commitTo, modQueue_self]
  · simp [classed, hk]
  · simp [classed, hk]
  · rw [commitTo, modQueue_ne s hq]
  · change execPacketSelect p s = _
    simp only [execPacketSelect, hk]
    exact running_true hup (by rw [hfeed]; rfl)

/-! ## A packet is fed -/

theorem exec_feedFlitGrant {s : State} {ready : BitVec 80} {p : PortId} {k : Packet} (hl : s.live = true)
    (hp : grantTurn s ready = some p) (hk : feedingOn s p = some k) :
    exec (.feedFlitGrant ready) s = becomes s (grantUnit s p k) := by
  change execFeedFlitGrant ready s = _
  simp only [execFeedFlitGrant, hp, hk]
  exact working_true hl rfl

/-- What the grant of a unit leaves, and that a data flit is charged. -/
structure Granted (s : State) (p : PortId) (k : Packet) (u : FeedUnit) (t : State) : Prop where
  outbox : t.outbox = s.outbox ++ [feedOut s p k u]
  chip : t.chip = s.chip
  tiles : t.tiles = s.tiles
  queues : ∀ q, q ≠ p → t.queues[q] = s.queues[q]
  charge : charged k = true → (t.ctx (pktCtx k)).regFeed.used = (regNow (s.ctx (pktCtx k)).regFeed s.now).used + 256

theorem Granted.mod {s t : State} {p : PortId} {k : Packet} {u : FeedUnit} (h : Granted s p k u t) (f : CoreQ → CoreQ) :
    Granted s p k u (modQueue t p f) :=
  ⟨h.outbox, h.chip, h.tiles, fun q hq => (modQueue_ne t hq f).trans (h.queues q hq), h.charge⟩

/-- A choice word that goes out is counted; a data flit is not. -/
def countUnit (s : State) (k : Packet) : FeedUnit → State
  | .item w => countChoice s k w
  | .flit _ _ => s

/-- Counting a choice word touches telemetry alone. -/
theorem Granted.count {s t : State} {p : PortId} {k : Packet} {w : BitVec 128} (h : Granted s p k (.item w) t)
    (hk : charged k = false) : Granted s p k (.item w) (countChoice t k w) := by
  have htele (v : State) (c : CtxId) (i n : Nat) (hv : Granted s p k (.item w) v) : Granted s p k (.item w) (teleCtx v c i n) :=
    ⟨hv.outbox, hv.chip, hv.tiles, hv.queues, fun hc => absurd hc (by simp [hk])⟩
  unfold countChoice
  split
  · exact h
  · refine htele _ _ _ _ ?_
    split <;> exact htele _ _ _ _ h

/-- A unit goes out; after the last unit of the engine's own packet it awaits its results. -/
theorem grantUnit_granted {s : State} {p : PortId} {k : Packet} {u : FeedUnit} {rest : List FeedUnit}
    (hfeed : k.feed = u :: rest) (hown : k.spore = false ∨ rest ≠ []) : Granted s p k u (grantUnit s p k) := by
  obtain ⟨s1, hs1⟩ : ∃ s1 : State, s1 = { s with
      outbox := s.outbox ++ [feedOut s p k u], feedLast := if u.isFlit then p else s.feedLast } := ⟨_, rfl⟩
  have hsent : Granted s p k u (if charged k then feedCharge s1 (pktCtx k) 256 else s1) := by
    subst hs1
    split
    · refine ⟨rfl, rfl, rfl, fun _ _ => rfl, fun _ => ?_⟩
      rw [feedCharge, modCtx_ctx_self]
      rfl
    · next hno => exact ⟨rfl, rfl, rfl, fun _ _ => rfl, fun hc => absurd hc hno⟩
  have hcounted : Granted s p k u (countUnit (if charged k then feedCharge s1 (pktCtx k) 256 else s1) k u) := by
    cases u with
    | item w => exact hsent.count (by simp [charged, hfeed, FeedUnit.isFlit])
    | flit i f => exact hsent
  have hfed := hcounted.mod (modPkt k.seq fun k => { k with feed := rest, since := s.tick })
  unfold grantUnit
  rw [hfeed]
  dsimp only
  rw [← hs1]
  split
  · next hempty =>
    have hspore : k.spore = false := hown.resolve_right (by simpa using hempty)
    rw [endFeed, hspore]
    exact hfed.mod _
  · exact hfed

/-- Settles O46: the unit of the packet in FEEDING goes out, and what it leaves as it was. -/
theorem packetsFed : Obligations.PacketsFed := by
  refine fun s ready p k hl hp hk => ⟨exec_feedFlitGrant hl hp hk, fun u rest hfeed hown => ?_⟩
  obtain ⟨hout, hchip, htiles, hqueues, hcharge⟩ := grantUnit_granted (s := s) (p := p) hfeed hown
  exact ⟨hout, hchip, htiles, hqueues, hcharge⟩

/-! ## The drain -/

/-- What `firstMin` gives by a measure is least. -/
theorem firstMin_le {α : Type} (f : α → Nat) {l : List α} {x : α} (h : firstMin (fun a b => decide (f a < f b)) l = some x) :
    ∀ m ∈ l, f x ≤ f m := by
  have hfold (l : List α) : ∀ y : α,
      f (l.foldl (fun best y => if decide (f y < f best) then y else best) y) ≤ f y
      ∧ ∀ m ∈ l, f (l.foldl (fun best y => if decide (f y < f best) then y else best) y) ≤ f m := by
    induction l with
    | nil => exact fun y => ⟨Nat.le_refl _, fun m hm => absurd hm List.not_mem_nil⟩
    | cons z l ih =>
      intro y
      obtain ⟨hbest, hall⟩ := ih (if decide (f z < f y) then z else y)
      have hmin : f (if decide (f z < f y) then z else y) ≤ f y ∧ f (if decide (f z < f y) then z else y) ≤ f z := by
        split
        · next hlt => exact ⟨Nat.le_of_lt (of_decide_eq_true hlt), Nat.le_refl _⟩
        · next hge => exact ⟨Nat.le_refl _, Nat.le_of_not_lt (by simpa using hge)⟩
      refine ⟨Nat.le_trans hbest hmin.1, fun m hm => ?_⟩
      obtain rfl | hm := List.mem_cons.1 hm
      · exact Nat.le_trans hbest hmin.2
      · exact hall m hm
  cases l with
  | nil => cases h
  | cons y l =>
    obtain rfl := Option.some.inj h
    intro m hm
    obtain ⟨hy, hall⟩ := hfold l y
    obtain rfl | hm := List.mem_cons.1 hm
    · exact hy
    · exact hall m hm

/-- The ports' failures stay, and a queue that is empty stays empty. -/
structure KeepsPort (p : PortId) (s t : State) : Prop where
  fail : t.coreFail = s.coreFail
  empty : s.queues[p].packets = [] → t.queues[p].packets = []

section
variable {p : PortId}

theorem KeepsPort.refl (s : State) : KeepsPort p s s := ⟨rfl, id⟩

theorem KeepsPort.trans {s t u : State} (h : KeepsPort p s t) (k : KeepsPort p t u) : KeepsPort p s u :=
  ⟨k.fail.trans h.fail, fun he => k.empty (h.empty he)⟩

theorem KeepsPort.foldl {α : Type} {f : State → α → State} (hf : ∀ u x, KeepsPort p u (f u x)) (l : List α) :
    ∀ s, KeepsPort p s (l.foldl f s) := by
  induction l with
  | nil => exact fun s => .refl s
  | cons x l ih => exact fun s => (hf s x).trans (ih (f s x))

theorem KeepsPort.of_queues {s t : State} (hfail : t.coreFail = s.coreFail) (hq : t.queues = s.queues) : KeepsPort p s t :=
  ⟨hfail, fun he => by rw [hq]; exact he⟩

theorem PortMoves.keepsPort {s t : State} (h : PortMoves s t) : KeepsPort p s t :=
  .of_queues (by rw [h.2]) (by rw [h.2])

theorem modCtx_keepsPort (s : State) (c : CtxId) (f : Ctx → Ctx) : KeepsPort p s (modCtx s c f) := .of_queues rfl rfl

theorem missTicks_keepsPort (s : State) (t : Tile) : KeepsPort p s (missTicks s t) := by
  unfold missTicks
  split <;> exact .of_queues rfl rfl

theorem undoRecords_keepsPort (s : State) (t : Tile) : KeepsPort p s (undoRecords s t) :=
  (KeepsPort.of_queues (by rfl) (by rfl)).trans
    (.foldl (fun _ _ => (writeMem_portMoves ..).keepsPort) _ (dropWaiting s t.ctx t.epoch))

theorem abortPackets_keepsPort (s : State) (q : Packet → Bool) : KeepsPort p s (abortPackets s q) := by
  refine ⟨rfl, fun he => ?_⟩
  have hq : (abortPackets s q).queues[p].packets
      = s.queues[p].packets.filterMap fun k => if q k then abortPkt k else some k := by
    simp [abortPackets, mapQueues, vmap]
  rw [hq, he]
  rfl

theorem dropOutstanding_keepsPort (s : State) (t : Tile) : KeepsPort p s (dropOutstanding s t) := by
  refine .foldl (fun u x => ?_) _ s
  dsimp only
  split
  · exact .refl u
  · exact .of_queues (by simp) (by simp)

theorem abandonTile_keepsPort (s : State) (t : Tile) : KeepsPort p s (abandonTile s t) := by
  have h : KeepsPort p s (abortPackets (undoRecords (missTicks s t) t) (isPktOf t.ctx t.epoch)) :=
    ((missTicks_keepsPort s t).trans (undoRecords_keepsPort _ t)).trans (abortPackets_keepsPort _ _)
  unfold abandonTile
  dsimp only
  refine KeepsPort.trans ?_ (modCtx_keepsPort ..)
  refine KeepsPort.trans ?_ (dropOutstanding_keepsPort _ t)
  exact ⟨h.fail, h.empty⟩

theorem sendMsg_keepsPort (s : State) (chip : BitVec 16) (engine : Bool) (m : TxMsg) :
    KeepsPort p s (sendMsg s chip engine m) := by
  unfold sendMsg
  split
  · exact .refl s
  · split
    · exact .of_queues (by simp) (by simp)
    · split <;> exact .of_queues rfl rfl

theorem abandonFor_keepsPort (s : State) (c : CtxId) (pre drain : Bool) : KeepsPort p s (abandonFor s c pre drain) := by
  unfold abandonFor
  dsimp only
  refine KeepsPort.trans ?_ (.foldl (fun u p => sendMsg_keepsPort ..) _ _)
  refine KeepsPort.trans ?_ (modCtx_keepsPort ..)
  exact (KeepsPort.of_queues (by rfl) (by rfl)).trans
    (.foldl (fun u t => abandonTile_keepsPort u t) _ (killReads s (· == .prep c)))

theorem freePlaces_keepsPort (s : State) (chip : BitVec 16) (engine : Bool) (n : Nat) :
    KeepsPort p s (freePlaces s chip engine n) := by
  unfold freePlaces
  split
  · exact .refl s
  · split
    · exact .refl s
    · exact .of_queues (by rfl) (by rfl)

theorem refuseTo_keepsPort (s : State) (chip : BitVec 16) (engine : Bool) : KeepsPort p s (refuseTo s chip engine) := by
  unfold refuseTo
  split
  · exact .refl s
  · split <;> exact .of_queues (by rfl) (by rfl)

theorem refuseSpores_keepsPort (s : State) (ks : List Packet) : KeepsPort p s (refuseSpores s ks) :=
  .foldl (fun _ _ => (freePlaces_keepsPort ..).trans (refuseTo_keepsPort ..)) ks s

end

theorem bvBit_bvSetBit_true (b : BitVec 80) (p : PortId) : bvBit (bvSetBit b p.val true) p.val = true := by
  have hlt : 2 ^ p.val < 2 ^ 80 := Nat.pow_lt_pow_right (by decide) p.isLt
  rw [bvBit, bitAt_eq_testBit, bvSetBit, if_pos rfl, BitVec.toNat_or, BitVec.toNat_ofNat, Nat.mod_eq_of_lt hlt,
    Nat.testBit_or, Nat.testBit_two_pow_self, Bool.or_true]

/-- A port that fails has no packet, and its bit is set. -/
theorem failPort_port (s : State) (p : PortId) :
    (failPort s p).queues[p].packets = [] ∧ bvBit (failPort s p).coreFail p.val = true := by
  obtain ⟨s1, hs1⟩ : ∃ s1 : State, s1 = { modQueue s p (fun q => { q with packets := [], drainRow := [] }) with
      lanes := s.lanes.filter fun l => l.1 != p
      coreFail := bvSetBit s.coreFail p.val true
      sporeWriters := s.sporeWriters.filter fun w => w.1 != p } := ⟨_, rfl⟩
  have hkeeps : KeepsPort p s1 (failPort s p) := by
    unfold failPort
    dsimp only
    rw [← hs1]
    exact (KeepsPort.foldl (fun _ _ => abandonFor_keepsPort ..) _ s1).trans (refuseSpores_keepsPort _ _)
  have hempty : s1.queues[p].packets = [] := by
    rw [hs1]
    exact congrArg CoreQ.packets (modQueue_self s p _)
  have hfail : s1.coreFail = bvSetBit s.coreFail p.val true := by rw [hs1]
  exact ⟨hkeeps.empty hempty, by rw [hkeeps.fail, hfail]; exact bvBit_bvSetBit_true ..⟩

/-- A local row that is due is written to its slot; any other is counted. -/
theorem localRow_eq {s : State} {k : Packet} {t : Tile} (ht : findTile s (pktCtx k) k.epoch = some t) (slot : Nat)
    (row : List Byte) : localRow s k slot row = if localDue s t slot then writeSlot s t slot row else teleEng s 7 1 := by
  simp only [localRow, ht]
  cases localDue s t slot <;> rfl

/-- Settles O47: lanes and their turn, flits, marks and rows by what their tags name, and a port that fails. -/
theorem packetsDrained : Obligations.PacketsDrained := by
  refine fun s p g data hl => ⟨fun hlen hmark => ⟨fun hroom => ?_, fun hfull => ?_⟩,
    fun hmark => ⟨fun hroom => ?_, fun hfull => ?_⟩, fun l hturn => ?_, fun hnone m hm => ?_, fun s1 hs1 => ?_,
    fun hstuck => ⟨?_, failPort_port s p⟩, fun k slot row t ht => ⟨fun hbad => ?_, fun hslot hexp hres hbusy => ?_⟩⟩
  · have hwf : Instr.wf (.drainFlit p g data) = true := decide_eq_true hlen
    change execDrainFlit p g data s = _
    rw [execDrainFlit, if_pos hwf]
    exact working_true hl (by simp [hmark, hroom])
  · have hwf : Instr.wf (.drainFlit p g data) = true := decide_eq_true hlen
    change execDrainFlit p g data s = _
    rw [execDrainFlit, if_pos hwf, working_false (by simp [hfull]), finish_self]
  · change execEndOfPacketMark p g s = _
    exact working_true hl (by simp [hmark, hroom])
  · change execEndOfPacketMark p g s = _
    rw [execEndOfPacketMark, working_false (by simp [hfull]), finish_self]
  · obtain ⟨hmem, hmay⟩ := List.mem_filter.1 (firstMin_mem hturn)
    refine ⟨hmem, hmay, fun m hm hmaym => ?_⟩
    exact firstMin_le (fun l : PortId × BitVec 128 × List Byte => (l.1.val + 79 - s.drainLast.val) % 80) hturn m
      (List.mem_filter.2 ⟨hm, hmaym⟩)
  · have hnil : s.lanes.filter (mayDrain s) = [] := firstMin_eq_none hnone
    simpa using List.filter_eq_nil_iff.1 hnil m hm
  · have hlane : drainLane s (p, g, data) = if tagMark g then endPacket s1 p g else drainFlit s1 p g data := by
      rw [hs1, drainLane]
    rw [hlane]
    refine ⟨fun hmark => ?_, fun hmark hpkt => ?_, fun k hmark hpkt => ?_⟩
    · simp only [hmark, Bool.false_eq_true, if_false, drainFlit]
      exact ⟨fun hpkt => by simp only [hpkt], fun k hpkt hlast => by simp only [hpkt, hlast, Bool.false_eq_true, if_false],
        fun k hpkt hlast => by simp only [hpkt, hlast, if_true]⟩
    · simp only [hmark, if_true, endPacket, hpkt]
    · simp only [hmark, if_true, endPacket, hpkt]
  · change execCoreTimeout p s = _
    exact working_true hl hstuck
  · have hdue : localDue s t slot = false := by
      obtain hslot | hexp | hres | hbusy := hbad
      · simp [localDue, Nat.not_lt.2 hslot]
      · simp [localDue, hexp]
      · simp [localDue, hres]
      · simp [localDue, hbusy]
    rw [localRow_eq ht, hdue]
    rfl
  · have hdue : localDue s t slot = true := by simp [localDue, hslot, hexp, hres, hbusy]
    rw [localRow_eq ht, hdue]
    rfl

end Sys2Proof.Proofs
end

section
/-!
PROOFS. Combine, commit and reduction (08, 05), and the messages and frames of Basol (07, 15, 18).
-/
namespace Sys2Proof.Proofs

open Sys2Proof Sys2Proof.Machine

/-! ## Combine, commit and reduction -/

/-- The tile that may commit is the oldest, all of it combined and logged, with nothing of it on the way. -/
theorem committable_some {s : State} {t : Tile} (h : committable s = some t) :
    t.mixed = true ∧ t.logged = true ∧ t.committing = false ∧ tileBusy s t = false := by
  unfold committable at h
  split at h
  · next x _ =>
    by_cases hc : (x.mixed && x.logged && !x.committing && !tileBusy s x) = true
    · rw [if_pos hc] at h
      cases h
      simpa [and_assoc] using hc
    · rw [if_neg hc] at h
      cases h
  · cases h

/-- The reduction that waits longest is still within lost_timeout, or its group is lost. -/
theorem exec_statTimeout {s : State} {c : CtxId} {r : Reduction} {rest : List Reduction} (hl : s.live = true)
    (hr : (s.ctx c).reductions = r :: rest) :
    (lostTicks s ≤ s.since r.since → exec (.statTimeout c) s = becomes s (loseGroup s c))
    ∧ (s.since r.since < lostTicks s → exec (.statTimeout c) s = finish s s) := by
  have hexec : exec (.statTimeout c) s = working s (lostTicks s ≤ s.since r.since) fun s => loseGroup s c := by
    change execStatTimeout c s = _
    simp only [execStatTimeout, hr]
  rw [hexec]
  refine ⟨fun hdue => working_true hl (decide_eq_true hdue), fun hearly => ?_⟩
  rw [working_false (by rw [decide_eq_false (Nat.not_le.2 hearly), Bool.and_false]), finish_self]

theorem modCtx_modCtx (s : State) (c : CtxId) (f g : Ctx → Ctx) :
    modCtx (modCtx s c f) c g = modCtx s c fun x => g (f x) := by
  simp [modCtx, vmod]

/-- A group that is lost faults its context, or is remembered for its next TILE_ROUTE. -/
theorem loseGroup_eq {s : State} {c : CtxId} {r : Reduction} {rest : List Reduction}
    (hr : (s.ctx c).reductions = r :: rest) :
    (((s.ctx c).tp.find? fun j => tpOp j.ops == 1) = none →
      loseGroup s c = modCtx s c fun x => { x with groupLost := true, reductions := [] })
    ∧ ∀ j, ((s.ctx c).tp.find? fun j => tpOp j.ops == 1) = some j →
      loseGroup s c = faultCtx (modCtx s c fun x => { x with reductions := [] }) c 0x50 (some j.c) := by
  have htp : ((modCtx s c fun x => { x with reductions := [] }).ctx c).tp = (s.ctx c).tp :=
    by rw [modCtx_ctx_self]
  refine ⟨fun hnone => ?_, fun j hj => ?_⟩
  · simp only [loseGroup, hr, List.isEmpty_cons, Bool.false_eq_true, if_false, htp, hnone]
    exact modCtx_modCtx ..
  · simp only [loseGroup, hr, List.isEmpty_cons, Bool.false_eq_true, if_false, htp, hj]
    rfl

/-- Settles O48: frames and combines, the commit of the oldest tile, and the reductions of a context. -/
theorem tilesCombinedAndReduced : Obligations.TilesCombinedAndReduced := by
  refine ⟨fun s t hup => ⟨fun tile token k l hk hdead hcomb hmix hsec hturn hframe => ?_, fun hc => ⟨?_, committable_some hc⟩,
    fun hnone => ?_⟩, fun s t i k => ⟨fun ht hk => ?_, fun hcom hbusy => ?_⟩, fun s c r rest hl hr => ?_⟩
  · change execTokenCombine tile token s = _
    simp only [execTokenCombine, hk, hsec]
    exact running_true hup (by simp [hdead, hcomb, hmix, hturn, hframe])
  · change execTileCommit s = _
    simp only [execTileCommit, hc]
    exact running_true hup rfl
  · change execTileCommit s = _
    simp only [execTileCommit, hnone]
  · simp only [combineOn, ht, hk]
  · rw [commitOn, hcom, hbusy]
    rfl
  · obtain ⟨hlost, hearly⟩ := exec_statTimeout hl hr
    obtain ⟨hnone, hsome⟩ := loseGroup_eq hr
    refine ⟨?_, fun hdue htp => ?_, fun j hdue htp => ?_, hearly⟩
    · change execGroupReduce c s = _
      exact working_true hl (by simp [hr])
    · rw [hlost hdue, hnone htp]
    · rw [hlost hdue, hsome j htp]

/-! ## Blocks sent -/

theorem exec_basolBlockSend {s : State} {chip : BitVec 16} {engine : Bool} {t : TxStream} (hup : s.up = true)
    (ht : findTx s chip engine = some t) (hended : t.ended = false) (hstop : t.stopped = false) :
    exec (.basolBlockSend chip engine) s = becomes s (sendBlock s t) := by
  change execBasolBlockSend chip engine s = _
  simp only [execBasolBlockSend, ht]
  exact running_true hup (by simp [hended, hstop])

/-- Charging a block touches regulators and telemetry alone. -/
theorem chargeBlock_keeps (s : State) (o : MsgOwner) :
    (chargeBlock s o).outbox = s.outbox ∧ (chargeBlock s o).chip = s.chip ∧ (chargeBlock s o).tiles = s.tiles := by
  unfold chargeBlock
  split <;> exact ⟨rfl, rfl, rfl⟩

/-- A block that goes out of a stream with its charge: the transfers are all that changes of what the rows speak of. -/
theorem sendTransfers_keeps (s : State) (t : TxStream) (f : TxStream → TxStream) (o : MsgOwner) (bytes : List Byte) :
    (sendTransfers (chargeBlock (modTx s t.chip t.engine f) o) t bytes).outbox = s.outbox ++ transfers t.port t.chip bytes
    ∧ (sendTransfers (chargeBlock (modTx s t.chip t.engine f) o) t bytes).chip = s.chip
    ∧ (sendTransfers (chargeBlock (modTx s t.chip t.engine f) o) t bytes).tiles = s.tiles := by
  obtain ⟨hout, hchip, htiles⟩ := chargeBlock_keeps (modTx s t.chip t.engine f) o
  refine ⟨?_, hchip.trans rfl, htiles.trans rfl⟩
  simp only [sendTransfers, hout]
  rfl

theorem length_blockBytes512 (head : Nat) {payload : List Byte} (h : payload.length ≤ 496) :
    (blockBytes512 head payload).length = 512 := by
  simp [blockBytes512, length_padTo_payload h]

theorem spend_answer {kind : BitVec 4} {g r : Nat} (hk : isAnswer kind = true) (hr : 0 < r) :
    spend kind g r = some (g, r - 1) := by
  simp [spend, hk, Nat.ne_of_gt hr]

theorem spend_general {kind : BitVec 4} {g r : Nat} (h : isAnswer kind = false ∨ r = 0) :
    spend kind g r = if g = 0 then none else some (g - 1, r) := by
  have hno : (isAnswer kind && r != 0) = false := by obtain h | h := h <;> simp [h]
  rw [spend, hno]
  by_cases hg : g = 0 <;> simp [hg]

/-- Settles O49: resends first, then the message in progress, then a new one; a block goes out as its 8 transfers. -/
theorem blocksSent : Obligations.BlocksSent := by
  refine fun s chip engine t hup ht hended hstop => ⟨fun q qs b hres hb => ⟨?_, ?_⟩, fun m off hres hcur => ?_,
    fun hres hcur => ?_, fun m off hno => ?_, fun m off hsome => ?_, fun kind g r hk hr => spend_answer hk hr,
    fun kind g r h => spend_general h⟩
  · rw [exec_basolBlockSend hup ht hended hstop]
    simp only [sendBlock, hres, hb]
  · unfold resendBlk sendTransfers
    dsimp only
    rw [(chargeBlock_keeps _ b.owner).1]
    simp [transfers]
  · rw [exec_basolBlockSend hup ht hended hstop]
    simp only [sendBlock, hres, hcur]
  · rw [exec_basolBlockSend hup ht hended hstop]
    simp only [sendBlock, hres, hcur]
  · simp only [sendNext, hno]
  · obtain ⟨⟨g, r⟩, hp⟩ := Option.isSome_iff_exists.1 hsome
    have hlen : (slice m.bytes off (min payloadMax (m.bytes.length - off))).length ≤ 496 :=
      (List.length_take_le ..).trans (Nat.min_le_left ..)
    simp only [sendNext, hp]
    obtain ⟨hout, hchip, htiles⟩ := sendTransfers_keeps s t _ m.owner _
    exact ⟨_, hout, length_blockBytes512 _ hlen, hchip, htiles⟩

/-! ## Blocks received -/

theorem exec_basolBlockReceive {s : State} {port : Fin 8} {bs : List Byte} (hlen : bs.length = 512) (hon : s.on = true)
    (hreset : s.inReset = false) : exec (.basolBlockReceive port bs) s = becomes s (receiveBlock s port bs) := by
  have hwf : Instr.wf (.basolBlockReceive port bs) = true := decide_eq_true hlen
  change execBasolBlockReceive port bs s = _
  rw [execBasolBlockReceive, if_pos hwf]
  exact guarded_true (by simp [hon, hreset])

/-- A good block of a stream that is held, in a running engine. -/
theorem receiveBlock_held {s : State} {port : Fin 8} {bs : List Byte} {r : RxStream} (hgood : blockGood bs = true)
    (hup : s.up = true) (hr : findRx s (readBlock bs).chip (readBlock bs).engine = some r) :
    ((readBlock bs).gen = r.gen → receiveBlock s port bs = goodBlock (teleEng s 6 1) r (readBlock bs))
    ∧ ((readBlock bs).gen ≠ r.gen → r.known = true → olderGen (readBlock bs).gen r.gen = true →
      receiveBlock s port bs = teleEng s 6 1) := by
  have haccept : receiveBlock s port bs = acceptBlock (teleEng s 6 1) port (readBlock bs) := by
    simp only [receiveBlock, hgood, hup, Bool.not_true, Bool.false_eq_true, if_false, if_true]
  have hr' : findRx (teleEng s 6 1) (readBlock bs).chip (readBlock bs).engine = some r := hr
  rw [haccept, acceptBlock, hr']
  refine ⟨fun hgen => ?_, fun hgen hknown holder => ?_⟩
  · simp only [hgen, beq_self_eq_true, if_true]
  · simp only [beq_eq_false_iff_ne.2 hgen, hknown, holder, Bool.and_self, Bool.false_eq_true, if_false, if_true]

/-- What a frame is made of beside what it says: the fuse identity and the load; and what went out before it. -/
structure SpeaksAs (s t : State) : Prop where
  fuse : t.fuse = s.fuse
  load : reportedLoad t = reportedLoad s
  outbox : t.outbox = s.outbox

theorem SpeaksAs.trans {s t u : State} (h : SpeaksAs s t) (k : SpeaksAs t u) : SpeaksAs s u :=
  ⟨k.fuse.trans h.fuse, k.load.trans h.load, k.outbox.trans h.outbox⟩

theorem teleEng_speaksAs (s : State) (i k : Nat) : SpeaksAs s (teleEng s i k) := ⟨rfl, rfl, rfl⟩

theorem modRx_speaksAs (s : State) (chip : BitVec 16) (engine : Bool) (f : RxStream → RxStream) :
    SpeaksAs s (modRx s chip engine f) := ⟨rfl, rfl, rfl⟩

theorem SpeaksAs.sendFrame {s t : State} (h : SpeaksAs s t) (port : Fin 8) (chip : BitVec 16) (engine : Bool)
    (gen : BitVec 8) (kind : Nat) (seq : BitVec 32) (credits : Nat) :
    (sendFrame t port chip engine gen kind seq credits).outbox = (sendFrame s port chip engine gen kind seq credits).outbox := by
  have hbody : frameBody t kind engine gen seq credits = frameBody s kind engine gen seq credits := by
    simp only [frameBody, selfWord, h.fuse, h.load]
  simp only [Machine.sendFrame, sendTransfer, hbody, h.outbox]

/-- A SPORE's first block that is not served draws REFUSE. -/
theorem goodBlock_refused {s : State} {r : RxStream} {b : Blk} (hseq : b.seq = r.expect) (hkind : b.kind = 1)
    (hfirst : b.first = true) (href : refusesSpores (hearRx s r) = true) :
    (goodBlock s r b).outbox = (Machine.sendFrame s r.port b.chip b.engine b.gen 4 b.seq 0).outbox := by
  simp only [goodBlock, hseq, bne_self_eq_false, Bool.false_eq_true, if_false, hfirst, hkind, beq_self_eq_true, href,
    Bool.and_self, if_true]
  exact (((modRx_speaksAs ..).trans (modRx_speaksAs ..)).trans (modRx_speaksAs ..)).sendFrame ..

theorem olderGen_self (a : BitVec 8) : olderGen a a = false := by simp [olderGen]

/-- Settles O50: a block that is bad, not served, out of order, refused, kept, or of an older generation. -/
theorem blocksReceived : Obligations.BlocksReceived := by
  intro s port bs hlen hon hreset
  rw [exec_basolBlockReceive hlen hon hreset]
  refine ⟨fun hbad => ?_, fun hgood hup hfirst => ?_, fun hgood hup hfirst => ?_, ?_⟩
  · simp only [receiveBlock, hbad, Bool.not_false, if_true]
  · simp only [receiveBlock, hgood, hup, hfirst, Bool.not_true, Bool.false_eq_true, if_false, if_true]
  · simp only [receiveBlock, hgood, hup, hfirst, Bool.not_true, Bool.false_eq_true, if_false]
  · rintro r b rfl hgood hup hr
    obtain ⟨hsame, holdgen⟩ := receiveBlock_held (port := port) hgood hup hr
    refine ⟨fun hgen hseq => ?_, fun hgen hseq hkind hfirst href => ?_, fun hgen hseq hserved hpart => ?_,
      fun hknown hold => ?_⟩
    · rw [hsame hgen]
      simp only [goodBlock, bne_iff_ne.2 hseq, if_true]
    · refine ⟨_, rfl, ?_⟩
      have href' : refusesSpores (hearRx (teleEng s 6 1) r) = true := href
      rw [hsame hgen]
      exact (goodBlock_refused hseq hkind hfirst href').trans ((teleEng_speaksAs s 6 1).sendFrame ..)
    · have hkeep : ((readBlock bs).first && (readBlock bs).kind == 1 && refusesSpores (hearRx (teleEng s 6 1) r)) = false := by
        obtain hk | hf | hs := hserved
        · rw [beq_eq_false_iff_ne.2 hk, Bool.and_false, Bool.false_and]
        · simp [hf]
        · rw [show refusesSpores (hearRx (teleEng s 6 1) r) = false from hs, Bool.and_false]
      have hbegun : (!(readBlock bs).first && r.partBlocks == 0) = false := by
        obtain hf | hp := hpart
        · simp [hf]
        · simp [hp]
      rw [hsame hgen]
      simp only [goodBlock, hseq, bne_self_eq_false, Bool.false_eq_true, if_false, hkeep, hbegun]
    · have hgen : (readBlock bs).gen ≠ r.gen := by
        intro heq
        rw [heq, olderGen_self] at hold
        cases hold
      rw [holdgen hgen hknown hold]

/-! ## Messages and frames -/

theorem handling_some {s s1 : State} {chip : BitVec 16} {engine : Bool} {kind : BitVec 4} {m : RxMsg} (hup : s.up = true)
    (h : takeMsg s chip engine kind = some (s1, m)) (f : State → RxMsg → State) :
    handling s chip engine kind f = becomes s (f s1 m) := by
  simp only [handling, h]
  exact running_true hup rfl

/-- Settles O51: each row is `handling` of its type; the timers send a request again. -/
theorem messagesServed : Obligations.MessagesServed := by
  refine fun s s1 chip engine m hup => ⟨fun i kind f hi htake => ?_, fun htake => handling_some hup htake _,
    fun ch run src hrun hsrc hdue hfailed => ?_, fun c tag t j hhold hj hdue => ?_⟩
  · simp only [List.mem_cons, Prod.mk.injEq, List.not_mem_nil, or_false] at hi
    obtain ⟨rfl, rfl, rfl⟩ | ⟨rfl, rfl, rfl⟩ | ⟨rfl, rfl, rfl⟩ | ⟨rfl, rfl, rfl⟩ | ⟨rfl, rfl, rfl⟩ | ⟨rfl, rfl, rfl⟩ := hi
    all_goals exact handling_some hup htake _
  · change execReadRetryTimer (.chan ch) s = _
    simp only [execReadRetryTimer, hrun, hsrc]
    exact running_true hup (by rw [hdue, hfailed]; rfl)
  · change execReadRetryTimer (.wait c) s = _
    simp only [execReadRetryTimer, hhold, hj]
    exact running_true hup (decide_eq_true hdue)

/-- A frame of the stream's generation is served; any other leaves the state. -/
theorem framed_stream {s : State} {w : BitVec 128} {t : TxStream} (hup : s.up = true)
    (ht : findTx s (readFrame w).chip (readFrame w).engine = some t) (hended : t.ended = false) (kind : Nat)
    (g : State → TxStream → CtlFrame → State) :
    (∀ u, frameGood w = true → t.gen = (readFrame w).gen → (readFrame w).kind = kind →
      findTx (hearFrame s (readFrame w)) (readFrame w).chip (readFrame w).engine = some u →
      framed s kind w g = becomes s (g (hearFrame s (readFrame w)) u (readFrame w)))
    ∧ (frameGood w = false ∨ t.gen ≠ (readFrame w).gen → framed s kind w g = finish s s) := by
  simp only [framed, ht]
  refine ⟨fun u hgood hgen hkind hu => ?_, fun hbad => ?_⟩
  · refine (running_true hup (by simp [hgood, hgen, hkind, hended])).trans (congrArg (becomes s) ?_)
    simp only [hu]
  · rw [running_false, finish_self]
    obtain hbad | hgen := hbad
    · simp [hbad]
    · simp [hgen]

/-- Settles O52: each row is `framed` of its type. -/
theorem framesServed : Obligations.FramesServed := by
  rintro s port w f t u rfl hup ht hended
  have hack := framed_stream hup ht hended 1 fun s t f => modTx s t.chip t.engine (ackTo f.seq s.tick)
  have hnak := framed_stream hup ht hended 2 fun s t f =>
    let s1 := modTx s t.chip t.engine (ackTo (f.seq - 1) s.tick)
    match findTx s1 t.chip t.engine with
    | some t => if (t.unacked.head?.any fun b => b.seq == f.seq) then resendFrom s1 t else s1
    | none => s1
  have hcredit := framed_stream hup ht hended 3 fun s t f =>
    if f.credits == 0 then modTx s t.chip t.engine fun t => { t with stopped := true, resend := [] } else s
  have hrefuse := framed_stream hup ht hended 4 fun s t _ => loseDest s t.chip t.engine .refused
  refine ⟨fun hgood hgen hu => ⟨fun hkind => ?_, fun hkind v hv b bs hun hseq => ?_, fun hkind hcr => ?_,
    fun hkind hcr => ?_, fun hkind => ?_⟩, fun hbad => ⟨?_, ?_, ?_, ?_⟩⟩
  · exact hack.1 u hgood hgen hkind hu
  · refine (hnak.1 u hgood hgen hkind hu).trans (congrArg (becomes s) ?_)
    simp only [hv, hun, List.head?_cons, Option.any_some, hseq, beq_self_eq_true, if_true]
  · refine (hcredit.1 u hgood hgen hkind hu).trans (congrArg (becomes s) ?_)
    exact if_neg (by simpa using hcr)
  · refine (hcredit.1 u hgood hgen hkind hu).trans (congrArg (becomes s) ?_)
    exact if_pos (by simpa using hcr)
  · exact hrefuse.1 u hgood hgen hkind hu
  · exact hack.2 hbad
  · exact hnak.2 hbad
  · exact hcredit.2 hbad
  · exact hrefuse.2 hbad

/-! ## Timers -/

/-- Settles O53: each timer past its limit, the releases, and the reports of a port. -/
theorem streamTimers : Obligations.StreamTimers := by
  refine fun s chip engine hup => ⟨fun t b bs ht hended hun => ⟨fun hstop hres hdue => ?_, fun hborn hheard => ?_⟩,
    fun t ht hidle hwait hdue => ?_, fun r hr hdue => ⟨fun hknown => ?_, fun hwait hheld => ?_⟩, fun w hw hdue => ?_,
    fun port report hreset => ?_⟩
  · change execAckTimeout chip engine s = _
    simp only [execAckTimeout, ht]
    exact running_true hup (by simp [hended, hstop, hres, hun, hdue])
  · change execLostTimeout chip engine s = _
    simp only [execLostTimeout, ht]
    exact running_true hup (by simp [hended, hun, hborn, hheard])
  · change execSendStateRelease chip engine s = _
    simp only [execSendStateRelease, ht]
    exact running_true hup (by simp [hidle, hwait, hdue])
  · have hexec : exec (.streamEndTimeout chip engine) s = becomes s
        (modRx (if r.general == 0 then s else rewind s chip engine) chip engine fun r => { r with known := false }) := by
      change execStreamEndTimeout chip engine s = _
      simp only [execStreamEndTimeout, hr]
      exact running_true hup (by simp [hknown, hdue])
    rw [hexec]
    exact ⟨fun hg => by rw [if_neg (by simpa using hg)], fun hg => by rw [if_pos (by simpa using hg)]⟩
  · change execInboundStreamRelease chip engine s = _
    simp only [execInboundStreamRelease, hr]
    exact running_true hup (by simp [hwait, hheld, hdue])
  · change execCreditRepeat chip engine s = _
    simp only [execCreditRepeat, hw]
    exact running_true hup (decide_eq_true hdue)
  · change execLinkStatusReport port report s = _
    have hon : s.on = true := by
      have heng : s.eng = .up := by simpa [State.up] using hup
      simp [State.on, heng]
    rw [execLinkStatusReport, guarded_true (by simp [hon, hreset])]
    simp only [hup, if_true]
    rfl

end Sys2Proof.Proofs
end

section
/-!
PROOFS. Responses of memory and of the host bridge (15 R338, R339, 13 R317, 17 R371).
-/
namespace Sys2Proof.Proofs

open Sys2Proof Sys2Proof.Machine

/-! ## Memory -/

/-- A response goes to its owner while the units work, and to the security unit in SELFTEST too. -/
theorem answered_goes {s : State} {o : MemOwner} (h : s.live = true ∨ (s.eng = .selftest ∧ o = .crit)) (f : State → State) :
    answered s o f = dropGot (settleOn (f s)) := by
  rw [answered, if_pos]
  obtain hl | ⟨he, ho⟩ := h
  · simp [hl]
  · simp [he, ho]

/-- Any other response is discarded. -/
theorem answered_discards {s : State} {o : MemOwner} (hl : s.live = false) (h : s.eng ≠ .selftest ∨ o ≠ .crit)
    (f : State → State) : answered s o f = s := by
  rw [answered, if_neg]
  obtain he | ho := h
  · simp [hl, he]
  · simp [hl, ho]

theorem memRead_wf {tag : BitVec 12} {data : List Byte} (hmod : data.length % 64 = 0) (h64 : 64 ≤ data.length)
    (h2048 : data.length ≤ 2048) : Instr.wf (.memReadResponse tag data) = true := by
  have h0 : data.length ≠ 0 := by omega
  show slotsWf data = true
  simp only [slotsWf, hmod, h2048, bne_iff_ne.2 h0, beq_self_eq_true, decide_true, Bool.and_self]

/-- A state with the same queue is the outcome itself. -/
theorem finish_of_pending {s t : State} (h : t.pending = s.pending) : finish s t = .next t := by
  rw [finish, ← h]

theorem exec_memReadResponse {s s1 : State} {tag : BitVec 12} {r : MemReq} {data : List Byte}
    (hreq : takeReq s tag = some (r, s1)) (hw : r.write = false) (hlen : data.length = 64 * slotsOf r.addr r.len)
    (h64 : 64 ≤ data.length) (h2048 : data.length ≤ 2048) :
    exec (.memReadResponse tag data) s
      = finish s (answered s1 r.owner fun u => readReturned u r (slice data (r.addr % 64) r.len)) := by
  have hwf : Instr.wf (.memReadResponse tag data) = true := memRead_wf (by omega) h64 h2048
  change execMemReadResponse tag data s = _
  rw [execMemReadResponse, if_pos hwf]
  simp only [hreq]
  exact guarded_true (by simp [hw, hlen])

theorem exec_memWriteResponse {s s1 : State} {tag : BitVec 12} {r : MemReq} (hreq : takeReq s tag = some (r, s1))
    (hw : r.write = true) :
    exec (.memWriteResponse tag) s = finish s (answered s1 r.owner fun u => writeReturned u r) := by
  change execMemWriteResponse tag s = _
  simp only [execMemWriteResponse, hreq]
  exact guarded_true hw

theorem exec_memErrorResponse {s s1 : State} {tag : BitVec 12} {r : MemReq} (hreq : takeReq s tag = some (r, s1))
    (hon : s.on = true) : exec (.memErrorResponse tag) s = finish s (errorEnd s1 (s.eng == .locked) r) := by
  change execMemErrorResponse tag s = _
  simp only [execMemErrorResponse, hreq]
  exact guarded_true hon

/-- The responses to the request that has the tag. -/
theorem responses_taken {s s1 : State} {tag : BitVec 12} {r : MemReq} (hreq : takeReq s tag = some (r, s1)) :
    s1.live = s.live ∧ s1.eng = s.eng ∧ s1.on = s.on ∧ s1.pending = s.pending := by
  obtain ⟨-, -, rfl⟩ := takeReq_eq_some hreq
  exact ⟨rfl, rfl, rfl, rfl⟩

/-- A write that failed is taken back in memory; the engine's state is not touched. -/
theorem reverted_eng (s1 : State) (r : MemReq) :
    (if r.write then revertWrite s1 r else s1).live = s1.live ∧ (if r.write then revertWrite s1 r else s1).eng = s1.eng
    ∧ (if r.write then revertWrite s1 r else s1).pending = s1.pending := by
  cases r.write <;> exact ⟨rfl, rfl, rfl⟩

/-- Where a response goes to its owner the engine is neither OFF nor LOCKED. -/
theorem on_of_goes {s : State} {p : Prop} (h : s.live = true ∨ (s.eng = .selftest ∧ p)) :
    s.on = true ∧ s.eng ≠ .locked := by
  simp only [State.on, State.live] at h ⊢
  obtain hl | ⟨he, -⟩ := h
  · cases heng : s.eng <;> simp [heng] at hl ⊢
  · simp [he]

/-! ## The host bridge -/

theorem exec_hostBridgeResponse {s : State} {id : BitVec 16} {h : HostReq} {o : HostOutcome}
    (hfind : (s.hostOut.find? fun h => h.id == id) = some h) (hwf : Instr.wf (.hostBridgeResponse id o) = true)
    (hfits : outcomeFits h o = true) : exec (.hostBridgeResponse id o) s = finish s (hostReturned s h o) := by
  change execHostBridgeResponse id o s = _
  rw [execHostBridgeResponse, if_pos hwf]
  simp only [hfind]
  exact guarded_true hfits

theorem exec_hostBridgeResponse_none {s : State} {id : BitVec 16} {o : HostOutcome}
    (hfind : (s.hostOut.find? fun h => h.id == id) = none) (hwf : Instr.wf (.hostBridgeResponse id o) = true) :
    exec (.hostBridgeResponse id o) s = .next s := by
  change execHostBridgeResponse id o s = _
  rw [execHostBridgeResponse, if_pos hwf]
  simp only [hfind, finish_self]

theorem hostAnswered_live {s : State} (hl : s.live = true) (o : HostOwner) (f : State → State) :
    hostAnswered s o f = dropGot (settle (f s)) := if_pos hl

theorem hostAnswered_selftest {s : State} {o : HostOwner} (he : s.eng = .selftest) (ho : o.isDiag = true)
    (f : State → State) : hostAnswered s o f = f s := by
  have hl : s.live = false := by simp [State.live, he]
  simp [hostAnswered, hl, he, ho]

/-- What a host response brings to memory leaves the engine's state. -/
theorem hostTaken_eng (s : State) (h : HostReq) (b : Bool) :
    (if b then landHost (hostTaken s h) h else hostTaken s h).eng = s.eng
    ∧ (if b then revertHost (hostTaken s h) h else hostTaken s h).eng = s.eng := by
  cases b <;> exact ⟨rfl, rfl⟩

/-- Settles O55: a response is taken, goes to its owner or is discarded; a tag that is not out does nothing. -/
theorem responsesServed : Obligations.ResponsesServed := by
  refine ⟨fun s s1 tag r hreq => ?_, fun s tag hreq => ⟨?_, ?_, fun data hmod h64 h2048 => ?_⟩,
    fun s s1 id h hfind hs1 => ?_, fun s id hnone => ⟨fun data hlen => ?_, ?_, ?_⟩⟩
  · obtain ⟨hlive, heng, hon, hpend⟩ := responses_taken hreq
    have hself := finish_of_pending hpend
    rw [← hlive, ← heng]
    refine ⟨fun data hw hlen h64 h2048 => ?_, fun hw => ?_, ?_⟩
    · rw [exec_memReadResponse hreq hw hlen h64 h2048]
      exact ⟨fun hgoes => by rw [answered_goes hgoes]; rfl, fun hl hno => by rw [answered_discards hl hno, hself]⟩
    · rw [exec_memWriteResponse hreq hw]
      exact ⟨fun hgoes => by rw [answered_goes hgoes]; rfl, fun hl hno => by rw [answered_discards hl hno, hself]⟩
    · rintro s2 rfl
      obtain ⟨rlive, reng, rpend⟩ := reverted_eng s1 r
      have hmemErr : finish s (memErr (if r.write then revertWrite s1 r else s1)) = .next _ :=
        finish_of_pending (rpend.trans hpend)
      have hexec (ho : s1.on = true) := exec_memErrorResponse hreq (hon ▸ ho)
      simp only [← heng, errorEnd] at hexec
      refine ⟨fun hgoes => ?_, fun hst hno => ?_, fun hlock => ?_⟩
      · obtain ⟨hon1, hne⟩ := on_of_goes hgoes
        rw [hexec hon1, if_neg (by simpa using hne), answered_goes (by rw [← rlive, ← reng] at hgoes; exact hgoes)]
        rfl
      · have hl : s1.live = false := by simp [State.live, hst]
        rw [hexec (by simp [State.on, hst]), if_neg (by simp [hst]), answered_discards (s := memErr _) (rlive.trans hl) (.inr hno), hmemErr]
      · rw [hexec (by simp [State.on, hlock]), if_pos (by simp [hlock]), finish_of_pending (rpend.trans hpend)]
  · change execMemWriteResponse tag s = _
    simp only [execMemWriteResponse, hreq, finish_self]
  · change execMemErrorResponse tag s = _
    simp only [execMemErrorResponse, hreq, finish_self]
  · have hwf : Instr.wf (.memReadResponse tag data) = true := memRead_wf hmod h64 h2048
    change execMemReadResponse tag data s = _
    rw [execMemReadResponse, if_pos hwf]
    simp only [hreq, finish_self]
  · obtain rfl : s1 = hostTaken s h := hs1
    refine ⟨fun data hlen hfit => ?_, fun o ho => ?_, fun hw a => ?_, fun c hc => ?_⟩
    · have hwf : Instr.wf (.hostBridgeResponse id (.ok data)) = true := decide_eq_true hlen
      rw [exec_hostBridgeResponse hfind hwf (by simpa [outcomeFits] using hfit), hostReturned_ok]
      obtain ⟨heng, -⟩ := hostTaken_eng s h h.write
      refine ⟨fun hl => ?_, fun k hst hk => ?_⟩
      · rw [hostAnswered_live ((live_congr heng).trans hl)]
        rfl
      · rw [hostAnswered_selftest (heng.trans hst) (by rw [hk]; rfl), hostGood, hk]
        rfl
    · have hwf : Instr.wf (.hostBridgeResponse id o) = true := by obtain rfl | rfl := ho <;> rfl
      have hfits : outcomeFits h o = true := by obtain rfl | rfl := ho <;> rfl
      rw [exec_hostBridgeResponse hfind hwf hfits, hostReturned_bad s h ho]
      obtain ⟨-, heng⟩ := hostTaken_eng s h (h.write && h.owner.isDma)
      refine ⟨fun hl => ?_, fun k hst hk => ?_⟩
      · rw [hostAnswered_live ((live_congr heng).trans hl)]
        rfl
      · rw [hostAnswered_selftest (heng.trans hst) (by rw [hk]; rfl)]
        simp only [hostBad, hk, HostOwner.isDma, Bool.and_false, Bool.false_eq_true, if_false]
        rfl
    · rw [landHost]
      exact memByte_memWrite ..
    · rw [hc]
      rfl
  · exact exec_hostBridgeResponse_none hnone (decide_eq_true hlen)
  · exact exec_hostBridgeResponse_none hnone rfl
  · exact exec_hostBridgeResponse_none hnone rfl

end Sys2Proof.Proofs
end

section
/-!
PROOFS. Beat windows, pacing, current grants and ramps (01 R11, 15 R349, 17 R377).
-/
namespace Sys2Proof.Proofs

open Sys2Proof Sys2Proof.Machine

/-- Every unit is one of a kind in a slice. -/
theorem unitNo_surjective (u : Fin 24) : ∃ k l, u = unitNo k l ∧ Fin.ofNat 8 u.val = l := by
  have h : u = unitNo .frond (Fin.ofNat 8 u.val) ∨ u = unitNo .sketch (Fin.ofNat 8 u.val)
      ∨ u = unitNo .sfu (Fin.ofNat 8 u.val) := by
    revert u
    decide
  obtain h | h | h := h
  · exact ⟨_, _, h, rfl⟩
  · exact ⟨_, _, h, rfl⟩
  · exact ⟨_, _, h, rfl⟩

theorem slice_unitNo (k : UnitKind) (l : SliceId) : Fin.ofNat 8 (unitNo k l).val = l := by
  cases k <;> revert l <;> decide

/-- Some unit of an enabled slice has had no operand for 2,000 ticks. -/
theorem idleUnit_iff (s : State) : idleUnit s = true ↔
    ∃ k l, sliceOn s l = true ∧ 2000 ≤ s.since s.power.lastOperand[unitNo k l] := by
  simp only [idleUnit, List.any_eq_true, Bool.and_eq_true, decide_eq_true_eq]
  refine ⟨fun ⟨u, _, hon, hidle⟩ => ?_, fun ⟨k, l, hon, hidle⟩ => ⟨unitNo k l, List.mem_finRange _, ?_, hidle⟩⟩
  · obtain ⟨k, l, rfl, hl⟩ := unitNo_surjective u
    exact ⟨k, l, hl ▸ hon, hidle⟩
  · rwa [slice_unitNo]

/-- The window that has ended is published, and the next one begins. -/
def windowClosed (s : State) (beats : Vector (BitVec 32) 8) : State :=
  { s with
    beatTick := s.beatFrom + 65536, beatFrom := s.beatFrom + 65536
    slices := Vector.ofFn fun i : Fin 8 => closeWindow s.slices[i] (if sliceOn s i then beats[i].toNat else 0) }

/-- What a grant leaves of the power state. -/
def granted (s : State) (grant need : BitVec 8) : State :=
  throttling { s with power := { s.power with
    grant := grant, need := need, req := nextRequest s grant need
    estimate := BitVec.ofNat 8 (min (max need.toNat s.power.estimate.toNat) (min grant.toNat (ceiling s)))
    throttle := BitVec.ofNat 32 (throttleNow s), throttledSince := none
    ramp := if s.power.estimate.toNat < need.toNat then none else s.power.ramp } }

/-- The request rises by at most 16 units, to no more than what is needed and than the ceiling. -/
theorem nextRequest_rises {s : State} {grant need : BitVec 8} (h : nextRequest s grant need ≠ s.power.req) :
    grant = s.power.req ∧ (nextRequest s grant need).toNat ≤ grant.toNat + 16
    ∧ (nextRequest s grant need).toNat ≤ need.toNat ∧ (nextRequest s grant need).toNat ≤ ceiling s := by
  unfold nextRequest at h ⊢
  split at h
  · next hcond =>
    obtain ⟨hgrant, -⟩ := Bool.and_eq_true_iff.1 hcond
    have hneed := need.isLt
    rw [if_pos hcond, BitVec.toNat_ofNat, Nat.mod_eq_of_lt (by omega)]
    exact ⟨by simpa using hgrant, by omega, by omega, by omega⟩
  · exact absurd rfl h

/-- A ramp lowers the estimate, by at most 6 % of its start. -/
theorem rampTo_bounds (p : Power) (e0 draw : BitVec 8) :
    (rampTo p e0 draw).toNat ≤ p.estimate.toNat
    ∧ 100 * p.estimate.toNat ≤ 100 * (rampTo p e0 draw).toNat + 6 * e0.toNat := by
  have hest := p.estimate.isLt
  have hceil : 100 * p.estimate.toNat - 6 * e0.toNat ≤ 100 * ceilDiv (100 * p.estimate.toNat - 6 * e0.toNat) 100 := by
    unfold ceilDiv
    omega
  rw [rampTo, BitVec.toNat_ofNat, Nat.mod_eq_of_lt (by omega)]
  omega

/-- Settles O57: each row under its condition changes its own part of the power state or of the slices. -/
theorem paceAndPower : Obligations.PaceAndPower := by
  refine fun s => ⟨fun beats hon hlock hdue => ?_, fun beats hno => ?_, fun lost hup hpaced => ?_,
    fun grant need hon => ?_, fun k l hon hramp hsl hidle => ?_, fun hbusy => ?_, fun draw e0 t0 hon hramp hdue => ?_⟩
  · have hexec : exec (.beatWindowEnd beats) s = .next (windowClosed s beats) := by
      change execBeatWindowEnd beats s = _
      exact guarded_true (by simp [hon, hlock, hdue])
    refine ⟨windowClosed s beats, hexec, rfl, ?_⟩
    rintro i n rfl
    simp [windowClosed, closeWindow]
  · change execBeatWindowEnd beats s = _
    rw [execBeatWindowEnd, guarded_false, finish_self]
    obtain hearly | hlock := hno
    · rw [decide_eq_false (Nat.not_le.2 hearly), Bool.and_false]
    · simp [hlock]
  · change execPaceCredit lost s = _
    exact guarded_true (by simp [hup, hpaced])
  · have hexec : exec (.currentGrant grant need) s = .next (granted s grant need) := by
      change execCurrentGrant grant need s = _
      exact guarded_true hon
    refine ⟨granted s grant need, hexec, rfl, rfl, rfl, ?_, nextRequest_rises, ?_⟩
    · have hgrant := grant.isLt
      exact (BitVec.toNat_ofNat ..).trans (Nat.mod_eq_of_lt (by omega))
    · show (if min grant.toNat (ceiling s) < need.toNat then some s.tick else none) = none ↔ _
      simp
  · change execFillerLimitExpire s = _
    exact guarded_true (by simp [hon, hramp, (idleUnit_iff s).2 ⟨k, l, hsl, hidle⟩])
  · have hno : idleUnit s = false := by
      rw [Bool.eq_false_iff]
      intro hidle
      obtain ⟨k, l, hsl, hold⟩ := (idleUnit_iff s).1 hidle
      exact absurd (hbusy k l hsl) (Nat.not_lt.2 hold)
    change execFillerLimitExpire s = _
    rw [execFillerLimitExpire, guarded_false (by rw [hno, Bool.and_false]), finish_self]
  · obtain ⟨hle, hslow⟩ := rampTo_bounds s.power e0 draw
    refine ⟨{ s with power := { s.power with
      estimate := rampTo s.power e0 draw
      req := if (rampTo s.power e0 draw).toNat < s.power.req.toNat then rampTo s.power e0 draw else s.power.req
      ramp := some (e0, s.tick) } }, ?_, rfl, rfl, hle, hslow, ?_⟩
    · change execRampStep draw s = _
      simp only [execRampStep, hramp]
      exact guarded_true (by simp [hon, hdue])
    · show (if _ then _ else _ : BitVec 8).toNat ≤ _
      split
      · next hlt => exact Nat.le_of_lt hlt
      · exact Nat.le_refl _

end Sys2Proof.Proofs
end

section
/-!
PROOFS. Sensor records, the timebase, reset and power (15 R346 to R351, 01 R26, R28).
-/
namespace Sys2Proof.Proofs

open Sys2Proof Sys2Proof.Machine

/-! ## What an entry to SELFTEST keeps -/

/-- Both memories, the sensor block and the key slots stay, and every context is in the state it was in. -/
structure Enters (s t : State) : Prop where
  chip : t.chip = s.chip
  host : t.host = s.host
  sensor : t.sensor = s.sensor
  slots : t.slots = s.slots
  states : ∀ d : CtxId, (t.ctx d).state = (s.ctx d).state

theorem Enters.refl (s : State) : Enters s s := ⟨rfl, rfl, rfl, rfl, fun _ => rfl⟩

theorem Enters.trans {s t u : State} (h : Enters s t) (k : Enters t u) : Enters s u :=
  ⟨k.chip.trans h.chip, k.host.trans h.host, k.sensor.trans h.sensor, k.slots.trans h.slots,
    fun d => (k.states d).trans (h.states d)⟩

theorem Enters.foldl {α : Type} {f : State → α → State} (hf : ∀ u x, Enters u (f u x)) (l : List α) :
    ∀ s, Enters s (l.foldl f s) := by
  induction l with
  | nil => exact fun s => .refl s
  | cons x l ih => exact fun s => (hf s x).trans (ih (f s x))

theorem modCtx_enters (s : State) (c : CtxId) {f : Ctx → Ctx} (hf : ∀ x, (f x).state = x.state) : Enters s (modCtx s c f) :=
  ⟨rfl, rfl, rfl, rfl, (Standing.modCtx s c hf).state⟩

theorem freePlaces_enters (s : State) (chip : BitVec 16) (engine : Bool) (n : Nat) : Enters s (freePlaces s chip engine n) := by
  unfold freePlaces
  split
  · exact .refl s
  · split <;> exact ⟨rfl, rfl, rfl, rfl, fun _ => rfl⟩

theorem dropSpores_enters (s : State) (p : Packet → Bool) : Enters s (dropSpores s p) := by
  unfold dropSpores
  dsimp only
  refine Enters.trans ?_ (.foldl (fun _ _ => freePlaces_enters ..) _ _)
  exact ⟨rfl, rfl, rfl, rfl, fun _ => rfl⟩

theorem endWait_enters (s : State) (c : CtxId) (j : Job) (st v0 : Nat) : Enters s (endWait s c j st v0) :=
  (modCtx_enters s c (f := fun x => { x with hold := none }) fun _ => rfl).trans
    (modCtx_enters _ c (f := fun x => { x with
      dealt := x.dealt.filter fun d => d.2.c != j.c, recs := x.recs ++ [recOf .walker j st v0 0 0] }) fun _ => rfl)

theorem dropWait_enters (s : State) (c : CtxId) : Enters s (dropWait s c) := by
  unfold dropWait
  split
  · split
    · exact .refl s
    · exact endWait_enters ..
  · exact .refl s

theorem dropGroup_enters (s : State) (c : CtxId) : Enters s (dropGroup s c) := by
  unfold dropGroup
  exact modCtx_enters s c fun _ => rfl

theorem nextGens_enters (s : State) (ts : List TxStream) : Enters s (ts.foldl nextGen s) :=
  .foldl (f := nextGen) (fun _ _ => ⟨rfl, rfl, rfl, rfl, fun _ => rfl⟩) ts s

theorem dropRest_enters (s : State) : Enters s (dropRemote (dropPlaces s)) := ⟨rfl, rfl, rfl, rfl, fun _ => rfl⟩

theorem dropStreams_enters (s : State) : Enters s (dropStreams s) := by
  have hspores (u : State) : Enters u (dropRemote (dropPlaces (dropSpores u fun k => k.state != .feeding))) :=
    (dropSpores_enters u _).trans (dropRest_enters _)
  have hgroups (u : State) : Enters u ((fins 16).foldl (fun s c => dropGroup (dropWait s c) c) u) :=
    .foldl (f := fun s c => dropGroup (dropWait s c) c)
      (fun u c => (dropWait_enters u c).trans (dropGroup_enters _ c)) _ u
  have hcleared (u : State) (l) : Enters u
      { u with txWait := [], rx := [], rxPast := [], rxWait := [], readPend := l, serving := [] } :=
    ⟨rfl, rfl, rfl, rfl, fun _ => rfl⟩
  have hkill (p : MemOwner → Bool) : Enters s (killReads s p) := ⟨rfl, rfl, rfl, rfl, fun _ => rfl⟩
  unfold dropStreams
  dsimp only
  refine Enters.trans ?_ (hgroups _)
  refine Enters.trans ?_ (hspores _)
  refine Enters.trans ?_ (nextGens_enters _ _)
  exact (hkill _).trans (hcleared _ _)

theorem wipeSram_enters (s : State) : Enters s (wipeSram s) :=
  ⟨rfl, rfl, rfl, rfl, fun d => by simp [wipeSram, State.ctx, vmap]⟩

theorem selftestSet_enters (s u : State) (b : Bool) : Enters u (selftestSet s u b) := ⟨rfl, rfl, rfl, rfl, fun _ => rfl⟩

/-- SELFTEST is entered with the fuse input that stands, and with nothing in its tables. -/
theorem enterSelftest_enters (s : State) (b : Bool) : Enters s (enterSelftest s b)
    ∧ (enterSelftest s b).fuse = s.pins ∧ (enterSelftest s b).dir = [] ∧ (enterSelftest s b).tiles = [] := by
  rw [enterSelftest_eq]
  have hbegun : Enters s (selftestBegun s) := ⟨rfl, rfl, rfl, rfl, fun _ => rfl⟩
  generalize selftestBegun s = v at *
  have hdrop := dropStreams_enters v
  generalize dropStreams v = u at *
  exact ⟨((hbegun.trans hdrop).trans (wipeSram_enters u)).trans (selftestSet_enters ..), rfl, rfl, rfl⟩

/-! ## Sensor records -/

/-- Outside SELFTEST no step counts what is out of range. -/
theorem testOor_other {s : State} (h : s.eng ≠ .selftest) (out : Bool) : testOor s out = s := if_neg (by simpa using h)

theorem exec_sensorRecord_off {s : State} (hoff : s.eng = .off) (r : SensorRec) :
    exec (.sensorRecord r) s = guarded s (!s.inReset && railsIn r) fun s => enterSelftest (publishRecord s r) true := by
  change execSensorRecord r s = _
  rw [execSensorRecord, if_pos (by simp [hoff])]

/-- The sensor registers after a record. -/
def published (s : State) (r : SensorRec) : Sensor :=
  { s.sensor with
    latest := r, lastTick := s.tick, gap := false
    ndeOor := s.sensor.ndeOor || !ndeIn r, nsramOor := s.sensor.nsramOor || !nsramIn r
    tempOor := s.sensor.tempOor || !tempsIn r }

theorem publishRecord_eq (s : State) (r : SensorRec) :
    publishRecord s r = { s with sensor := published s r, power := (publishRecord s r).power } := rfl

/-- A record published in READY, RUN, SAFE or LOCKED changes the sensor registers and what follows of the draw alone. -/
theorem exec_sensorRecord_on {s : State} (hlive : s.eng = .up ∨ s.eng = .safe ∨ s.eng = .locked) (r : SensorRec) :
    exec (.sensorRecord r) s = .next { s with sensor := published s r, power := (publishRecord s r).power } := by
  have hoff : (s.eng == .off) = false := by obtain h | h | h := hlive <;> simp [h]
  have htest : (publishRecord s r).eng ≠ .selftest := by
    change s.eng ≠ .selftest
    obtain h | h | h := hlive <;> simp [h]
  change execSensorRecord r s = _
  rw [execSensorRecord, hoff, if_neg Bool.false_ne_true, testOor_other htest, publishRecord_eq]
  rfl

/-- No record for 10 µs: the stale flag, and every rail out of range. -/
def staleSensor (f : Sensor) : Sensor := { f with stale := true, gap := true, ndeOor := true, nsramOor := true }

/-- In SELFTEST what is out of range is held for the self-test, elsewhere it changes no result of one. -/
theorem testOor_cases (s : State) : testOor s true = { s with st := (testOor s true).st }
    ∧ (s.eng ≠ .selftest → (testOor s true).st = s.st) ∧ (s.eng = .selftest → (testOor s true).st.oor = true) := by
  by_cases h : s.eng = .selftest
  · rw [testOor, if_pos (by simp [h])]
    exact ⟨rfl, fun hne => absurd h hne, fun _ => Bool.or_true _⟩
  · rw [testOor_other h]
    exact ⟨rfl, fun _ => rfl, fun he => absurd he h⟩

/-! ## The timebase -/

/-- Nothing but the contexts' accounting changes. -/
theorem passTo_eq (s : State) (n : BitVec 64) : passTo s n = { s with tick := n, ctxs := (passTo s n).ctxs } := by
  have hfold (f : State → CtxId → State) (hf : ∀ u c, f u c = { u with ctxs := (f u c).ctxs }) (cs : List CtxId) :
      ∀ u, cs.foldl f u = { u with ctxs := (cs.foldl f u).ctxs } := by
    induction cs with
    | nil => exact fun u => rfl
    | cons c cs ih =>
      intro u
      rw [List.foldl_cons, ih (f u c), hf u c]
  unfold passTo
  dsimp only
  split
  · rfl
  · refine hfold _ (fun u c => ?_) _ _
    split <;> rfl

/-- Settles O58: a record and a sample of the timebase, by the state that they find. -/
theorem sensorsAndTimebase : Obligations.SensorsAndTimebase := by
  refine fun s => ⟨fun r hlive => ?_, fun r hoff hreset hrails => ?_, fun r hoff hno => ?_, fun hon hgap hold => ?_,
    fun n hoff hjump => ?_, fun n hoff hjump => ?_⟩
  · exact ⟨_, exec_sensorRecord_on hlive r, rfl, rfl, rfl, rfl, rfl, rfl, rfl, rfl⟩
  · obtain ⟨⟨hchip, hhost, hsensor, hslots, -⟩, hfuse, -, -⟩ := enterSelftest_enters (publishRecord s r) true
    have heng := enterSelftest_eng (publishRecord s r) true
    rw [exec_sensorRecord_off hoff, guarded_true (by simp [hreset, hrails])]
    generalize enterSelftest (publishRecord s r) true = t at *
    exact ⟨_, rfl, heng, hfuse, congrArg Sensor.latest hsensor, hchip, hhost, hslots⟩
  · rw [exec_sensorRecord_off hoff, guarded_false]
    obtain hreset | hrails := hno
    · simp [hreset]
    · simp [hrails]
  · have hexec : exec .sensorStale s = finish s (testOor { s with sensor := staleSensor s.sensor } true) := by
      change execSensorStale s = _
      exact guarded_true (by simp [hon, hgap, hold])
    obtain ⟨hst, hother, htest⟩ := testOor_cases { s with sensor := staleSensor s.sensor }
    rw [hexec, hst]
    exact ⟨_, rfl, rfl, rfl, hother, htest⟩
  · have hexec : exec (.timebaseStep n) s = finish s (if s.eng == .locked then retimeOn s n else retime s n) := by
      change execTimebaseStep n s = _
      rw [execTimebaseStep, if_neg (by simpa using hoff), if_neg (by simp [hjump])]
    rw [hexec]
    refine ⟨_, rfl, ?_⟩
    split <;> exact ⟨rfl, rfl, rfl, rfl, rfl⟩
  · have hexec : exec (.timebaseStep n) s = finish s (passTo s n) := by
      change execTimebaseStep n s = _
      rw [execTimebaseStep, if_neg (by simpa using hoff), if_pos (by simp [hjump])]
    rw [hexec, passTo_eq]
    exact ⟨_, rfl, rfl, rfl, rfl, rfl, rfl, rfl⟩

/-! ## Reset and power -/

/-- Settles O59: what reset, its release and the loss of power leave. -/
theorem resetAndPower : Obligations.ResetAndPower := by
  refine fun s => ⟨fun n hn => ?_, ?_, fun pins hreset => ?_, ?_⟩
  · change execResetAssert n s = _
    rw [execResetAssert, if_pos (by simp [Instr.wf]; omega), if_pos hn]
    rfl
  · refine ⟨rfl, fun i => ?_, rfl, rfl, rfl, rfl, rfl, rfl, rfl, rfl, rfl, rfl, rfl, rfl⟩
    simp [offState, State.reset]
  · change execResetRelease pins s = _
    exact guarded_true hreset
  · exact ⟨_, rfl, rfl, rfl, rfl, rfl, rfl, rfl, rfl⟩

end Sys2Proof.Proofs
end

section
/-!
PROOFS. What follows of itself keeps the self-test's results, and the instruction store but for a FW_LOAD's taking,
which leaves it without an image (17 R374).
-/
namespace Sys2Proof.Proofs

open Sys2Proof Sys2Proof.Machine

/-- The instruction store and the self-test's results stay. -/
@[simp] abbrev KeepsImage (s t : State) : Prop := t.fw = s.fw ∧ t.st = s.st

@[simp] theorem ite_fw (c : Prop) [Decidable c] (a b : State) : (if c then a else b).fw = if c then a.fw else b.fw :=
  apply_ite _ c a b
@[simp] theorem ite_st (c : Prop) [Decidable c] (a b : State) : (if c then a else b).st = if c then a.st else b.st :=
  apply_ite _ c a b

theorem KeepsImage.trans {s t u : State} (h : KeepsImage s t) (k : KeepsImage t u) : KeepsImage s u :=
  ⟨k.1.trans h.1, k.2.trans h.2⟩

@[simp] theorem foldl_image {α : Type} (f : State → α → State) (h : ∀ u x, KeepsImage u (f u x)) (l : List α)
    (s : State) : KeepsImage s (l.foldl f s) := by
  induction l generalizing s with
  | nil => exact ⟨rfl, rfl⟩
  | cons x l ih => exact (h s x).trans (ih (f s x))

/-! ## The shared operations -/

@[simp] theorem modCtx_image (s c f) : KeepsImage s (modCtx s c f) := (modCtx_spares ..).2
@[simp] theorem issueReq_image (s : State) (r : MemReq) : KeepsImage s (issueReq s r) := by
  cases hc : r.charge <;> simp [issueReq, hc]
@[simp] theorem pumpMem_image (n : Nat) (s : State) : KeepsImage s (pumpMem n s) := by
  induction n generalizing s with
  | zero => simp [pumpMem]
  | succ n ih =>
    unfold pumpMem
    split
    · simp
    · simp [ih]
@[simp] theorem request_image (s : State) (rs : List MemReq) : KeepsImage s (request s rs) :=
  (request_portMoves s rs).spares.2
@[simp] theorem writeMem_image (s : State) (o : MemOwner) (a : Nat) (d : List Byte) (r : Nat) (c : Option CtxId) :
    KeepsImage s (writeMem s o a d r c) := (writeMem_portMoves s o a d r c).spares.2

/-! ## The shared operations of the state -/

@[simp] theorem teleCtx_image (s : State) (c : CtxId) (i k : Nat) : KeepsImage s (teleCtx s c i k) := by simp [teleCtx]
@[simp] theorem teleEng_image (s : State) (i k : Nat) : KeepsImage s (teleEng s i k) := by simp [teleEng]
@[simp] theorem acctAdd_image (s : State) (c : CtxId) (i k : Nat) : KeepsImage s (acctAdd s c i k) := by simp [acctAdd]
@[simp] theorem convCount_image (s : State) (c : CtxId) (n : ConvCount) : KeepsImage s (convCount s c n) := by
  simp [convCount]
@[simp] theorem tdcEvent_image (s : State) (kind k : Nat) (c : Option CtxId) : KeepsImage s (tdcEvent s kind k c) := by
  unfold tdcEvent
  (repeat' split) <;> simp
@[simp] theorem memCharge_image (s : State) (c : CtxId) (n : Nat) : KeepsImage s (memCharge s c n) := by
  simp [memCharge]
@[simp] theorem servedBy_image (s : State) (r : MemReq) : KeepsImage s (servedBy s r) := by simp [servedBy]
@[simp] theorem reading_image (s : State) (o : MemOwner) (rank : Nat) (charge : Option CtxId) (rs : List (Nat × Nat))
    (k : State → State) (h : KeepsImage s (k s)) : KeepsImage s (reading s o rank charge rs k) := by
  unfold reading
  dsimp only
  (repeat' split)
  · simp
  · exact h
  · exact request_image ..
@[simp] theorem dropRead_image (s : State) (o : MemOwner) : KeepsImage s (dropRead s o) := by simp [dropRead]
@[simp] theorem killReads_image (s : State) (p : MemOwner → Bool) : KeepsImage s (killReads s p) := ⟨rfl, rfl⟩
@[simp] theorem hostIssue_image (s : State) (o : HostOwner) (write : Bool) (a n : Nat) (data : List Byte) :
    KeepsImage s (hostIssue s o write a n data) := by simp [hostIssue]
@[simp] theorem closeRec_image (s : State) (c : CtxId) (r : Rec) : KeepsImage s (closeRec s c r) := by simp [closeRec]
@[simp] theorem complete_image (s : State) (c : CtxId) (u : UnitId) (j : Job) (st v0 v1 v2 : Nat) :
    KeepsImage s (complete s c u j st v0 v1 v2) := by simp [complete]
@[simp] theorem completeErr_image (s : State) (c : CtxId) (u : UnitId) (j : Job) (st : Nat) :
    KeepsImage s (completeErr s c u j st) := by simp [completeErr]
@[simp] theorem pumpRec_image (s : State) (c : CtxId) : KeepsImage s (pumpRec s c) := by
  unfold pumpRec
  dsimp only
  (repeat' split) <;> simp
@[simp] theorem pumpRecs_image (s : State) : KeepsImage s (pumpRecs s) := by simp [pumpRecs]
@[simp] theorem modTile_image (s : State) (c : CtxId) (e : BitVec 16) (f : Tile → Tile) :
    KeepsImage s (modTile s c e f) := by simp [modTile]
@[simp] theorem modPeer_image (s : State) (chip : BitVec 16) (engine : Bool) (f : Peer → Peer) :
    KeepsImage s (modPeer s chip engine f) := (modPeer_spares ..).2
@[simp] theorem modTx_image (s : State) (chip : BitVec 16) (engine : Bool) (f : TxStream → TxStream) :
    KeepsImage s (modTx s chip engine f) := by simp [modTx]
@[simp] theorem sendMsg_image (s : State) (chip : BitVec 16) (engine : Bool) (m : TxMsg) :
    KeepsImage s (sendMsg s chip engine m) := (sendMsg_spares ..).2
@[simp] theorem abortPackets_image (s : State) (p : Packet → Bool) : KeepsImage s (abortPackets s p) := ⟨rfl, rfl⟩
@[simp] theorem freeBank_image (s : State) (t : Tile) : KeepsImage s (freeBank s t) := by
  unfold freeBank
  split <;> simp
@[simp] theorem dropWaiting_image (s : State) (c : CtxId) (e : BitVec 16) : KeepsImage s (dropWaiting s c e) := by
  simp [dropWaiting]
@[simp] theorem missTicks_image (s : State) (t : Tile) : KeepsImage s (missTicks s t) := (missTicks_spares ..).2
@[simp] theorem withdrawTile_image (s : State) (t : Tile) : KeepsImage s (withdrawTile s t) := by simp [withdrawTile]
@[simp] theorem abandonFor_image (s : State) (c : CtxId) (pre drain : Bool) : KeepsImage s (abandonFor s c pre drain) :=
  (abandonFor_spares ..).2
@[simp] theorem abandonAll_image (s : State) (c : CtxId) (pre : Bool) : KeepsImage s (abandonAll s c pre) := by
  simp [abandonAll]
@[simp] theorem reap_image (s : State) : KeepsImage s (reap s) := by simp [reap]
@[simp] theorem writeSave_image (s : State) (c : CtxId) : KeepsImage s (writeSave s c) := by simp [writeSave]
@[simp] theorem modTp_image (s : State) (c : CtxId) (k : BitVec 32) (f : TpJob → TpJob) :
    KeepsImage s (modTp s c k f) := by simp [modTp]
@[simp] theorem dmaEnd_image (s : State) (ch : ChanId) (d : DmaSet) (st v0 v1 : Nat) :
    KeepsImage s (dmaEnd s ch d st v0 v1) := (dmaEnd_spares ..).2
@[simp] theorem completeTp_image (s : State) (c : CtxId) (j : Job) (t : TpJob) (st : Nat) :
    KeepsImage s (completeTp s c j t st) := by simp [completeTp]
@[simp] theorem endTps_image (s : State) (c : CtxId) : KeepsImage s (endTps s c) := by simp [endTps]
@[simp] theorem faultCtx_image (s : State) (c : CtxId) (st : Nat) (only : Option (BitVec 32)) :
    KeepsImage s (faultCtx s c st only) := (faultCtx_spares ..).2
@[simp] theorem preempt_image (s : State) (c : CtxId) : KeepsImage s (preempt s c) := by simp [preempt]
@[simp] theorem operandNow_image (s : State) (k : UnitKind) (ls : List SliceId) : KeepsImage s (operandNow s k ls) := by
  simp [operandNow]

/-! ## Credits -/

@[simp] theorem sendTransfer_image (s : State) (port : Fin 8) (chip : BitVec 16) (frame : Nat) :
    KeepsImage s (sendTransfer s port chip frame) := by simp [sendTransfer]
@[simp] theorem sendFrame_image (s : State) (port : Fin 8) (chip : BitVec 16) (engine : Bool) (gen : BitVec 8)
    (kind : Nat) (seq : BitVec 32) (credits : Nat) :
    KeepsImage s (sendFrame s port chip engine gen kind seq credits) := by
  simp [sendFrame]
@[simp] theorem modRx_image (s : State) (chip : BitVec 16) (engine : Bool) (f : RxStream → RxStream) :
    KeepsImage s (modRx s chip engine f) := by simp [modRx]
@[simp] theorem freePlaces_image (s : State) (chip : BitVec 16) (engine : Bool) (n : Nat) :
    KeepsImage s (freePlaces s chip engine n) := (freePlaces_spares ..).2
@[simp] theorem releaseRows_image (s : State) : KeepsImage s (releaseRows s) := by simp [releaseRows]

/-! ## The DMA channels -/

@[simp] theorem modDma_image (s : State) (ch : ChanId) (f : DmaChan → DmaChan) : KeepsImage s (modDma s ch f) := by
  simp [modDma]
@[simp] theorem writeBurst_image (s : State) (ch : ChanId) (d : DmaSet) (x : Burst) :
    KeepsImage s (writeBurst s ch d x) := by
  unfold writeBurst
  (repeat' split) <;> simp
@[simp] theorem dropBurst_image (s : State) (ch : ChanId) (b : Nat) : KeepsImage s (dropBurst s ch b) := ⟨rfl, rfl⟩
@[simp] theorem endBurst_image (s : State) (ch : ChanId) (x : Burst) : KeepsImage s (endBurst s ch x) := by
  simp [endBurst]
@[simp] theorem endBursts_image (s : State) (ch : ChanId) : KeepsImage s (endBursts s ch) := by simp [endBursts]
@[simp] theorem modBurst_image (s : State) (ch : ChanId) (b : Nat) (f : Burst → Burst) :
    KeepsImage s (modBurst s ch b f) := by simp [modBurst]
@[simp] theorem startWrites_image (s : State) (ch : ChanId) : KeepsImage s (startWrites s ch) := by simp [startWrites]
@[simp] theorem discardBursts_image (s : State) (ch : ChanId) : KeepsImage s (discardBursts s ch) := by
  simp [discardBursts]
@[simp] theorem endActive_image (s : State) (ch : ChanId) (st v0 v1 : Nat) :
    KeepsImage s (endActive s ch st v0 v1) := by simp [endActive]
@[simp] theorem endTransfer_image (s : State) (ch : ChanId) : KeepsImage s (endTransfer s ch) := by
  unfold endTransfer
  dsimp only
  (repeat' split) <;> simp
@[simp] theorem endChanDrain_image (s : State) (ch : ChanId) : KeepsImage s (endChanDrain s ch) := by
  simp [endChanDrain]
@[simp] theorem settleDma_image (s : State) (ch : ChanId) : KeepsImage s (settleDma s ch) := by simp [settleDma]

/-! ## The Owner Table -/

@[simp] theorem sendData_image (s : State) (p : PendRead) (status fmt : Nat) (data : List Byte) :
    KeepsImage s (sendData s p status fmt data) := by simp [sendData]
@[simp] theorem endServe_image (s : State) (n : Nat) : KeepsImage s (endServe s n) := by simp [endServe]
@[simp] theorem travelCount_image (s : State) (p : PendRead) (n : ConvCount) : KeepsImage s (travelCount s p n) := by
  unfold travelCount
  split <;> simp
@[simp] theorem serveRead_image (s : State) (n : Nat) : KeepsImage s (serveRead s n) := by
  unfold serveRead
  split <;> simp
@[simp] theorem answerRead_image (s : State) (p : PendRead) : KeepsImage s (answerRead s p) := by simp [answerRead]
@[simp] theorem releaseReads_image (s : State) : KeepsImage s (releaseReads s) := by simp [releaseReads]
@[simp] theorem publishOne_image (epoch : Nat) (s : State) (e : Nat) : KeepsImage s (publishOne epoch s e) := by
  simp [publishOne]
@[simp] theorem publish_image (s : State) (epoch : Nat) (es : List Nat) : KeepsImage s (publish s epoch es) := by
  simp [publish]

/-! ## The tile path checks -/

@[simp] theorem endCheck_image (s : State) (c : CtxId) (j : TpJob) (r : Except Nat TpJob) :
    KeepsImage s (endCheck s c j r) := by
  unfold endCheck
  dsimp only
  (repeat' split) <;> simp
@[simp] theorem checkTp_image (s : State) (c : CtxId) (j : TpJob) : KeepsImage s (checkTp s c j) := by
  unfold checkTp
  dsimp only
  split
  · simp
  · refine reading_image _ _ _ _ _ _ ?_
    split
    · simp
    · refine reading_image _ _ _ _ _ _ ?_
      split <;> simp

/-! ## The hot set -/

@[simp] theorem failTp_image (s : State) (c : CtxId) (k : BitVec 32) (st : Nat) : KeepsImage s (failTp s c k st) := by
  unfold failTp
  dsimp only
  split <;> simp
@[simp] theorem modDir_image (s : State) (i : Nat) (f : HotEntry → HotEntry) : KeepsImage s (modDir s i f) := by
  simp [modDir]
@[simp] theorem evict_image (s : State) (i : Nat) : KeepsImage s (evict s i) := by simp [evict]
@[simp] theorem evictUntil_image (need n k : Nat) (s : State) : KeepsImage s (evictUntil need n k s).1 := by
  induction n generalizing k s with
  | zero => simp [evictUntil]
  | succ n ih =>
    unfold evictUntil
    split
    · simp
    · split
      · simp [ih]
      · simp
theorem makeRoom_image {s u : State} {need k : Nat} (e : makeRoom s need = some (u, k)) : KeepsImage s u := by
  have hu : (evictUntil need s.dir.length 0 s).1 = u := by
    unfold makeRoom at e
    split at e
    · exact congrArg Prod.fst (Option.some.inj e)
    · cases e
  exact hu ▸ evictUntil_image ..
@[simp] theorem stampDir_image (s : State) (i : Nat) : KeepsImage s (stampDir s i) := by simp [stampDir]
@[simp] theorem startLoad_image (s : State) (i : Nat) (rank : Nat) (c : CtxId) (rs : List (Nat × Nat)) :
    KeepsImage s (startLoad s i rank c rs) := by simp [startLoad]
@[simp] theorem endHot_image (s : State) (h : HotJob) (st v0 v1 : Nat) : KeepsImage s (endHot s h st v0 v1) := by
  unfold endHot
  dsimp only
  split <;> simp
@[simp] theorem endStall_image (s : State) (e : HotEntry) : KeepsImage s (endStall s e) := by simp [endStall]
@[simp] theorem failMiss_image (s : State) (e : HotEntry) (st : Nat) : KeepsImage s (failMiss s e st) := by
  simp [failMiss]
@[simp] theorem dropSegments_image (s : State) (key : BitVec 24) : KeepsImage s (dropSegments s key) := by
  simp [dropSegments]
@[simp] theorem loaded_image (s : State) (i : Nat) (e : HotEntry) : KeepsImage s (loaded s i e) := by
  unfold loaded
  dsimp only
  split <;> simp
@[simp] theorem loadFailed_image (s : State) (i : Nat) (e : HotEntry) (st : Nat) :
    KeepsImage s (loadFailed s i e st) := by
  unfold loadFailed
  dsimp only
  split <;> simp
@[simp] theorem finishLoad_image (s : State) (i : Nat) : KeepsImage s (finishLoad s i) := by
  unfold finishLoad
  split <;> simp
@[simp] theorem placeLoad_image (s : State) (j : HotJob) (h i : Nat) (pinned : Bool) :
    KeepsImage s (placeLoad s j h i pinned) := by
  unfold placeLoad
  dsimp only
  split
  · simp
  · next hroom => simp [makeRoom_image hroom]
@[simp] theorem enterLoad_image (s : State) (j : HotJob) (h : Nat) : KeepsImage s (enterLoad s j h) := by
  unfold enterLoad
  (repeat' split) <;> simp
@[simp] theorem beginLoad_image (s : State) (j : HotJob) : KeepsImage s (beginLoad s j) := by
  unfold beginLoad
  split
  · simp
  · refine reading_image _ _ _ _ _ _ ?_
    dsimp only
    split
    · simp
    · split
      · simp
      · split
        · simp
        · refine reading_image _ _ _ _ _ _ ?_
          split <;> simp
@[simp] theorem beginPin_image (s : State) (j : HotJob) : KeepsImage s (beginPin s j) := by
  unfold beginPin
  dsimp only
  split
  · simp
  · (repeat' split) <;> simp
    next hroom => simp [makeRoom_image hroom]
@[simp] theorem hotHead_image (s : State) : KeepsImage s (hotHead s) := by
  unfold hotHead
  (repeat' split) <;> simp
@[simp] theorem hotSteps_image (n : Nat) (s : State) : KeepsImage s (hotSteps n s) := by
  induction n generalizing s with
  | zero => simp [hotSteps]
  | succ n ih =>
    unfold hotSteps
    simp [ih]
@[simp] theorem hotPump_image (s : State) : KeepsImage s (hotPump s) := by
  unfold hotPump
  split <;> simp

/-! ## The tiles -/

@[simp] theorem modEntries_image (s : State) (t : Tile) (f : List (Nat × RtEntry) → List (Nat × RtEntry)) :
    KeepsImage s (modEntries s t f) := by
  unfold modEntries
  split <;> simp
@[simp] theorem takeBank_image (s : State) (t : Tile) : KeepsImage s (takeBank s t) := by
  unfold takeBank
  split <;> simp
@[simp] theorem fillMore_image (s : State) (t : Tile) : KeepsImage s (fillMore s t) := by simp [fillMore]
@[simp] theorem endFill_image (s : State) (t : Tile) : KeepsImage s (endFill s t) := by simp [endFill]
@[simp] theorem again_image (s : State) (t : Tile) (f : State → Tile → State) (hf : ∀ u x, KeepsImage u (f u x)) :
    KeepsImage s (again s t f) := by
  unfold again
  split
  · exact hf _ _
  · simp
@[simp] theorem settleTile_image (s : State) (t : Tile) : KeepsImage s (settleTile s t) := by
  unfold settleTile
  dsimp only
  refine KeepsImage.trans (KeepsImage.trans (KeepsImage.trans (KeepsImage.trans (again_image _ _ _ fun u x => ?_)
    (again_image _ _ _ fun u x => fillMore_image ..)) (again_image _ _ _ fun u x => ?_))
    (again_image _ _ _ fun u x => ?_)) (again_image _ _ _ fun u x => ?_)
  · split <;> simp
  · split <;> simp
  · simp
  · split <;> simp
@[simp] theorem freeFrames_image (s : State) : KeepsImage s (freeFrames s) := by simp [freeFrames]
@[simp] theorem settleTiles_image (s : State) : KeepsImage s (settleTiles s) := by simp [settleTiles]

/-! ## The mover channels -/

@[simp] theorem modRun_image (s : State) (ch : ChanId) (f : MoverRun → MoverRun) : KeepsImage s (modRun s ch f) := by
  simp [modRun]
@[simp] theorem failRun_image (s : State) (ch : ChanId) (st : Nat) : KeepsImage s (failRun s ch st) := by simp [failRun]
@[simp] theorem strictFault_image (s : State) (ch : ChanId) (c : CtxId) : KeepsImage s (strictFault s ch c) := by
  simp [strictFault]
@[simp] theorem countDecode_image (s : State) (m : MoverRun) (src : TDesc) (fmt : Nat) (bytes : List Byte) :
    KeepsImage s (countDecode s m src fmt bytes) := by simp [countDecode]
@[simp] theorem holdRow_image (s : State) (ch : ChanId) (m : MoverRun) (src : TDesc) (q fmt : Nat) (bytes : List Byte) :
    KeepsImage s (holdRow s ch m src q fmt bytes) := by simp [holdRow]
@[simp] theorem moverReading_image (s : State) (ch : ChanId) (c : CtxId) (rs : List (Nat × Nat)) (k : State → State)
    (h : KeepsImage s (k s)) :
    KeepsImage s (moverReading s ch c rs k) := reading_image _ _ _ _ _ _ (h.trans (dropRead_image ..))
@[simp] theorem sendReq_image (s : State) (ch : ChanId) (m : MoverRun) (src : TDesc) (q : RReq) :
    KeepsImage s (sendReq s ch m src q) := by simp [sendReq]
@[simp] theorem askRow_image (s : State) (ch : ChanId) (m : MoverRun) (src : TDesc) (q e off : Nat) :
    KeepsImage s (askRow s ch m src q e off) := by simp [askRow]
@[simp] theorem seekRemote_image (ch : ChanId) (src : TDesc) (s : State) (q : Nat) :
    KeepsImage s (seekRemote ch src s q) := by
  unfold seekRemote
  split <;> simp
@[simp] theorem readOwn_image (s : State) (ch : ChanId) (m : MoverRun) (src : TDesc) (p : RowPlan) :
    KeepsImage s (readOwn s ch m src p) := by simp [readOwn]
@[simp] theorem endHalo_image (s : State) (ch : ChanId) (m : MoverRun) : KeepsImage s (endHalo s ch m) := by
  unfold endHalo
  split <;> simp
@[simp] theorem moveRow_image (s : State) (ch : ChanId) (m : MoverRun) (src dst : TDesc) (p : RowPlan) (a : Nat)
    (old : List Byte) : KeepsImage s (moveRow s ch m src dst p a old) := by
  unfold moveRow
  (repeat' split) <;> simp
@[simp] theorem finishRow_image (s : State) (ch : ChanId) (m : MoverRun) (src dst : TDesc) (p : RowPlan) :
    KeepsImage s (finishRow s ch m src dst p) := by
  unfold finishRow
  (repeat' split) <;> simp
@[simp] theorem stepRow_image (s : State) (ch : ChanId) (m : MoverRun) (src dst : TDesc) :
    KeepsImage s (stepRow s ch m src dst) := by
  unfold stepRow
  dsimp only
  (repeat' split) <;> simp
@[simp] theorem scatterOob_image (s : State) (ch : ChanId) (m : MoverRun) (src dst : TDesc) :
    KeepsImage s (scatterOob s ch m src dst) := by simp [scatterOob]
@[simp] theorem loadLists_image (s : State) (ch : ChanId) (m : MoverRun) (src dst : TDesc) :
    KeepsImage s (loadLists s ch m src dst) := by simp [loadLists]
@[simp] theorem dropRun_image (s : State) (ch : ChanId) : KeepsImage s (dropRun s ch) := by simp [dropRun]
@[simp] theorem endRun_image (s : State) (ch : ChanId) (m : MoverRun) : KeepsImage s (endRun s ch m) := by
  unfold endRun
  dsimp only
  (repeat' split) <;> simp
@[simp] theorem moverStep_image (s : State) (ch : ChanId) : KeepsImage s (moverStep s ch) := by
  unfold moverStep
  (repeat' split) <;> simp
@[simp] theorem moverLoop_image (n : Nat) (s : State) (ch : ChanId) : KeepsImage s (moverLoop n s ch) := by
  induction n generalizing s with
  | zero => simp [moverLoop]
  | succ n ih =>
    unfold moverLoop
    dsimp only
    split
    · exact moverStep_image ..
    · exact (moverStep_image ..).trans (ih _)
@[simp] theorem settleMover_image (s : State) (ch : ChanId) : KeepsImage s (settleMover s ch) := by
  unfold settleMover
  split <;> simp
@[simp] theorem settleMovers_image (n : Nat) (s : State) : KeepsImage s (settleMovers n s) := by
  induction n generalizing s with
  | zero => simp [settleMovers]
  | succ n ih =>
    have w : KeepsImage s ((fins 16).foldl settleMover s) := foldl_image _ (fun u x => settleMover_image u x) _ _
    unfold settleMovers
    dsimp only
    split
    · exact w
    · exact w.trans (ih _)

/-! ## The drain -/

@[simp] theorem modQueue_image (s : State) (p : PortId) (f : CoreQ → CoreQ) :
    KeepsImage s (modQueue s p f) := ⟨rfl, rfl⟩
@[simp] theorem drainBad_image (s : State) : KeepsImage s (drainBad s) := by simp [drainBad]
@[simp] theorem writeSlot_image (s : State) (t : Tile) (i : Nat) (row : List Byte) :
    KeepsImage s (writeSlot s t i row) := by simp [writeSlot]
@[simp] theorem localRow_image (s : State) (k : Packet) (slot : Nat) (row : List Byte) :
    KeepsImage s (localRow s k slot row) := by
  unfold localRow
  split <;> simp
@[simp] theorem sporeRow_image (s : State) (port : PortId) (k : Packet) (g : BitVec 128) (row : List Byte) :
    KeepsImage s (sporeRow s port k g row) := by simp [sporeRow]
@[simp] theorem endRow_image (s : State) (port : PortId) (k : Packet) (g : BitVec 128) :
    KeepsImage s (endRow s port k g) := by
  unfold endRow
  split <;> simp
@[simp] theorem drainFlit_image (s : State) (port : PortId) (g : BitVec 128) (data : List Byte) :
    KeepsImage s (drainFlit s port g data) := by
  unfold drainFlit
  dsimp only
  (repeat' split) <;> simp
@[simp] theorem endPacket_image (s : State) (port : PortId) (g : BitVec 128) : KeepsImage s (endPacket s port g) := by
  unfold endPacket
  split <;> simp
@[simp] theorem drainLane_image (s : State) (l : PortId × BitVec 128 × List Byte) : KeepsImage s (drainLane s l) := by
  unfold drainLane
  dsimp only
  split <;> simp
@[simp] theorem drainLanes_image (n : Nat) (s : State) : KeepsImage s (drainLanes n s) := by
  induction n generalizing s with
  | zero => simp [drainLanes]
  | succ n ih =>
    unfold drainLanes
    split
    · simp
    · exact (drainLane_image ..).trans (ih _)
@[simp] theorem settleDrain_image (s : State) : KeepsImage s (settleDrain s) := drainLanes_image ..

/-! ## The biases -/

@[simp] theorem statWrite_image (s : State) (c : CtxId) (a : Nat) (data : List Byte) :
    KeepsImage s (statWrite s c a data) := by simp [statWrite]
@[simp] theorem recheckLoad_image (s : State) : KeepsImage s (recheckLoad s) := by simp [recheckLoad]
@[simp] theorem putTotals_image (s : State) (c : CtxId) (i : Nat) (h : Nat) (u : PendUpdate) (old : List F32) :
    KeepsImage s (putTotals s c i h u old) := by simp [putTotals]
@[simp] theorem popUpdate_image (s : State) (c : CtxId) : KeepsImage s (popUpdate s c) := by simp [popUpdate]
@[simp] theorem updateFront_image (s : State) (c : CtxId) (u : PendUpdate) : KeepsImage s (updateFront s c u) := by
  unfold updateFront
  split <;> simp
@[simp] theorem updateOn_image (n : Nat) (c : CtxId) (s : State) : KeepsImage s (updateOn n c s) := by
  induction n generalizing s with
  | zero => simp [updateOn]
  | succ n ih =>
    unfold updateOn
    dsimp only
    split
    · simp
    · split
      · exact (updateFront_image ..).trans (ih _)
      · exact updateFront_image ..
@[simp] theorem updateTurns_image (n : Nat) (s : State) : KeepsImage s (updateTurns n s) := by
  induction n generalizing s with
  | zero => simp [updateTurns]
  | succ n ih =>
    unfold updateTurns
    exact (foldl_image _ (fun u c => updateOn_image _ c u) _ _).trans (ih _)
@[simp] theorem update_image (s : State) : KeepsImage s (update s) := updateTurns_image ..

/-! ## The security unit -/

@[simp] theorem readBody_image (s : State) (e : Nat) : KeepsImage s (readBody s e) := by simp [readBody]
@[simp] theorem provision_image (s : State) (w : ProvWrite) : KeepsImage s (provision s w) := by
  cases w <;> simp [provision]
@[simp] theorem provisionAll_image (s : State) : KeepsImage s (provisionAll s) := by
  unfold provisionAll
  exact KeepsImage.trans (t := { s with provWait := [] }) (by simp) (foldl_image _ (fun u x => provision_image u x) _ _)

/-! ## What follows of itself -/

@[simp] theorem checkJob_image (c : CtxId) (s : State) (j : TpJob) : KeepsImage s (checkJob c s j) := by simp [checkJob]
@[simp] theorem checkJobs_image (s : State) : KeepsImage s (checkJobs s) := by simp [checkJobs]
@[simp] theorem queueCtx_image (s : State) (c : CtxId) : KeepsImage s (queueCtx s c) := by simp [queueCtx]
@[simp] theorem settleRunning_image (s : State) (c : CtxId) : KeepsImage s (settleRunning s c) := by
  simp [settleRunning]
@[simp] theorem settleSave_image (s : State) (c : CtxId) : KeepsImage s (settleSave s c) := by simp [settleSave]
@[simp] theorem settleSched_image (s : State) : KeepsImage s (settleSched s) := by
  unfold settleSched
  dsimp only
  (repeat' split) <;> simp
@[simp] theorem endWait_image (s : State) (c : CtxId) (j : Job) (st v0 : Nat) : KeepsImage s (endWait s c j st v0) := by
  simp [endWait]
@[simp] theorem ownWait_image (s : State) (c : CtxId) : KeepsImage s (ownWait s c) := by
  unfold ownWait
  split <;> simp
@[simp] theorem dealCrit_image (s : State) (c : CtxId) : KeepsImage s (dealCrit s c) := by
  unfold dealCrit
  split <;> simp
@[simp] theorem dropBad_image (n : Nat) (c : CtxId) (s : State) : KeepsImage s (dropBad n c s) := by
  induction n generalizing s with
  | zero => simp [dropBad]
  | succ n ih =>
    unfold dropBad
    split
    · split
      · exact KeepsImage.trans (by simp) (ih _)
      · simp
    · simp
@[simp] theorem settleWalker_image (s : State) (c : CtxId) : KeepsImage s (settleWalker s c) := by simp [settleWalker]
@[simp] theorem endJob_image (s : State) (c : CtxId) (k : BitVec 32) : KeepsImage s (endJob s c k) := by
  unfold endJob
  split <;> simp
@[simp] theorem settleTps_image (s : State) (c : CtxId) : KeepsImage s (settleTps s c) := by
  unfold settleTps
  exact (endTps_image s c).trans (foldl_image _ (fun u j => endJob_image u c _) _ _)

/-! ## The security unit -/

/-- The self-test's results stay, and an engine without an image stays without one. -/
def NoImage (s t : State) : Prop := t.st = s.st ∧ (s.fw.valid = false → t.fw.valid = false)

theorem KeepsImage.noImage {s t : State} (h : KeepsImage s t) : NoImage s t := ⟨h.2, fun hv => by rw [h.1, hv]⟩

theorem NoImage.trans {s t u : State} (h : NoImage s t) (k : NoImage t u) : NoImage s u :=
  ⟨k.1.trans h.1, fun hv => k.2 (h.2 hv)⟩

/-- Only the taking of a FW_LOAD touches the store: it drops the image (17 R374). -/
theorem dropImage_noImage (s : State) (e : Nat) : NoImage s (dropImage s e) := by
  unfold dropImage
  split
  · exact ⟨rfl, fun _ => rfl⟩
  · exact ⟨rfl, id⟩

theorem takeEnvelope_noImage (s : State) (p : CritPath) : NoImage s (takeEnvelope s p) := by
  have htaken : NoImage s { s with sec := { s.sec with reading := some p, order := s.sec.order.drop 1 } } := ⟨rfl, id⟩
  unfold takeEnvelope
  dsimp only
  split
  · split
    · exact htaken
    · exact (htaken.trans (dropImage_noImage ..)).trans (readBody_image ..).noImage
  · exact htaken

theorem settleSec_noImage (s : State) : NoImage s (settleSec s) := by
  have hprov : NoImage s (if provHeld s then s else provisionAll s) := by
    split
    · exact ⟨rfl, id⟩
    · exact (provisionAll_image s).noImage
  unfold settleSec
  dsimp only
  split
  · exact ⟨rfl, id⟩
  · split
    · exact hprov.trans (takeEnvelope_noImage ..)
    · exact hprov

theorem settle_noImage (s : State) : NoImage s (settle s) := by
  have hunits (u : State) : KeepsImage u (update (settleDrain ((fins 16).foldl settleDma u))) := by simp
  have hpump (u : State) : KeepsImage u (pumpRecs ((fins 16).foldl settleTps u)) := by simp
  unfold settle
  split
  · exact ⟨rfl, id⟩
  · refine NoImage.trans (NoImage.trans ?_ (settleSec_noImage _)) (hpump _).noImage
    exact KeepsImage.noImage (by simp)


end Sys2Proof.Proofs
end

section
/-!
PROOFS. The self-test, the quiesce and the instruction store (17 R366 to R376).
-/
namespace Sys2Proof.Proofs

open Sys2Proof Sys2Proof.Machine

/-! ## The key-store step -/

/-- The state at the end of step 10, before the provisioning writes that wait. -/
def keyStepEnded (s : State) : State :=
  let d := if s.st.fromOff then 0 else keyDetail s
  let s1 := if s.st.fromOff then zeroSlots { s with sec := { s.sec with erasing := false } }
    else { s with slots := vmap (fun k => if kcvWrong k then keySlotReset else k) s.slots }
  { s1 with st := { s1.st with keyStepPending := false, step := 10, details := s1.st.details.set 9 d } }

theorem keyStepEnded_slots (s : State) (i : Fin 8) : (keyStepEnded s).slots[i]
    = (if s.st.fromOff ∨ kcvWrong s.slots[i] then keySlotReset else s.slots[i]) := by
  cases hoff : s.st.fromOff <;> simp [keyStepEnded, hoff, zeroSlots, vmap]

theorem keyStepEnded_provWait (s : State) : (keyStepEnded s).provWait = s.provWait := by
  cases hoff : s.st.fromOff <;> simp [keyStepEnded, hoff, zeroSlots]

theorem provisionAll_none {s : State} (h : s.provWait = []) : provisionAll s = { s with provWait := [] } := by
  rw [provisionAll, h, List.foldl_nil]

theorem exec_selftestKeyStoreStepEnd {s : State} (heng : s.eng = .selftest) (hkey : s.st.keyStepPending = true)
    (htime : 2157152 ≤ testTicks s) : exec .selftestKeyStoreStepEnd s
      = finish s (if provHeld (keyStepEnded s) then keyStepEnded s else provisionAll (keyStepEnded s)) := by
  change execSelftestKeyStoreStepEnd s = _
  exact guarded_true (by simp [heng, hkey, htime])

/-! ## The end of a self-test -/

theorem enterSafe_passed (s : State) (cause : Nat) : (enterSafe s cause).st.passed = s.st.passed := by
  obtain ⟨-, -, hst⟩ := safeEntered_spares s cause
  have hdiag (u : State) : (writeDiag u).st.passed = u.st.passed := by
    unfold writeDiag
    split
    · rfl
    · obtain ⟨-, -, hst⟩ := foldl_hostIssue_spares (.diag (u.st.diagNo + 1)) (fun i => u.st.diag.toNat + 64 * i)
        (fun i => slice (diagBytes u) (64 * i) 64) (tabulate 4 id)
        { u with st := { u.st with diagNo := u.st.diagNo + 1, diagPending := u.st.diagPending ++ [(u.st.diagNo + 1, 4)] } }
      have hpassed := congrArg SelfTest.passed hst
      exact hpassed
  rw [enterSafe_eq, hdiag, hst]
  rfl

/-- A self-test that fails does so for a step, for the slices, or for the instruction store. -/
theorem failCause_cases (s : State) : failCause s = 1 ∨ failCause s = 2 ∨ failCause s = 4 := by
  unfold failCause
  (repeat' split) <;> simp

/-- The state of a self-test that ends with its results logged. -/
def testEnded (s : State) : State :=
  if testPasses s then { s with eng := .up, st := { s.st with passed := true } }
  else enterSafe { s with fresh := s.fresh + 1 } (failCause s)

theorem exec_selftestComplete {s : State} (heng : s.eng = .selftest) (hkey : s.st.keyStepPending = false)
    (htime : s.fw.valid = false ∨ 2657152 ≤ testTicks s) (r : SelfTestResult) :
    exec (.selftestComplete r) s = finish s (testEnded (logTest s r)) := by
  change execSelftestComplete r s = _
  refine guarded_true ?_
  obtain hfw | htime := htime
  · simp [heng, testOver, hkey, hfw]
  · simp [heng, testOver, hkey, htime]

theorem testEnded_passes {s : State} (h : testPasses s = true) :
    (testEnded s).eng = .up ∧ (testEnded s).st.passed = true ∧ (testEnded s).slots = s.slots := by
  rw [testEnded, if_pos h]
  exact ⟨rfl, rfl, rfl⟩

theorem testEnded_fails {s : State} (h : testPasses s = false) (hst : s.st.passed = false) :
    (testEnded s).eng = .safe ∧ (testEnded s).st.passed = false
      ∧ 1 ≤ (testEnded s).st.safeCause ∧ (testEnded s).st.safeCause ≤ 4 := by
  obtain ⟨-, -, hcause⟩ := enterSafe_keeps { s with fresh := s.fresh + 1 } (failCause s)
  have hpassed := enterSafe_passed { s with fresh := s.fresh + 1 } (failCause s)
  rw [testEnded, if_neg (by simp [h]), hcause]
  refine ⟨enterSafe_eng .., hpassed.trans hst, ?_⟩
  obtain hc | hc | hc := failCause_cases s <;> rw [hc] <;> decide

/-! ## The quiesce -/

/-- A context in use is reset. -/
def resetInUse (s : State) (c : CtxId) : State := if isFree s c then s else resetCtx s c

theorem resetCtx_state (s : State) (c d : CtxId) :
    ((resetCtx s c).ctx d).state = if d = c then .idle else (s.ctx d).state := by
  split
  · next hd =>
    obtain ⟨hidle, -⟩ := clearTables_self (clearSave (flushRecs (abortBoundary s c) c) c) c
    rw [hd, resetCtx_eq, hidle]
  · next hd =>
    have hstate := congrArg Ctx.state (resetCtx_ctx s hd)
    generalize resetCtx s c = t at hstate ⊢
    exact hstate

theorem resetInUse_state (s : State) (c d : CtxId) : ((resetInUse s c).ctx d).state
    = if d = c ∧ (s.ctx d).state ≠ .free then .idle else (s.ctx d).state := by
  unfold resetInUse isFree
  by_cases hd : d = c
  · subst hd
    by_cases hfree : (s.ctx d).state = .free <;> simp [hfree, resetCtx_state]
  · split <;> simp [hd, resetCtx_state]

theorem foldl_resetInUse_state (l : List CtxId) (d : CtxId) (s : State) : ((l.foldl resetInUse s).ctx d).state
    = if d ∈ l ∧ (s.ctx d).state ≠ .free then .idle else (s.ctx d).state := by
  induction l generalizing s with
  | nil => simp
  | cons c l ih =>
    rw [List.foldl_cons, ih, resetInUse_state]
    by_cases hfree : (s.ctx d).state = .free
    · simp [hfree]
    · by_cases hd : d = c
      · subst hd
        simp [hfree]
      · simp [hfree, hd]

theorem abortBoundary_spares (s : State) (c : CtxId) : Spares s (abortBoundary s c) := by
  refine spares_foldl (fun u d => ?_) _ s
  exact spares_ite ⟨rfl, rfl, rfl⟩ (.refl u)

theorem flushRecs_spares (s : State) (c : CtxId) : Spares s (flushRecs s c) := by
  refine Spares.trans ?_ (modCtx_spares _ c _)
  refine Spares.trans (t := { s with hostOut := s.hostOut.map fun h =>
    if h.owner == (.record c) then { h with owner := .lastRecord c } else h }) ⟨rfl, rfl, rfl⟩ ?_
  refine spares_foldl (fun u x => ?_) _ _
  exact ⟨rfl, rfl, rfl⟩

theorem resetCtx_spares (s : State) (c : CtxId) : Spares s (resetCtx s c) := by
  have hclear (u : State) : Spares u (clearTables u c) := ⟨rfl, rfl, rfl⟩
  rw [resetCtx_eq]
  exact (((abortBoundary_spares s c).trans (flushRecs_spares _ c)).trans (clearSave_portMoves _ c).spares).trans (hclear _)

theorem resetInUse_spares (s : State) (c : CtxId) : Spares s (resetInUse s c) := spares_ite (.refl s) (resetCtx_spares s c)

theorem resetInUse_works (s : State) (c : CtxId) : Works s (resetInUse s c) := by
  unfold resetInUse
  split
  · simp
  · exact resetCtx_works s c

/-- Every context in use is reset; the key slots and the fuse input stay. -/
theorem resetAll_keeps (s : State) : ((fins 16).foldl resetInUse s).slots = s.slots
    ∧ ((fins 16).foldl resetInUse s).pins = s.pins
    ∧ ∀ c : CtxId, (((fins 16).foldl resetInUse s).ctx c).state = if (s.ctx c).state = .free then .free else .idle := by
  obtain ⟨hslots, -⟩ := spares_foldl resetInUse_spares (fins 16) s
  obtain ⟨⟨-, -, hpins, -⟩, -⟩ := foldl_works _ resetInUse_works (fins 16) s
  refine ⟨hslots, hpins, fun c => ?_⟩
  rw [foldl_resetInUse_state]
  by_cases hfree : (s.ctx c).state = .free <;> simp [hfree, mem_fins16]

theorem exec_quiesceDone {s : State} (hlive : s.live = true) (hq : quiesced s = true) :
    exec .quiesceDone s = finish s (enterSelftest ((fins 16).foldl resetInUse s) false) := by
  change execQuiesceDone s = _
  exact guarded_true (by simp [hlive, hq])

/-! ## Instruction store errors -/

/-- The image is lost. -/
def imageLost (s : State) : State := { s with fw := { s.fw with valid := false, version := 0, image := [] } }

/-- What an error that is not corrected does. -/
def storeLost (s : State) : State :=
  if s.eng == .selftest then { imageLost s with st := { s.st with eccHit := true } } else settle (enterSafe (imageLost s) 4)

theorem exec_instructionStoreError {s : State} (hoff : s.eng ≠ .off) (hlocked : s.eng ≠ .locked) :
    exec (.instructionStoreError .single) s = .next { s with fw := { s.fw with corrected := satInc s.fw.corrected } }
    ∧ exec (.instructionStoreError .double) s = finish s (storeLost s) := by
  have hon : (s.on && s.eng != .locked) = true := by simp [State.on, hoff, hlocked]
  refine ⟨?_, ?_⟩
  · change execInstructionStoreError .single s = _
    exact guarded_true hon
  · change execInstructionStoreError .double s = _
    exact guarded_true hon

theorem storeLost_fw (s : State) : (storeLost s).fw.valid = false := by
  unfold storeLost
  split
  · rfl
  · obtain ⟨-, hfw, -⟩ := enterSafe_keeps (imageLost s) 4
    exact (settle_noImage _).2 (by rw [hfw]; rfl)

theorem storeLost_up {s : State} (hup : s.eng = .up) : (storeLost s).eng = .safe ∧ (storeLost s).st.safeCause = 4 := by
  obtain ⟨-, -, hcause⟩ := enterSafe_keeps (imageLost s) 4
  obtain ⟨⟨heng, -⟩, -⟩ := settle_works (enterSafe (imageLost s) 4)
  obtain ⟨hst, -⟩ := settle_noImage (enterSafe (imageLost s) 4)
  rw [storeLost, if_neg (by simp [hup]), heng, hst]
  exact ⟨enterSafe_eng .., hcause⟩

/-- Settles O60: each step of the self-test, the quiesce, and the two instruction store errors. -/
theorem selfTest : Obligations.SelfTest := by
  refine fun s => ⟨fun heng hkey htime hnone => ?_, fun r heng hkey htime => ?_, fun hlive hq => ?_,
    fun hlive hq => ?_, fun hoff hlocked => ?_⟩
  · rw [exec_selftestKeyStoreStepEnd heng hkey htime, provisionAll_none ((keyStepEnded_provWait s).trans hnone)]
    refine ⟨_, rfl, ?_⟩
    split <;> exact ⟨rfl, keyStepEnded_slots s⟩
  · rw [exec_selftestComplete heng hkey htime]
    refine ⟨fun hpass => ?_, fun hfail => ?_⟩
    · obtain ⟨hup, hpassed, hslots⟩ := testEnded_passes hpass
      generalize testEnded (logTest s r) = t at *
      exact ⟨_, rfl, hup, hpassed, hslots⟩
    · obtain ⟨hsafe, hpassed, hlow, hhigh⟩ := testEnded_fails hfail rfl
      generalize testEnded (logTest s r) = t at *
      exact ⟨_, rfl, hsafe, hpassed, hlow, hhigh⟩
  · change execDmAck s = _
    exact guarded_true (by simp [hlive, hq])
  · obtain ⟨hslots, hpins, hstates⟩ := resetAll_keeps s
    obtain ⟨⟨-, -, -, kslots, kstates⟩, hfuse, hdir, htiles⟩ := enterSelftest_enters ((fins 16).foldl resetInUse s) false
    have heng := enterSelftest_eng ((fins 16).foldl resetInUse s) false
    rw [exec_quiesceDone hlive hq]
    generalize (fins 16).foldl resetInUse s = u at *
    generalize enterSelftest u false = t at *
    exact ⟨_, rfl, heng, hfuse.trans hpins, hdir, htiles, fun c => (kstates c).trans (hstates c), kslots.trans hslots⟩
  · obtain ⟨hsingle, hdouble⟩ := exec_instructionStoreError hoff hlocked
    have hfw := storeLost_fw s
    have hup := fun h => storeLost_up (s := s) h
    rw [hdouble]
    generalize storeLost s = t at *
    exact ⟨hsingle, _, rfl, hfw, hup⟩

end Sys2Proof.Proofs
end
